-- ==== Sys2Proof/Word.lean ====
section
/-!
DEFINITION. The word types of the Cotoger Aderra model (spec/00_scope.md R5, R6: bit 0 is the least
significant bit, values in memory are little-endian) and the identifiers of its units.
-/
namespace Sys2Proof

/-- One byte of device memory, of a flit, of a chunk or of a host buffer. -/
abbrev Byte := BitVec 8
/-- A register of a page is 32 bits wide (R37). -/
abbrev W32 := BitVec 32
/-- A scalar register of a wide core is 64 bits wide (R154). -/
abbrev W64 := BitVec 64
/-- A 128-bit SM4 key. -/
abbrev Key := BitVec 128
/-- A 256-bit SM3 digest, byte 0 in bits 7:0. -/
abbrev Digest := BitVec 256
/-- A vector register: 128 lanes of 32 bits, lane i in bits 32i + 31 : 32i (R154). -/
abbrev VReg := BitVec 4096
/-- A predicate register: bit i governs vector lane i (R154). -/
abbrev PReg := BitVec 128
/-- A byte offset within BAR0 (R63: BAR0 is 128 MiB). -/
abbrev Bar0 := BitVec 27
/-- An address of a register access: below 2^27 an offset within BAR0, which is also its offset in the register mirror; from there on an
offset within the mirror alone (R70). -/
abbrev RegAddr := BitVec 28
/-- A die site (R14). -/
abbrev Site := Fin 4

/-- A wide core: die site and core number k = 8 × cluster + core (R65). -/
structure CoreRef where
  site : Site
  core : Fin 128
  deriving DecidableEq, Repr

/-- A hardware context of a wide core (R150). -/
structure CtxRef where
  site : Site
  core : Fin 128
  ctx  : Fin 16
  deriving DecidableEq, Repr

/-- A die-to-die module: die site, edge (false A, true B, R16) and logical module (R312). -/
structure ModRef where
  site : Site
  edgeB : Bool
  mod  : Fin 32
  deriving DecidableEq, Repr

end Sys2Proof
end

