-- ==== Sys2Proof/Syntax.lean ====
section
/-!
DEFINITION. The commands of the package: one constructor of `Instr` for every row of
spec/opcode_table.json, with the operands the row's rules name. The table gives no encoding, so no
operand has a bit position; an operand is what the sender of the command supplies: a written value, a
measured reading, the contents of a message. Images, tokens, segments, records and frames are the bytes that the rules lay out.
-/
namespace Sys2Proof

/-- Who accesses memory in a memory command (R153, R286, R300): a unit of a die, a postmaster core, or one that belongs to no die. -/
inductive MemAgent where
  | die (site : Site)
  | postmaster (site : Site) (core : Fin 8)
  | host
  | hdma
  | manager
  deriving DecidableEq, Repr

/-- Who makes a register access or an interface write (R42, R62, R83, R88): the host runtime through
BAR0, the board management controller over SMBus, the package manager, or a postmaster core of a die through the
register mirror of R70, which runs the resident firmware or a program of the job. -/
inductive Requester where
  | host | board | manager
  | firmware (site : Site) (core : Fin 8)
  | job (site : Site) (core : Fin 8)
  deriving DecidableEq, Repr

/-- A loop whose loss of lock R73 handles. -/
inductive ClockLoop where
  | base
  | die (site : Site)
  | cluster (site : Site) (c : Fin 16)
  deriving DecidableEq, Repr

/-- An X.509 v3 certificate (R126, R132) with what a decoder of that standard finds in its DER bytes: the signed part, the public key
x ‖ y, the types that the Yalser key-purpose extension names, the subject serial number, the values of the TcbInfo extension, and the
signature r ‖ s over the signed part. The encoding itself is no part of the spec (DESIGN CHOICE, log entry 3). -/
structure Cert where
  der      : List Byte
  tbs      : List Byte
  key      : List Byte
  purposes : List Nat
  serial   : W64
  tcbInfo  : List Digest
  sig      : List Byte
  deriving DecidableEq, Repr

/-- A signed image of R125 in boot flash: its bytes, and its signer certificate decoded. -/
structure SignedImage where
  bytes : List Byte
  cert  : Cert
  deriving DecidableEq, Repr

/-- A temperature sensor (R87): one per cluster, four in the base, one per HBM stack. -/
inductive Sensor where
  | cluster (site : Site) (c : Fin 16)
  | base (i : Fin 4)
  | stack (s : Fin 12)
  deriving DecidableEq, Repr

/-- A configuration-space request of the host (R96, R97). -/
inductive CfgReg where
  | vendorId | deviceId | classCode | revisionId
  | commandReg | bar (i : Fin 6) | msixControl | msixTable | msixPba | pmcsr
  | deviceCap | deviceControl | deviceCap2 | deviceControl2 | linkControl | linkStatus
  | aerUncorStatus | aerUncorMask | aerUncorSeverity | aerCorStatus | aerCorMask
  deriving DecidableEq, Repr

/-- One port entry of the topology record (R350). -/
structure TopoEntry where
  peer     : BitVec 11
  present  : Bool
  peerPort : BitVec 8
  klass    : BitVec 8
  peerDevid : Digest
  deriving DecidableEq, Repr

/-- What a topology record names (R350): the package's own ID, whether it is for twin mode, the 50 port entries. -/
structure Topology where
  ownId      : BitVec 11
  twin       : Bool
  entries    : List TopoEntry
  digest     : Digest
  deriving DecidableEq, Repr

/-- A checkpoint segment as it is read back (R143, R144): its bytes, header, ciphertext and tag, and where the job asks for its
plaintext. -/
structure Segment where
  bytes  : List Byte
  ppa    : BitVec 40
  deriving DecidableEq, Repr

/-- An operating-point table (R489): the generation it replaces, the package serial, and VOLT in mV and FREQ in 50 MHz units of
cluster 16d + c. -/
structure OpTable where
  baseGen    : W32
  serial     : W64
  entries    : List (BitVec 16 × Byte)
  deriving DecidableEq, Repr

/-- A host DMA descriptor (R107). -/
structure HdmaDesc where
  hostAddr : W64
  ppa      : BitVec 40
  bytes    : W32
  toHost   : Bool
  checked  : Bool
  poly     : BitVec 2
  irq      : Bool
  seq      : W32
  check    : W64
  reserved : Bool
  deriving DecidableEq, Repr

/-- A HELLO message (R135). -/
structure Hello where
  proto   : Byte
  level   : Byte
  pkgId   : BitVec 11
  port    : Byte
  nonce   : Digest
  inDebug : Bool
  pools   : List (BitVec 16)
  deriving DecidableEq, Repr

/-- A handshake message with its content (R135). -/
inductive HsMsg where
  | hello (h : Hello)
  | cert (aliasCert devidCert : Cert)
  | kex (point : BitVec 520)
  | confirm (value : Digest) (sig : BitVec 512)
  | ready
  | abort (reason : BitVec 16)
  deriving DecidableEq, Repr

/-- The header fields of a bundle that a slot operation is issued under (R156). -/
structure Hdr where
  psel   : BitVec 3
  psense : Bool
  pen    : Bool
  pgate  : Bool
  sparse : BitVec 2
  zskip  : Bool
  tmap   : Bool
  deriving DecidableEq, Repr

/-- The CTRL slot fields (R162). -/
structure CtrlF where
  sd  : BitVec 6
  sa  : BitVec 6
  sb  : BitVec 6
  fn  : BitVec 6
  imm : W32
  deriving DecidableEq, Repr

/-- The LD and ST slot fields (R165); `vr` is VD of a load and VS of a store. -/
structure MemF where
  vr  : BitVec 5
  ds  : BitVec 4
  sa  : BitVec 6
  pd  : BitVec 3
  imm : W32
  deriving DecidableEq, Repr

/-- The VEC slot fields (R166). -/
structure VecF where
  vd  : BitVec 5
  va  : BitVec 5
  vb  : BitVec 5
  vc  : BitVec 5
  pd  : BitVec 3
  typ : BitVec 4
  imm : W32
  deriving DecidableEq, Repr

/-- The fields of MX.MODE (R169). -/
structure MxModeF where
  flow   : BitVec 2
  atype  : BitVec 4
  btype  : BitVec 4
  arrays : BitVec 4
  deriving DecidableEq, Repr

/-- The fields of MX.WLOAD (R169). -/
structure MxWloadF where
  ds     : BitVec 4
  arrays : BitVec 4
  deriving DecidableEq, Repr

/-- The fields of MX.RUN (R169). -/
structure MxRunF where
  da     : BitVec 4
  db     : BitVec 4
  m      : BitVec 6
  n      : BitVec 8
  sk     : BitVec 6
  stidx  : BitVec 6
  tsel   : BitVec 3
  tsense : Bool
  acc    : Bool
  deriving DecidableEq, Repr

/-- The fields of MX.DRAIN (R169). -/
structure MxDrainF where
  dst   : BitVec 4
  ctr   : BitVec 4
  ctrEn : Bool
  otype : BitVec 4
  ovf   : BitVec 2
  rnd   : Bool
  stidx : BitVec 6
  deriving DecidableEq, Repr

/-- What the PUF and the board give at the rising edge of PWR_OK: whether the UDS is reconstructed, and the readings of the 16 laser
inputs, 32 bits each (R75, R127). -/
structure PowerReadings where
  pufOk  : Bool
  lasers : BitVec 512
  deriving DecidableEq, Repr

/-- The command buffer that a host command names: BUF_ADDR and BUF_LEN (R104). -/
structure CmdBuf where
  addr : W64
  len  : W32
  deriving DecidableEq, Repr

/-- The fields of a CONFIRM message: the confirmation value and the Alias signature (R135). -/
structure Confirmation where
  value : Digest
  sig   : BitVec 512
  deriving DecidableEq, Repr

/-- Who reads a word of memory, and its address (R285, R286). -/
structure MemRead where
  agent : MemAgent
  ppa   : BitVec 40
  deriving DecidableEq, Repr

/-- A physical disturbance of a stored HBM word before it is read (R296): XOR masks of the 19 symbols
and of the poison tag. -/
structure Disturb where
  symbols : List (Fin 19 × BitVec 16)
  tag     : BitVec 16
  deriving DecidableEq, Repr

/-- A die-to-die flit as received (R314): header, the 244 payload bytes and the CRC field. -/
structure D2dFlit where
  header  : W64
  payload : List Byte
  crc     : W32
  deriving DecidableEq, Repr

/-- A packet of the network (R344). -/
structure Packet where
  dst   : BitVec 16
  src   : BitVec 16
  typ   : Byte
  flags : Byte
  len   : BitVec 16
  addr  : W64
  tag   : BitVec 16
  route : BitVec 16
  tspec : BitVec 96
  body  : List Byte
  deriving DecidableEq, Repr

/-- A 64-byte docket (R391). -/
abbrev DocketWord := BitVec 512

/-- A Sorter chunk: the 64-byte header of R407 and its payload. -/
structure Chunk where
  header  : BitVec 512
  payload : List Byte
  deriving DecidableEq, Repr

/-- One POSTBOX packet (R436) with its source and payload. -/
structure PbPacket where
  srcPkg  : BitVec 11
  srcSite : BitVec 2
  srcBox  : BitVec 4
  dstBox  : BitVec 4
  pkind   : Byte
  index   : BitVec 16
  seq     : W32
  length  : W32
  body    : List Byte
  deriving DecidableEq, Repr

/-- One cluster's readings at an AGEMON sample (R487). `valid` is false when a monitor gave no reading. -/
structure AgeReading where
  delays : BitVec 16
  ro0    : BitVec 16
  ro1    : BitVec 16
  leak   : BitVec 16
  valid  : Bool
  monitor : BitVec 3
  deriving DecidableEq, Repr

/-- What a test-port access asks for (R35, R128, R146, R147). -/
inductive TestReq where
  | loopback (site : Site) (ctrl : W32) (count : W32)
  | boundaryScan
  | wrapper (site : Site)
  deriving DecidableEq, Repr

/-- Where a failed docket or a notice says its failure arose (R394, R413). -/
structure FailInfo where
  group  : Fin 256
  cseq   : W32
  status : Byte
  origin : BitVec 16
  deriving DecidableEq, Repr

/-- A retry request (R375): the chunk it names. -/
structure ChunkName where
  group : Fin 256
  cseq  : W32
  peer  : BitVec 16
  phase : Byte
  chunk : W32
  deriving DecidableEq, Repr

/-- The halt trigger of R481: page and X code. -/
structure HaltCause where
  page : Bar0
  code : BitVec 12
  deriving DecidableEq, Repr

/-- The commands (spec/opcode_table.json). The first line of each group names the table's rows in order. -/
inductive Instr where
  -- board, power and start-up (R26, R31, R73, R75, R96, R127, R320)
  | pwrOkRise (serviceMode perstN : Bool) (readings : PowerReadings)
  | recoveryImage (img : SignedImage)
  | pwrOkFall
  | perstNAssert
  | perstNDeassert
  | refclkLoss
  | pllUnlock (which : ClockLoop)
  | dieRelease (site : Site)
  | dieReady (site : Site) (stubDigest : Digest)
  | d2dBringup (mismatched : List (Fin 4)) (failed : List (ModRef × Fin 68))
  | d2dPeerAbsent (site : Site) (edgeB : Bool)
  | d2dBringupDone (site : Site) (edgeB : Bool)
  | stackTrainDone (stack : Fin 12) (ok : Bool)
  | portGroupEnable (group : Fin 13)
  | laserLow (input : Fin 16) (wave : Fin 4) (power : Byte)
  | laserRestore (input : Fin 16) (powers : W32)
  | smbusReadTelemetry (block : Bool)
  | smbusSetLimit (watts : W32)
  | smbusEpdRequest
  | smbusRefused (request : W32)
  -- register accesses (R37 to R62)
  | regWrite (who : Requester) (addr : RegAddr) (val : W32) (be : BitVec 4) (hi : Option W32)
  | loReadLatch (who : Requester) (addr : RegAddr)
  | hiWriteHold (who : Requester) (addr : RegAddr) (val : W32)
  | ctrlEnableSet (who : Requester) (page : Bar0)
  | ctrlEnableClear (who : Requester) (page : Bar0)
  | softReset (who : Requester) (page : Bar0) (enable fence : Bool)
  | fenceReq (who : Requester) (page : Bar0)
  | startDone (page : Bar0) (ok : Bool)
  | drainDone (page : Bar0)
  | errStatClear (who : Requester) (page : Bar0) (mask : W32)
  | injectArm (who : Requester) (page : Bar0) (val : W32)
  | commit (who : Requester) (page : Bar0) (key : W32)
  | commitSafePoint (page : Bar0)
  | loopbackDone (site : Site) (errs : W32) (unit lane : Byte)
  -- job start, filler, power, droop, thermal (R78 to R92, R481)
  | jobStartSignal (site : Site)
  | clusterIssueStart (site : Site) (c : Fin 16)
  | fillerWindowExpire (core : CoreRef) (array : Fin 4)
  | fillerRampEnd (core : CoreRef) (array : Fin 4)
  | fillerRampUpDone (core : CoreRef) (array : Fin 4)
  | budgetPeriod (pkgPower : BitVec 16)
  | pmcPeriod (site : Site) (power : BitVec 16)
  | droopDetect (site : Site) (c : Fin 16)
  | droopRecover (site : Site) (c : Fin 16)
  | droopLong (site : Site) (c : Fin 16)
  | supplyLimit (rail : Fin 9)
  | thermSample (sensor : Sensor) (reading : BitVec 12)
  | pkgLimitWrite (who : Requester) (watts : W32)
  | epdRequest (who : Requester) (val : W32)
  | packageHalt (cause : HaltCause)
  -- host link (R93 to R106)
  | configRequest (reg : CfgReg) (write : Option W32)
  | hostLinkDownHalf (upper : Bool)
  | hostLinkRetrain
  | bar2Read (off : BitVec 34) (len : Nat)
  | bar2Write (off : BitVec 34) (data : List Byte)
  | cmdqTailWrite (who : Requester) (val : W32)
  | ringSizeWrite (who : Requester) (response : Bool) (val : W32)
  | rspqHeadWrite (who : Requester) (val : W32)
  | commandResponse
  | badOpcode (tag : W32) (opcode : BitVec 16)
  -- host commands (R116, R117, R134, R141 to R147, R462, R493, R498)
  | identify (tag : W32)
  | attest (tag : W32) (buf : CmdBuf) (nonce : Digest)
  | loadImage (tag : W32) (img : List Byte) (bufOk : Bool)
  | seal (tag : W32) (remeasured : List (Site × Digest × Digest))
  | start (tag : W32)
  | checkpoint (tag : W32)
  | checkpointWrite (site : Site) (number step : W64) (segs : List (BitVec 40 × Nat × BitVec 40))
  | restoreSegment (site : Site) (seg : Segment)
  | endJob (tag : W32)
  | endStepBoundary
  | abort (tag : W32)
  | readWear (tag : W32) (buf : CmdBuf) (fromNumber : W64)
  | proposeOptable (tag : W32) (table : List Byte) (bufOk : Bool)
  | debugToken (tag : W32) (token : List Byte) (bufOk : Bool)
  | twinCtlSolo (tag : W32)
  | twinCtlResync (tag : W32) (step : W64)
  | twinCtlRelease (tag : W32)
  | jobDbWrite (who : Requester) (n : Fin 16) (val : W32)
  | jobNoteWrite (who : Requester) (n : Fin 16) (val : W32)
  -- host DMA, interrupts (R107 to R115)
  | hdmaTailWrite (who : Requester) (ch : Fin 8) (val : W32)
  | hdmaCountWrite (who : Requester) (ch : Fin 8) (val : W32)
  | hdmaDescriptor (ch : Fin 8) (d : HdmaDesc)
  | hdmaDescComplete (ch : Fin 8) (payload refetch : List Byte) (hostOk statusOk : Bool)
  | irqLineRise (page : Bar0)
  | msixUnmask (vector : Fin 1024)
  | remeasure (site : Site) (dieFw stub : Digest)
  -- link handshake and keying (R135 to R138, R347 to R349)
  | hello (port : Fin 50) (msg : Hello)
  | cert (port : Fin 50) (aliasCert devidCert : Cert)
  | kex (port : Fin 50) (point : BitVec 520)
  | confirm (port : Fin 50) (msg : Confirmation)
  | handshakeReady (port : Fin 50)
  | handshakeAbort (port : Fin 50) (reason : BitVec 16)
  | handshakeTimeout (port : Fin 50)
  | authRetry (port : Fin 50)
  | rekey (port : Fin 50) (receive : Bool)
  -- the wide core: issue and the CTRL slot (R151, R162)
  | bundleIssue (core : CoreRef)
  | add (c : CtxRef) (h : Hdr) (f : CtrlF)
  | sub (c : CtxRef) (h : Hdr) (f : CtrlF)
  | mul (c : CtxRef) (h : Hdr) (f : CtrlF)
  | mulhu (c : CtxRef) (h : Hdr) (f : CtrlF)
  | and (c : CtxRef) (h : Hdr) (f : CtrlF)
  | or (c : CtxRef) (h : Hdr) (f : CtrlF)
  | xor (c : CtxRef) (h : Hdr) (f : CtrlF)
  | shl (c : CtxRef) (h : Hdr) (f : CtrlF)
  | shr (c : CtxRef) (h : Hdr) (f : CtrlF)
  | sra (c : CtxRef) (h : Hdr) (f : CtrlF)
  | min (c : CtxRef) (h : Hdr) (f : CtrlF)
  | max (c : CtxRef) (h : Hdr) (f : CtrlF)
  | minu (c : CtxRef) (h : Hdr) (f : CtrlF)
  | maxu (c : CtxRef) (h : Hdr) (f : CtrlF)
  | cmp (c : CtxRef) (h : Hdr) (f : CtrlF)
  | lui (c : CtxRef) (h : Hdr) (f : CtrlF)
  | br (c : CtxRef) (h : Hdr) (f : CtrlF)
  | jal (c : CtxRef) (h : Hdr) (f : CtrlF)
  | jr (c : CtxRef) (h : Hdr) (f : CtrlF)
  | halt (c : CtxRef) (h : Hdr) (f : CtrlF)
  | sld (c : CtxRef) (h : Hdr) (f : CtrlF)
  | slw (c : CtxRef) (h : Hdr) (f : CtrlF)
  | sst (c : CtxRef) (h : Hdr) (f : CtrlF)
  | ssw (c : CtxRef) (h : Hdr) (f : CtrlF)
  | s2v (c : CtxRef) (h : Hdr) (f : CtrlF)
  | v2s (c : CtxRef) (h : Hdr) (f : CtrlF)
  | cset (c : CtxRef) (h : Hdr) (f : CtrlF)
  | cadd (c : CtxRef) (h : Hdr) (f : CtrlF)
  | crd (c : CtxRef) (h : Hdr) (f : CtrlF)
  | flgrd (c : CtxRef) (h : Hdr) (f : CtrlF)
  | flgclr (c : CtxRef) (h : Hdr) (f : CtrlF)
  | rseed (c : CtxRef) (h : Hdr) (f : CtrlF)
  | waitc (c : CtxRef) (h : Hdr) (f : CtrlF)
  | waitd (c : CtxRef) (h : Hdr) (f : CtrlF)
  | waitSatisfied (c : CtxRef)
  | barc (c : CtxRef) (h : Hdr) (f : CtrlF)
  | dbrd (c : CtxRef) (h : Hdr) (f : CtrlF)
  | note (c : CtxRef) (h : Hdr) (f : CtrlF)
  | dld (c : CtxRef) (h : Hdr) (f : CtrlF)
  | fetch (c : CtxRef) (h : Hdr) (f : CtrlF)
  | put (c : CtxRef) (h : Hdr) (f : CtrlF)
  | dpos (c : CtxRef) (h : Hdr) (f : CtrlF)
  | dskip (c : CtxRef) (h : Hdr) (f : CtrlF)
  | post (c : CtxRef) (h : Hdr) (f : CtrlF)
  | pack (c : CtxRef) (h : Hdr) (f : CtrlF)
  -- LD and ST slots (R165)
  | ldv (c : CtxRef) (h : Hdr) (f : MemF)
  | ldm (c : CtxRef) (h : Hdr) (f : MemF)
  | ldp (c : CtxRef) (h : Hdr) (f : MemF)
  | ldps (c : CtxRef) (h : Hdr) (f : MemF)
  | stv (c : CtxRef) (h : Hdr) (f : MemF)
  | stm (c : CtxRef) (h : Hdr) (f : MemF)
  | stp (c : CtxRef) (h : Hdr) (f : MemF)
  -- VEC slot (R166)
  | vadd (c : CtxRef) (h : Hdr) (f : VecF)
  | vsub (c : CtxRef) (h : Hdr) (f : VecF)
  | vmul (c : CtxRef) (h : Hdr) (f : VecF)
  | vfma (c : CtxRef) (h : Hdr) (f : VecF)
  | vmax (c : CtxRef) (h : Hdr) (f : VecF)
  | vmin (c : CtxRef) (h : Hdr) (f : VecF)
  | vand (c : CtxRef) (h : Hdr) (f : VecF)
  | vor (c : CtxRef) (h : Hdr) (f : VecF)
  | vxor (c : CtxRef) (h : Hdr) (f : VecF)
  | vshl (c : CtxRef) (h : Hdr) (f : VecF)
  | vshr (c : CtxRef) (h : Hdr) (f : VecF)
  | vsra (c : CtxRef) (h : Hdr) (f : VecF)
  | vcmp (c : CtxRef) (h : Hdr) (f : VecF)
  | vsel (c : CtxRef) (h : Hdr) (f : VecF)
  | vbcast (c : CtxRef) (h : Hdr) (f : VecF)
  | pand (c : CtxRef) (h : Hdr) (f : VecF)
  | por (c : CtxRef) (h : Hdr) (f : VecF)
  | pxor (c : CtxRef) (h : Hdr) (f : VecF)
  | pnot (c : CtxRef) (h : Hdr) (f : VecF)
  | vcvt (c : CtxRef) (h : Hdr) (f : VecF)
  | vexp2 (c : CtxRef) (h : Hdr) (f : VecF)
  | vrcp (c : CtxRef) (h : Hdr) (f : VecF)
  | vrsqrt (c : CtxRef) (h : Hdr) (f : VecF)
  | vlog2 (c : CtxRef) (h : Hdr) (f : VecF)
  | vrsum (c : CtxRef) (h : Hdr) (f : VecF)
  | vrmax (c : CtxRef) (h : Hdr) (f : VecF)
  | vperm (c : CtxRef) (h : Hdr) (f : VecF)
  | route (c : CtxRef) (h : Hdr) (f : VecF)
  | routeM (c : CtxRef) (h : Hdr) (f : VecF)
  -- MX slot and the arrays (R169, R195 to R232)
  | mxMode (c : CtxRef) (h : Hdr) (f : MxModeF)
  | mxWload (c : CtxRef) (h : Hdr) (f : MxWloadF)
  | mxRun (c : CtxRef) (h : Hdr) (f : MxRunF)
  | mxDrain (c : CtxRef) (h : Hdr) (f : MxDrainF)
  | mxQueueHead (core : CoreRef)
  | blockResultPush (core : CoreRef)
  | mxRunComplete (core : CoreRef)
  | drainSwap (core : CoreRef)
  | drainComplete (core : CoreRef)
  -- streams and contexts (R176, R177, R186, R192)
  | streamDataArrive (c : CtxRef) (d : Fin 16) (bytes : Nat)
  | streamUseComplete (c : CtxRef) (d : Fin 16)
  | fetchComplete (core : CoreRef) (idx : Fin 16)
  | putComplete (core : CoreRef) (idx : Fin 16)
  | packComplete (c : CtxRef)
  | ctxGo (who : Requester) (core : CoreRef) (mask : BitVec 16)
  | ctxStop (who : Requester) (core : CoreRef) (mask : BitVec 16)
  | ctxStopComplete (c : CtxRef)
  | ctxHold (who : Requester) (core : CoreRef) (mask : BitVec 16)
  -- memory (R285 to R311)
  | hbmRead (access : MemRead) (noise : Disturb)
  | hbmWrite (agent : MemAgent) (ppa : BitVec 40) (data : List Byte) (poison : Bool)
  | sramAccess (agent : MemAgent) (ppa : BitVec 40) (write : Option (List Byte)) (poison : Bool) (flips : BitVec 72)
  | refreshWindow (site : Site) (stack : Fin 3)
  | scrubRead (site : Site) (stack : Fin 3) (noise : Disturb)
  | scrubNow (who : Requester) (site : Site) (stack : Fin 3) (val : W32)
  | stackFenceFill (site : Site)
  | fillComplete (site : Site)
  | replicaRewrite (site : Site)
  -- die-to-die edges (R312 to R332)
  | d2dFlitReceive (m : ModRef) (flit : D2dFlit)
  | d2dReplayTimeout (m : ModRef)
  | d2dRetrain (m : ModRef)
  | d2dRetrainDone (m : ModRef) (failed : BitVec 68)
  | moduleDisable (m : ModRef)
  | sidebandTimeout (m : ModRef)
  | edgeQuiesce (site : Site) (edgeB : Bool)
  | quiesceDone (site : Site) (edgeB : Bool)
  | edgeFence (site : Site) (edgeB : Bool)
  | routeRewrite
  -- fabric ports and routers (R333 to R368)
  | frameReceive (port : Fin 50) (frame : List Byte)
  | portReplayTimeout (port : Fin 50)
  | portRetrain (port : Fin 50)
  | portRetrainDone (port : Fin 50) (failed : BitVec 4)
  | retrain (who : Requester) (port : Fin 50) (val : W32)
  | cdrLockLoss (port : Fin 50) (lane : Fin 4)
  | portLightSeen (port : Fin 50)
  | peerRetryTimer (port : Fin 50)
  | packetRoute (site : Site) (arrival : Option (Fin 50)) (pkt : Packet)
  | creditExchange
  | ringHeaterUpdate (engine : Fin 13) (lanes : List (Fin 16 × W32)) (relocked limited : Option (Fin 16))
  -- the Sorter (R382 to R419)
  | docketAccept (site : Site) (replica : Fin 3)
  | allreduce (site : Site) (id : Nat)
  | reduceScatter (site : Site) (id : Nat)
  | allgather (site : Site) (id : Nat)
  | broadcast (site : Site) (id : Nat)
  | reduce (site : Site) (id : Nat)
  | alltoall (site : Site) (id : Nat)
  | alltoallv (site : Site) (id : Nat)
  | barrier (site : Site) (id : Nat)
  | send (site : Site) (id : Nat)
  | recv (site : Site) (id : Nat)
  | norm (site : Site) (id : Nat)
  | gatherDrop (site : Site) (id : Nat)
  | optstep (site : Site) (id : Nat)
  | optstepComplete (site : Site) (id : Nat)
  | chunkSend (site : Site) (lane : Fin 4)
  | chunkReceive (site : Site) (lane : Fin 4) (chunk : Chunk)
  | e2eRetryRequest (site : Site) (name : ChunkName)
  | retryTimeout (site : Site) (lane : Fin 4) (group : Fin 256) (peer : BitVec 16)
  | holdNotice (site : Site) (name : ChunkName)
  | resumeNotice (site : Site) (group : Fin 256) (cseq : W32) (peer : BitVec 16)
  | heldExpired (site : Site) (idx : Nat)
  | failNotice (site : Site) (info : FailInfo)
  | watchdogExpire (site : Site) (id : Nat)
  | docketComplete (site : Site) (id : Nat)
  | docketFail (site : Site) (id : Nat) (status : Byte)
  | normAccClear (who : Requester) (site : Site)
  | noiseAccClear (who : Requester) (site : Site)
  | classDigestClear (who : Requester) (site : Site)
  | bucketTrigger (site : Site)
  | bucketOverfill (site : Site) (slot : Nat)
  | postboxSend (site : Site) (box : Fin 16)
  | postboxData (site : Site) (pkt : PbPacket)
  | postboxGrant (site : Site) (pkt : PbPacket)
  | postboxCredit (site : Site) (pkt : PbPacket)
  | postboxReceiveUse (site : Site) (box : Fin 16)
  -- twin planes (R446 to R464)
  | sealGo (who : Requester) (dies : BitVec 4)
  | twinSeal (bytes : BitVec 768)
  | recopyBegin (mask : BitVec 4) (listCrc : W64)
  | recopyData (site : Site) (range : Fin 8) (off : W64) (data : List Byte) (poison : Bool)
  | recopyEnd (site : Site) (crc : W64)
  | recopyAck (status : Byte)
  | mirrorFence (kind : Byte) (site : Site) (index : Byte)
  | fenceAck (kind : Byte) (site : Site) (index : Byte)
  | mirrorAckTimeout
  | join (lastStep : W64) (state : BitVec 4) (unitCrc : W64)
  | joinResend
  | stopped
  | sealWaitExpire
  | lostWaitExpire
  -- faults, ageing, counters and trace (R465 to R522)
  | fenceSequence (page : Bar0) (code : BitVec 12) (unit : Nat)
  | fenceDrainTimeout (page : Bar0)
  | fenceComplete (page : Bar0)
  | agemonSample (site : Site) (readings : List (Fin 16 × AgeReading))
  | sampleNow (who : Requester) (site : Site) (val : W32) (readings : List (Fin 16 × AgeReading))
  | wearPeriodic
  | evctlClear (who : Requester) (page : Bar0) (mask : Byte)
  | evctlFreeze (who : Requester) (page : Bar0)
  | evctlThaw (who : Requester) (page : Bar0)
  | evctlOvfClear (who : Requester) (page : Bar0) (mask : Byte)
  | counterWrap (page : Bar0) (n : Fin 8)
  | freezeAll (who : Requester) (site : Site)
  | thawAll (who : Requester) (site : Site)
  | mark (who : Requester) (site : Site) (val : W32)
  | traceEntryWrite (site : Site) (kind : Byte) (page : Bar0) (code : BitVec 16) (seq : W32) (data : W64)
  | telemetryRecord
  | portTrainingDone (port : Fin 50) (failed : BitVec 4)
  | hostLinkTrained (rate width : Nat) (reversed : Bool)
  | hostLinkDown
  | testPortAccess (req : TestReq)
  deriving DecidableEq, Repr

end Sys2Proof
end

