-- ==== Sys2Proof/WellFormed.lean ====
section
/-!
DEFINITION. Which commands are well formed: operands that name a page name its start (R37), and a message of a fixed size has that
size. The meanings are total: an ill-formed command still has an outcome.
-/
namespace Sys2Proof

/-- A page starts at a multiple of 4 KiB within BAR0 (R37, R63). -/
def pageOk (page : Bar0) : Bool := page.toNat % 4096 == 0
/-- An access lies within the 16 GiB of BAR2 (R98). -/
def inBar2 (off len : Nat) : Bool := decide (0 < len) && decide (off + len ≤ 2 ^ 34)
/-- The address of a register access: a BAR0 offset, or one of the register mirror with its region of the own die (R37, R70). -/
def regOk (addr : RegAddr) : Bool := decide (addr.toNat < 0x9000000)
/-- One reading per cluster at most (R487). -/
def readingsOk (l : List (Fin 16 × AgeReading)) : Bool := decide ((l.map (·.1)).eraseDups.length = l.length)

/-- Whether a command is well formed. -/
def Instr.wf (i : Instr) : Bool :=
  match i with
  | .pwrOkRise .. => true
  | .recoveryImage .. => true
  | .pwrOkFall => true
  | .perstNAssert => true
  | .perstNDeassert => true
  | .refclkLoss => true
  | .pllUnlock .. => true
  | .dieRelease .. => true
  | .dieReady .. => true
  | .d2dBringup .. => true
  | .d2dPeerAbsent .. => true
  | .d2dBringupDone .. => true
  | .stackTrainDone .. => true
  | .portGroupEnable .. => true
  | .laserLow .. => true
  | .laserRestore .. => true
  | .smbusReadTelemetry .. => true
  | .smbusSetLimit .. => true
  | .smbusEpdRequest => true
  | .smbusRefused .. => true
  | .regWrite _ addr _ _ _ => regOk addr
  | .loReadLatch _ addr => regOk addr
  | .hiWriteHold _ addr _ => regOk addr
  | .ctrlEnableSet _ page => pageOk page
  | .ctrlEnableClear _ page => pageOk page
  | .softReset _ page _ _ => pageOk page
  | .fenceReq _ page => pageOk page
  | .startDone page _ => pageOk page
  | .drainDone page => pageOk page
  | .errStatClear _ page _ => pageOk page
  | .injectArm _ page _ => pageOk page
  | .commit _ page _ => pageOk page
  | .commitSafePoint page => pageOk page
  | .loopbackDone .. => true
  | .jobStartSignal .. => true
  | .clusterIssueStart .. => true
  | .fillerWindowExpire .. => true
  | .fillerRampEnd .. => true
  | .fillerRampUpDone .. => true
  | .budgetPeriod .. => true
  | .pmcPeriod .. => true
  | .droopDetect .. => true
  | .droopRecover .. => true
  | .droopLong .. => true
  | .supplyLimit .. => true
  | .thermSample .. => true
  | .pkgLimitWrite .. => true
  | .epdRequest .. => true
  | .packageHalt cause => pageOk cause.page
  | .configRequest .. => true
  | .hostLinkDownHalf .. => true
  | .hostLinkRetrain => true
  | .bar2Read off len => inBar2 off.toNat len
  | .bar2Write off data => inBar2 off.toNat data.length
  | .cmdqTailWrite .. => true
  | .ringSizeWrite .. => true
  | .rspqHeadWrite .. => true
  | .commandResponse => true
  | .badOpcode .. => true
  | .identify .. => true
  | .attest .. => true
  | .loadImage .. => true
  | .seal _ remeasured => decide ((remeasured.map (·.1)).eraseDups.length = remeasured.length)
  | .start .. => true
  | .checkpoint .. => true
  | .checkpointWrite _ number _ _ => decide (0 < number.toNat)
  | .restoreSegment .. => true
  | .endJob .. => true
  | .endStepBoundary => true
  | .abort .. => true
  | .readWear .. => true
  | .proposeOptable .. => true
  | .debugToken .. => true
  | .twinCtlSolo .. => true
  | .twinCtlResync .. => true
  | .twinCtlRelease .. => true
  | .jobDbWrite .. => true
  | .jobNoteWrite .. => true
  | .hdmaTailWrite .. => true
  | .hdmaCountWrite .. => true
  | .hdmaDescriptor .. => true
  | .hdmaDescComplete _ payload refetch _ _ => payload.length == refetch.length
  | .irqLineRise page => pageOk page
  | .msixUnmask .. => true
  | .remeasure .. => true
  | .hello _ msg => msg.pools.length == 8
  | .cert .. => true
  | .kex .. => true
  | .confirm .. => true
  | .handshakeReady .. => true
  | .handshakeAbort .. => true
  | .handshakeTimeout .. => true
  | .authRetry .. => true
  | .rekey .. => true
  | .bundleIssue .. => true
  | .add .. => true
  | .sub .. => true
  | .mul .. => true
  | .mulhu .. => true
  | .and .. => true
  | .or .. => true
  | .xor .. => true
  | .shl .. => true
  | .shr .. => true
  | .sra .. => true
  | .min .. => true
  | .max .. => true
  | .minu .. => true
  | .maxu .. => true
  | .cmp .. => true
  | .lui .. => true
  | .br .. => true
  | .jal .. => true
  | .jr .. => true
  | .halt .. => true
  | .sld .. => true
  | .slw .. => true
  | .sst .. => true
  | .ssw .. => true
  | .s2v .. => true
  | .v2s .. => true
  | .cset .. => true
  | .cadd .. => true
  | .crd .. => true
  | .flgrd .. => true
  | .flgclr .. => true
  | .rseed .. => true
  | .waitc .. => true
  | .waitd .. => true
  | .waitSatisfied .. => true
  | .barc .. => true
  | .dbrd .. => true
  | .note .. => true
  | .dld .. => true
  | .fetch .. => true
  | .put .. => true
  | .dpos .. => true
  | .dskip .. => true
  | .post .. => true
  | .pack .. => true
  | .ldv .. => true
  | .ldm .. => true
  | .ldp .. => true
  | .ldps .. => true
  | .stv .. => true
  | .stm .. => true
  | .stp .. => true
  | .vadd .. => true
  | .vsub .. => true
  | .vmul .. => true
  | .vfma .. => true
  | .vmax .. => true
  | .vmin .. => true
  | .vand .. => true
  | .vor .. => true
  | .vxor .. => true
  | .vshl .. => true
  | .vshr .. => true
  | .vsra .. => true
  | .vcmp .. => true
  | .vsel .. => true
  | .vbcast .. => true
  | .pand .. => true
  | .por .. => true
  | .pxor .. => true
  | .pnot .. => true
  | .vcvt .. => true
  | .vexp2 .. => true
  | .vrcp .. => true
  | .vrsqrt .. => true
  | .vlog2 .. => true
  | .vrsum .. => true
  | .vrmax .. => true
  | .vperm .. => true
  | .route .. => true
  | .routeM .. => true
  | .mxMode .. => true
  | .mxWload .. => true
  | .mxRun .. => true
  | .mxDrain .. => true
  | .mxQueueHead .. => true
  | .blockResultPush .. => true
  | .mxRunComplete .. => true
  | .drainSwap .. => true
  | .drainComplete .. => true
  | .streamDataArrive .. => true
  | .streamUseComplete .. => true
  | .fetchComplete .. => true
  | .putComplete .. => true
  | .packComplete .. => true
  | .ctxGo .. => true
  | .ctxStop .. => true
  | .ctxStopComplete .. => true
  | .ctxHold .. => true
  | .hbmRead .. => true
  | .hbmWrite .. => true
  | .sramAccess .. => true
  | .refreshWindow .. => true
  | .scrubRead .. => true
  | .scrubNow .. => true
  | .stackFenceFill .. => true
  | .fillComplete .. => true
  | .replicaRewrite .. => true
  | .d2dFlitReceive _ flit => flit.payload.length == 244
  | .d2dReplayTimeout .. => true
  | .d2dRetrain .. => true
  | .d2dRetrainDone .. => true
  | .moduleDisable .. => true
  | .sidebandTimeout .. => true
  | .edgeQuiesce .. => true
  | .quiesceDone .. => true
  | .edgeFence .. => true
  | .routeRewrite => true
  | .frameReceive _ frame => frame.length == 272
  | .portReplayTimeout .. => true
  | .portRetrain .. => true
  | .portRetrainDone .. => true
  | .retrain .. => true
  | .cdrLockLoss .. => true
  | .portLightSeen .. => true
  | .peerRetryTimer .. => true
  | .packetRoute _ _ pkt => decide (pkt.body.length ≤ 2048)
  | .creditExchange => true
  | .ringHeaterUpdate .. => true
  | .docketAccept .. => true
  | .allreduce .. => true
  | .reduceScatter .. => true
  | .allgather .. => true
  | .broadcast .. => true
  | .reduce .. => true
  | .alltoall .. => true
  | .alltoallv .. => true
  | .barrier .. => true
  | .send .. => true
  | .recv .. => true
  | .norm .. => true
  | .gatherDrop .. => true
  | .optstep .. => true
  | .optstepComplete .. => true
  | .chunkSend .. => true
  | .chunkReceive .. => true
  | .e2eRetryRequest .. => true
  | .retryTimeout .. => true
  | .holdNotice .. => true
  | .resumeNotice .. => true
  | .heldExpired .. => true
  | .failNotice .. => true
  | .watchdogExpire .. => true
  | .docketComplete .. => true
  | .docketFail .. => true
  | .normAccClear .. => true
  | .noiseAccClear .. => true
  | .classDigestClear .. => true
  | .bucketTrigger .. => true
  | .bucketOverfill .. => true
  | .postboxSend .. => true
  | .postboxData .. => true
  | .postboxGrant .. => true
  | .postboxCredit .. => true
  | .postboxReceiveUse .. => true
  | .sealGo .. => true
  | .twinSeal .. => true
  | .recopyBegin .. => true
  | .recopyData _ _ off data _ => off.toNat % 2048 == 0 && data.length == 2048
  | .recopyEnd .. => true
  | .recopyAck .. => true
  | .mirrorFence .. => true
  | .fenceAck .. => true
  | .mirrorAckTimeout => true
  | .join .. => true
  | .joinResend => true
  | .stopped => true
  | .sealWaitExpire => true
  | .lostWaitExpire => true
  | .fenceSequence page _ _ => pageOk page
  | .fenceDrainTimeout page => pageOk page
  | .fenceComplete page => pageOk page
  | .agemonSample _ readings => readingsOk readings
  | .sampleNow _ _ _ readings => readingsOk readings
  | .wearPeriodic => true
  | .evctlClear _ page _ => pageOk page
  | .evctlFreeze _ page => pageOk page
  | .evctlThaw _ page => pageOk page
  | .evctlOvfClear _ page _ => pageOk page
  | .counterWrap page _ => pageOk page
  | .freezeAll .. => true
  | .thawAll .. => true
  | .mark .. => true
  | .traceEntryWrite _ kind page _ _ _ => pageOk page && decide (1 ≤ kind.toNat) && decide (kind.toNat ≤ 6)
  | .telemetryRecord => true
  | .portTrainingDone .. => true
  | .hostLinkTrained rate width _ => decide (1 ≤ rate) && decide (rate ≤ 6) && (width == 4 || width == 8)
  | .hostLinkDown => true
  | .testPortAccess .. => true

end Sys2Proof
end

