-- ==== Sys2Proof/Decode.lean ====
section
/-!
DEFINITION. Decoding. spec/opcode_table.json gives no row any bits: the commands are events and register accesses, not words. No word
spells a command.
-/
namespace Sys2Proof

/-- The command that a word of the table's bits spells: none, since no row has bits. (DESIGN CHOICE, log entry 2) -/
def decodeTableWord (_nbits _w : Nat) : Option Instr := none

end Sys2Proof
end

