-- ==== Sys2Proof/Config.lean ====
section
/-!
DEFINITION. What an implementation fixes and the spec leaves open: constants without a body, so that no proof can see their values
(DESIGN CHOICE, log entries 3, 4, 5, 6).
-/
namespace Sys2Proof.Config

/-- The DER encodings of X.509 (R132), which the spec does not give: the part of an Alias certificate that is signed, of its public key
and its TcbInfo values, and a certificate of a signed part and its signature. (DESIGN CHOICE, log entry 3) -/
opaque aliasTbs : List Byte → List Digest → List Byte
opaque certDer : List Byte → List Byte → List Byte
/-- The n-th 256-bit random number of the device: the random of a HELLO (R135), an ephemeral key, the random number of a signature.
(DESIGN CHOICE, log entry 4) -/
opaque random : Nat → Digest
/-- A random or otherwise unstated value of the device: the n-th one drawn (DESIGN CHOICE, log entry 4). -/
opaque freeWord : Nat → W64
/-- What a decoder of R296 makes of a word with errors in three or more symbols: detected, or
miscorrected to the given bytes (the n-th such word). (DESIGN CHOICE, log entry 6) -/
opaque threeSymbolDetected : Nat → Bool
opaque threeSymbolData : Nat → List Byte
/-- The number that BASE.THERM_STAT gives a sensor (R91 names the field, no rule numbers the sensors). (DESIGN CHOICE, log entry 6) -/
opaque sensorCode : Sensor → Byte
/-- The feature levels at which SPARSE, ROUTE with PACK, TMAP and NOISE are defined (R184, R416 name no level; DESIGN CHOICE, log entry 9). -/
opaque sparseLevel : Byte
opaque routeLevel : Byte
opaque tmapLevel : Byte
opaque noiseLevel : Byte
/-- Which of each 16 array cycles a duty below 16 leaves to array operations (R85 gives the share, not the pattern): the order in which a
frame of 16 cycles gives them up, frame and cycle within it. (DESIGN CHOICE, log entry 13) -/
opaque dutySlot : Nat → Nat → Nat

/-- The protocol version that a fabric port's HELLO names and accepts (R135 gives no number). (DESIGN CHOICE, log entry 6) -/
opaque linkVersion : Byte
/-- The eye margins a lane test measures (R329 MARGIN): test number, module, lane. (DESIGN CHOICE, log entry 6) -/
opaque laneMargin : Nat → Nat → Nat → BitVec 16
/-- The 64-byte receive buffers of each pool of a die-to-die edge (R320 returns them as initial credits and gives no number).
(DESIGN CHOICE, log entry 6) (DEDUCED, log entry 17) -/
opaque edgePool : Nat → Nat → Byte

/-- The PHY eye margins of an HBM stack at its training (R487, R497): stack. (DESIGN CHOICE, log entry 6) -/
opaque stackMargin : Nat → BitVec 16

/-- What of the n-th transfer that PERST_N ends has landed from its PPA on (R111: unspecified). (DESIGN CHOICE, log entry 6) -/
opaque abandonedDma : Nat → List Byte
/-- Where IDENTIFY's RESULT places the levels, steppings and present units (R116 names them and no place): the values.
(DESIGN CHOICE, log entry 6) -/
opaque identifyResult : List Nat → BitVec 160

end Sys2Proof.Config
end

