-- ==== Sys2Proof/Machine/Delivered.lean ====
section
/-!
DEFINITION. What a package is delivered with, so far as the state before the first PWR_OK must name it (DESIGN CHOICE, log entry 10): the
unique device secret, the digest of the vendor root in base ROM, the manufacturing CA, the DeviceID certificate, and one signed image of
each type of R125 with its signatures. The bytes are those of a part made for this model; no rule of the spec gives any of them.
-/
namespace Sys2Proof.Delivered

/-- The `n` bytes that a number spells, the most significant first. -/
def bytesOf (n x : Nat) : List Byte := (List.range n).map (fun i => BitVec.ofNat 8 (x / 2 ^ (8 * (n - 1 - i))))

/-- The secret that the SRAM PUF gives. -/
def uds : Digest := 0
/-- The SM3 digest of the vendor root key, byte 0 in bits 7:0. -/
def rootDigest : Digest :=
  0x29071ACD014AE1F0CDF43ED9844B943602DD97830FC561FF4C4E46D75E677902
/-- The key that authenticates the rollback counters: the flash key of the device secret. -/
def counterKey : Digest :=
  0x50BB4FD7CE1263CF37A83EC80CDC514A17F237519DA450EFF73DE33622A1CD6B
/-- The vendor root public key. -/
def rootKey : List Byte :=
  bytesOf 64 0x9207FF2E742847A8B734D8897C97CB4A8672D3255B3A7BA26764C5A00EF4D68C603AF6699CDEF17722091CA39250BDC6236BD6DF171CC7B065EC67F4F9D101AE
/-- The public key of the manufacturing CA. -/
def caKey : List Byte :=
  bytesOf 64 0x19E10878F9992B92E9578036927058BA99E374B4A1CCA7CC9AEA8B0985A5AD0BCA7F91D6F87B1EFCB3768CED11976EA20ADAB3911EF9A4DA20EAC40A0E57834C
/-- The signed part of the signer certificate. -/
def signerTbs : List Byte :=
  bytesOf 64 0x7369676E6572000000000000000000002E80AA29E4719423C7E12D45479FA29AD83DA5B75CE183767F83DF57ADD06FB6565210190E6472E0C4BF843E3DC9C9B0
  ++ bytesOf 16 0x4CDBA1011D644FB2D0F912A897C7B1EF
/-- The public key in the signer certificate. -/
def signerKey : List Byte :=
  bytesOf 64 0x2E80AA29E4719423C7E12D45479FA29AD83DA5B75CE183767F83DF57ADD06FB6565210190E6472E0C4BF843E3DC9C9B04CDBA1011D644FB2D0F912A897C7B1EF
/-- The signature on the signer certificate. -/
def signerSig : List Byte :=
  bytesOf 64 0x73C988F86A906E13C15A5897AF5E374BB8B4D03624978505C161D86C401B4FCE9A519521FF4FDEA9386956BA59B82CC786A38001B7BD2CE8DC9EC013B345391A
def signer : Cert :=
  { der := signerTbs ++ signerSig, tbs := signerTbs, key := signerKey, purposes := [1, 2, 3, 4, 5], serial := 0, tcbInfo := []
    sig := signerSig }
/-- The signed part of the DeviceID certificate. -/
def devidCertTbs : List Byte :=
  bytesOf 64 0x646576696365000000000000000000007A2BFB893323AA447B51F9E23B14737AA7A28AABCC609E12A93F0655D81A62BCCB18B4B763E70D4A828AFD2148A25153
  ++ bytesOf 16 0xDB8008E9B05EA6C2DA3147793E5136E2
/-- The public key in the DeviceID certificate. -/
def devidCertKey : List Byte :=
  bytesOf 64 0x7A2BFB893323AA447B51F9E23B14737AA7A28AABCC609E12A93F0655D81A62BCCB18B4B763E70D4A828AFD2148A25153DB8008E9B05EA6C2DA3147793E5136E2
/-- The signature on the DeviceID certificate. -/
def devidCertSig : List Byte :=
  bytesOf 64 0x7B847125D95E8CE10F5B6ED90849042FFE099CC0FDA2487B67EA60C8F9DE92C103AE1AB76FEAC866AC7CC15ECC3120F8D2533CB3F2B07CB99199BF0423D815BE
def devidCert : Cert :=
  { der := devidCertTbs ++ devidCertSig, tbs := devidCertTbs, key := devidCertKey, purposes := [], serial := 1, tcbInfo := []
    sig := devidCertSig }
/-- An image of a type: header, root key, certificate, body and signature. -/
def image (typ : Nat) (body sig : List Byte) : SignedImage :=
  { bytes := bytesOf 4 0x43534947 ++ [BitVec.ofNat 8 typ, 0, 1, 0, 1, 0, 0, 0] ++ [BitVec.ofNat 8 body.length, BitVec.ofNat 8 (body.length / 256), 0, 0]
      ++ [BitVec.ofNat 8 signer.der.length, BitVec.ofNat 8 (signer.der.length / 256), 0, 0] ++ List.replicate 44 0 ++ rootKey ++ signer.der ++ body ++ sig
    cert := signer }
/-- The signature of the image of type 1. -/
def mgrSig : List Byte :=
  bytesOf 64 0x23917410673D0A3090CFA290F9AABC4B391D81C061EFE94356400B25A4E0B830A6A452B807A36786EF9E68624613CB8087EE90712C5FFC698EBD69960F5C196F
def mgr : SignedImage := image 1 (bytesOf 16 0x0102030405060708090A0B0C0D0E0F10) mgrSig
/-- The signature of the image of type 2. -/
def dieSig : List Byte :=
  bytesOf 64 0xB09ABF5315962BC18CDE47CE6587569D80260E714F52A7E0D11A7359DF9FF271757C25680B1DBBE43DA0048B5F31E4409C3876CF8E455BB5EB7C19C4CAA340D3
def die : SignedImage := image 2 (bytesOf 16 0x1112131415161718191A1B1C1D1E1F20) dieSig
/-- The signature of the image of type 3. -/
def stubSig : List Byte :=
  bytesOf 64 0x6B791EB5BA6A59C9650DAE5956E0C4F788E50EF7F663E2873EAEEDF488BF047F4049B93EC29747DA21FC4C3697137A9008D044139899E40836F17BDDE2A131EF
def stub : SignedImage := image 3 (bytesOf 16 0x2122232425262728292A2B2C2D2E2F30) stubSig
/-- The signature of the image of type 4. -/
def buildSig : List Byte :=
  bytesOf 64 0x4B3BC188053F4F56B62E4D1945310E7FF356C8409BA467EB1AD83576A830450E65B13C67D6DE4BA78E31607987875751AC475943E84F9104FC3A6D86BD332B7D
def build : SignedImage := image 4 (bytesOf 16 0x3132333435363738393A3B3C3D3E3F40) buildSig
/-- The widest envelope of R489. -/
def envelopeBody : List Byte :=
  bytesOf 17 0x0100000000000000B00460096400E00164 ++ List.replicate 47 0 ++ (List.replicate 64 (bytesOf 8 0x5802840330080400)).flatten
/-- The signature of the envelope. -/
def envelopeSig : List Byte :=
  bytesOf 64 0x1E451FA2B9793E7C4749C4741F17A3151D4B10AD45B347B7043E5C9FECDFC7BCD7AADD1DA0BDECB85584132CB103A6757AB337C22410059EE1A87C92717CA874
def envelope : SignedImage := image 5 envelopeBody envelopeSig

end Sys2Proof.Delivered
end

