-- ==== Sys2Proof/Machine/State.lean ====
section
/-!
DEFINITION. The state of one CTG-A412 package as plain data, the reasons a step may stop, and the state
before the first rising edge of PWR_OK. Maps are sparse lists of (key, value) in one canonical form
(Machine/Sparse.lean): keys strictly rising, no entry equal to what an unlisted key reads as.
-/
namespace Sys2Proof.Machine

/-- A sparse map. What an unlisted key reads as is given where the map is read. -/
abbrev Sparse (α : Type) := List (Nat × α)

/-- Why a step stops with a fault. No meaning raises it: the spec gives every command of its table an
effect, and an error of the device is a state (R465). Safe: it stands for nothing the hardware does. -/
inductive Fault where
  | undefinedBehaviour
  deriving DecidableEq, Repr

/-- Why a step refuses. `notModelled` stands in refused arms of exec only, for a command that has no meaning yet
(safe: nothing is then claimed about it). No meaning raises a refusal. -/
inductive Refusal where
  | notModelled (mnemonic : String)
  deriving DecidableEq, Repr

/-! ## Physical facts and boot flash -/

/-- What the die fitted at a site reports (R14, R18, R32, R33, R45). -/
structure DieFact where
  fitted  : Bool
  strapSite : BitVec 2
  strapRot  : BitVec 2
  uid     : W64
  stepLetter : BitVec 4
  stepNum    : BitVec 4
  level   : Byte
  deriving DecidableEq, Repr

/-- What the build record names for a die site (R32). -/
structure SiteRecord where
  uid    : W64
  letter : BitVec 4
  num    : BitVec 4
  level  : Byte
  deriving DecidableEq, Repr

/-- The content of the build record (R32): version, serial, sites, lanes repaired at manufacture by die-to-die module, ring-heater
power of a lane in its calibration (0.01 mW, key 16 × engine + lane), and the contents to which no rule gives a form: repairs of HBM
PHY lanes, rows and columns, the rest of the optical calibration, trims. -/
structure BuildRecord where
  version : W32
  serial  : W64
  sites   : List SiteRecord
  d2dLanes : Sparse (BitVec 68)
  heaters : Sparse (BitVec 12)
  hbmLanes : List Byte
  memRepairs : List Byte
  optics  : List Byte
  trims   : List Byte
  deriving DecidableEq, Repr

/-- Boot flash: signed images, the content of the build record, the DeviceID certificate, the rollback counters with the key that
authenticates them, table in force, wear ledger, and the guard band of each cluster in its latest PERIODIC or GUARD record (R32, R125,
R132, R133, R489, R490, R492, R496). -/
structure Flash where
  mgrA : SignedImage
  mgrB : SignedImage
  dieA : SignedImage
  dieB : SignedImage
  stubA : SignedImage
  stubB : SignedImage
  buildRecord : SignedImage
  envelope    : SignedImage
  build    : BuildRecord
  devidCert : Cert
  counters : Sparse W32
  counterKey : Digest
  volts   : Sparse (BitVec 16)
  freqs   : Sparse Byte
  gen     : W32
  ledger  : List (List Byte)
  nextRecord : W64
  life    : W64
  guards  : Sparse Nat
  deriving DecidableEq, Repr

/-! ## Wide cores -/

/-- The context states of R150. -/
inductive CState where
  | idle | running | waiting | halted | faulted
  deriving DecidableEq, Repr

/-- What a WAITING context waits on (R150, R179, R180); `need` is how many bytes of the stream its access takes, 0 when it
waits for array operations to be done with the register (R211). -/
inductive Wait where
  | none
  | counter (c : BitVec 4) (b : W32) (cause : Nat)
  | doorbell (n : BitVec 4) (b : W32)
  | barrier (b : Nat)
  | stream (d : BitVec 4) (cause need : Nat)
  | fetchSlots (cause : Nat)
  | postQueue
  deriving DecidableEq, Repr

/-- A descriptor register: the 64-byte descriptor, its stream position and the use it carries (R154, R174, R176).
`active` says that a use is in progress, `arrived` counts the bytes of a read stream that are present, `begun` that a post box
use has started (R434, R435), `base` where its message lies, `outBytes` the message bytes written so far, `useNo` numbers the uses
of the context in issue order and `issuedAt` is the bundle that started it (R188). -/
structure Stream where
  desc    : BitVec 512
  pos     : Nat
  active  : Bool
  arrived : Nat
  begun   : Bool
  base    : Nat
  outBytes : List Byte
  useNo   : Nat
  issuedAt : W64
  deriving DecidableEq, Repr

/-- One hardware context (R150, R154). -/
structure Ctx where
  cstate  : CState
  pc      : W64
  s       : Sparse W64
  v       : Sparse VReg
  p       : Sparse PReg
  c       : Sparse W32
  d       : Sparse Stream
  ovf     : Bool
  inv     : Bool
  ovfCount : W32
  tileSeq : W32
  lfsr    : W32
  tensor  : W32
  invTile : W32
  invKblk : W32
  invOp   : Nat
  wait    : Wait
  busy    : Sparse Nat
  notBefore : Nat
  stopping : Bool
  cause   : Nat
  packs   : List (BitVec 512 × W64)
  uses    : Nat
  deriving DecidableEq, Repr

/-- One accumulator set of a core (R194, R198, R231): the shape of its tile, the arrays its columns belong to, the blocks entered and the
stack levels, keyed ((row × 128) + column) × 12 + level. -/
structure AccSet where
  begun  : Bool
  m      : Nat
  n      : Nat
  flow   : BitVec 2
  atype  : BitVec 4
  btype  : BitVec 4
  sparse : BitVec 2
  arrays : BitVec 4
  blocks : Nat
  lastTile : W32
  levels : Sparse W64
  deriving DecidableEq, Repr

/-- An MX operation in the array queue (R169 to R171): what its slot, header and scalar operands gave at issue.
`num` numbers the MX operations of the core in issue order, `tile` is the tile sequence number of a run, `issuedAt` the bundle
that held it (R188). -/
inductive MxOp where
  | mode (f : MxModeF) (num : Nat) (issuedAt : W64)
  | wload (f : MxWloadF) (sparse : BitVec 2) (num : Nat) (issuedAt : W64)
  | run (f : MxRunF) (k : Nat) (sparse : BitVec 2) (zskip : Bool) (skipped : Bool) (tile : W32) (num : Nat) (issuedAt : W64)
  | drain (f : MxDrainF) (seed : W32) (num : Nat) (issuedAt : W64)
  deriving DecidableEq, Repr

/-- The run that occupies the arrays (R212): its operation and the K-blocks it has entered. -/
structure RunState where
  f      : MxRunF
  k      : Nat
  sparse : BitVec 2
  zskip  : Bool
  skipped : Bool
  tile   : W32
  num    : Nat
  done   : Nat
  issuedAt : W64
  deriving DecidableEq, Repr

/-- A FETCH or PUT in progress (R177): the descriptor as copied at issue and the core-memory offset. -/
structure CopyOp where
  ctx    : Fin 16
  isPut  : Bool
  desc   : BitVec 512
  off    : Nat
  useNo  : Nat
  begun  : Bool
  base   : Nat
  issuedAt : W64
  deriving DecidableEq, Repr

/-- What an array does between operations (R79 to R81): at rest, in an operation or ready for one, filler, its two ramps. -/
inductive Filler where
  | rest | active | filler | rampDown | rampUp
  deriving DecidableEq, Repr

/-- One wide core: its array cycles, round-robin pointer, whether the start signal is on its way to its cluster (R78), mode
state, bindings, by array the weight block of the front and of the back buffer and the exponents that the pre-scan buffer took in last,
one list for each of 32 K steps (R194, R210), accumulator sets, array queue and copies. -/
structure Core where
  cycle  : Nat
  last   : Nat
  armed  : Bool
  flow   : BitVec 2
  atype  : BitVec 4
  btype  : BitVec 4
  arrays : BitVec 4
  binds  : Sparse Nat
  sparsity : Sparse Nat
  front  : Sparse (List Byte)
  back   : Sparse (List Byte)
  prescan : Sparse (List (List (Option Int)))
  live   : AccSet
  shadow : AccSet
  queue  : List MxOp
  cur    : Option RunState
  drain  : Option (MxDrainF × W32 × Nat × W64)
  mxNum  : Nat
  copies : Sparse (Option CopyOp)
  filler : Sparse Filler
  trapSet : Bool
  deriving DecidableEq, Repr

/-! ## Die-to-die modules and edges, fabric ports -/

/-- A flit in a replay buffer: header and body as sent, how many of its transmissions in a row have failed (R315, R316, R341),
and the packet it carries a part of, numbered by its first flit, with its crossing class and the package port it came by, 63 for a
packet of this package (R361). -/
structure ReplayFlit where
  header : W64
  body   : List Byte
  fails  : Nat
  pno    : Nat
  pkt    : Packet
  later  : Bool
  arrival : Nat
  deriving DecidableEq, Repr

/-- One logical module of an edge (R312 to R324). `live` says that its edge has brought it up, `leaving` and `joining` that it is on its way out of service or back into
it, `disabled` that it leaves for good, `half` that it was at ×32 when it was masked; `tests` counts its lane tests. -/
structure Module where
  live    : Bool
  mstate  : BitVec 2
  upper   : Bool
  failed  : BitVec 68
  spares  : W32
  sendSeq : BitVec 12
  expect  : BitVec 12
  nakSent : Bool
  replay  : List ReplayFlit
  retries : BitVec 16
  retraining : Bool
  leaving : Bool
  disabled : Bool
  joining : Bool
  half    : Bool
  tests   : Nat
  rx      : List Byte
  deriving DecidableEq, Repr

/-- A packet that a unit of the package holds: its crossing class and the package port it came by (R356, R361). -/
structure Held where
  later   : Bool
  pkt     : Packet
  arrival : Nat
  deriving DecidableEq, Repr

/-- One edge: whether it has left STARTING since PWR_OK, whether it quiesces, its steering table, its credits and the packets it holds
(R317, R318, R325). -/
structure Edge where
  left    : Bool
  quiescing : Bool
  table   : List (Fin 32)
  credits : Sparse Nat
  heldPkts : List Held
  deriving DecidableEq, Repr

/-- The session keys of one direction of a link (R137). -/
structure DirKeys where
  key     : Key
  salt    : W32
  groups  : Nat
  epoch   : W32
  deriving DecidableEq, Repr

/-- A fabric or twin port (R333 to R349). `stage` counts the handshake messages accepted: 0 none, 1 HELLO, 2 CERT, 3 KEX, 4 CONFIRM;
`sent` and `got` are the messages of the handshake so far, `eph` the ephemeral private key, `shared` the 32 + 32 bytes of the
key-exchange point, `kdf` the bytes K (R137); `unnamed` says that the port is OFF because a topology record did not name it (R348). -/
structure Port where
  eligible : Bool
  unnamed : Bool
  stage   : Nat
  everReady : Bool
  topo    : Option TopoEntry
  peerHello : Option Hello
  sent    : List HsMsg
  got     : List HsMsg
  eph     : Nat
  shared  : List Byte
  kdf     : List Byte
  refresh : List Byte
  tx      : Option DirKeys
  rx      : Option DirKeys
  sendSeq : BitVec 12
  expect  : BitVec 12
  lastAcc : BitVec 12
  nakSent : Bool
  replay  : List ReplayFlit
  rxGroup : List (W64 × List Byte)
  rxBytes : List Byte
  credits : Sparse Nat
  held    : List Held
  failedLanes : BitVec 4
  deriving DecidableEq, Repr

/-! ## The Sorter -/

/-- A docket as posted (R181): its 64 bytes and who waits on it. -/
structure Posted where
  word  : DocketWord
  core  : Fin 128
  ctx   : Fin 16
  ctrEn : Bool
  ctr   : BitVec 4
  triggered : Bool
  deriving DecidableEq, Repr

/-- A chunk a docket has accepted, or sent: peer, phase, chunk index, header and payload (R406, R407); `again` says that it was
sent again on a retry request (R375). -/
structure ChunkRec where
  peer    : Nat
  phase   : Nat
  index   : Nat
  lane    : Nat
  header  : BitVec 512
  payload : List Byte
  again   : Bool
  deriving DecidableEq, Repr

/-- Values of consecutive elements from `lo` on, whether they carry poison, and for each NaN element its lowest contributing
member (R403). -/
structure Elems where
  lo   : Nat
  vals : List Nat
  pois : Bool
  nans : Sparse Nat
  deriving DecidableEq, Repr

/-- A chunk a docket has formed and not yet sent (R406, R407). -/
structure OutChunk where
  dst   : Nat
  phase : Nat
  index : Nat
  lane  : Nat
  elem  : Nat
  total : Nat
  last  : Bool
  pois  : Bool
  nanE  : Nat
  nanM  : Nat
  payload : List Byte
  deriving DecidableEq, Repr

/-- A docket the Sorter has accepted and not completed (R388, R389). `next` counts the phases whose chunks it has formed, `items`
holds its contribution, sums and results by number, `place` the table its AUX names, `doom` the status it fails with, `ended`
says that its results are formed, `claimed` that its restante slot is FILLING for it, `report` is OPTSTEP's result record. -/
structure Docket where
  id      : Nat
  post    : Posted
  cseq    : W32
  klass   : Nat
  self    : Nat
  number  : W64
  started : Bool
  claimed : Bool
  next    : Nat
  ended   : Bool
  got     : List ChunkRec
  sent    : List ChunkRec
  todo    : List OutChunk
  items   : Sparse Elems
  place   : List (Nat × Nat × Nat)
  runs    : Nat
  stride  : Nat
  nanElem : Nat
  nanMember : Nat
  ovf     : Nat
  doom    : Nat
  report  : List Byte
  deriving DecidableEq, Repr

/-- An outstanding end-to-end retry request of a receiving lane (R375, R376). -/
structure Retry where
  lane  : Nat
  group : Nat
  peer  : Nat
  cseq  : W32
  phase : Nat
  index : Nat
  deriving DecidableEq, Repr

/-- The failure of a docket that is still to be accepted: class, group and CSEQ, status, origin, and whether a FAIL notice named
it (R413). -/
structure Fate where
  klass  : Nat
  group  : Nat
  cseq   : W32
  status : Nat
  origin : Nat
  notice : Bool
  deriving DecidableEq, Repr

/-- A message stored in a receive box: sequence, length, and which packets have arrived (R435). -/
structure PbMsg where
  seq    : W32
  length : Nat
  packets : List (BitVec 16)
  deriving DecidableEq, Repr

/-- A post box (R432 to R438). -/
structure Box where
  credits : Nat
  slots   : Nat
  size    : Nat
  seq     : W32
  msgs    : List PbMsg
  deriving DecidableEq, Repr

/-- One die's Sorter (R382 to R414, R425 to R438): dockets posted and accepted, alive counts, held mail, chunks that wait for an
earlier one, chunks refused with a HOLD notice, chunks kept for a peer or sent by dockets that have completed, outstanding
retries, failures to come, bucket fill, restante bytes written, post boxes, the class of the NORM_ACC dockets, and the digests. -/
structure Sorter where
  waiting : List Posted
  dockets : List Docket
  nextId  : Nat
  numbers : Sparse W64
  aliveTx : Sparse W32
  aliveRx : Sparse W32
  held    : List (Fin 4 × Chunk)
  reorder : List (Fin 4 × Chunk)
  refused : List Retry
  kept    : List (Nat × W32 × ChunkRec)
  past    : List (Nat × W32 × ChunkRec)
  retries : List Retry
  fates   : List Fate
  fill    : Sparse Nat
  written : Sparse (List (Nat × Nat))
  trigStop : Bool
  boxes   : Sparse Box
  normClass : Option Nat
  digBase : Sparse W64
  digWait : List (Nat × Nat × List Byte)
  deriving DecidableEq, Repr

/-! ## The base: job, seal unit, twin unit, host link -/

/-- The job as loaded, sealed and run (R116, R117, R139 to R144). `ckptWanted` names the dies that still write the checkpoint asked
for, `sealedMib` the bucket size sealed for each site (R429), `endTag` the END that waits for its step boundary, `signalled` the dies
that the start signal has reached (R78). -/
structure Job where
  image   : Option (List Byte)
  key     : Option Key
  topo    : Option Topology
  planeLevel : Byte
  jobId   : BitVec 128
  digest  : Digest
  packageId : BitVec 11
  twinMode : Bool
  ckptBase : BitVec 40
  ckptLen  : W64
  restoreNo : W64
  ckptKeyed : Bool
  ckptWanted : BitVec 4
  seals   : W32
  sealedMib : Sparse Nat
  endTag  : Option W32
  tableApplied : Bool
  signalled : BitVec 4
  deriving DecidableEq, Repr

/-- A response the firmware has formed and not yet written (R104); they are written in the order in which they were formed. -/
structure Response where
  tag    : W32
  status : BitVec 16
  opcode : BitVec 16
  len    : W32
  result : BitVec 160
  bufAddr : W64
  buf    : List Byte
  deriving DecidableEq, Repr

/-- The seal unit (R124 to R133): measurement registers, the secrets it holds, the Alias certificate, the digests of the code measured
at boot, the slots in use, of which the manager names that of the runtime stub, whether any stage booted from slot B, and in debug mode
the features granted (R147). -/
structure SealUnit where
  meas    : Sparse Digest
  udsHeld : Bool
  flashKey : Option Digest
  aliasSeed : Digest
  aliasHeld : Bool
  aliasCert : Option Cert
  dieDigest : Digest
  stubDigest : Digest
  mgrB    : Bool
  dieB    : Bool
  stubB   : Bool
  slotB   : Bool
  debugBits : Option W32
  deriving DecidableEq, Repr

/-- A host DMA channel: the descriptor it works on, its alive count, and whether it is stopped or fenced (R107 to R111, R522). -/
structure Hdma where
  cur    : Option HdmaDesc
  alive  : W32
  stopped : Bool
  fenced : Bool
  deriving DecidableEq, Repr

/-- The twin unit (R446 to R459): the dies that have contributed since the last seal and their ledger values, the class C and D
errors counted since then (dies 0 to 3, the base 4), the twin's seal while it is still to be compared, the step of a
resynchronisation asked for, the CRC of the bytes recopied so far, whether the package is the joiner of a recopy, whether the
twin's JOIN has come, the mirror fences sent and not acknowledged, and the fences that a notice of the twin asked for. -/
structure Twin where
  given   : BitVec 4
  ledgers : Sparse W64
  events  : Sparse Nat
  ownSeal : Option (BitVec 768)
  peerSeal : Option (BitVec 768)
  resync  : Option W64
  recopyCrc : W64
  joiner  : Bool
  peerJoined : Bool
  sentFences : List (Nat × Nat × Nat)
  noticed : List (Nat × Nat × Nat)
  deriving DecidableEq, Repr

/-- A class record of the escalation rule (R472, R473): cycles of the last counted C and D. -/
structure Esc where
  c : Option Nat
  d : Option Nat
  deriving DecidableEq, Repr

/-- A trace entry (R514). -/
structure TraceEntry where
  loc  : W64
  number : W32
  typ  : BitVec 16
  inst : BitVec 12
  kind : Byte
  code : BitVec 16
  seq  : W32
  data : W64
  deriving DecidableEq, Repr

/-- The symbols that a frame puts on a lane, a byte of PAM4 levels for four symbols (R335), or the bits that a die-to-die flit puts on a
lane, unit interval u in bit u (R314). -/
abbrev LaneBits := List (Nat × List Nat)
/-- What leaves the package: messages, packets, chunks, host writes and completions, in the order they leave. -/
inductive Out where
  | msix (vector : Nat)
  | pmMessage (site : Nat) (core : Nat) (source : Nat)
  | mgrMessage (page : Nat)
  | memData (data : List Byte) (poison : Bool)
  | hostWrite (addr : W64) (data : List Byte)
  | completion (data : List Byte)
  | poisonedTlp (data : List Byte)
  | unsupportedRequest
  | completerAbort
  | retryStatus
  | cfgValue (val : W32)
  | smbusData (data : List Byte)
  | smbusRefusal
  | flit (port : Nat) (header : W64) (body : List Byte) (crc : W32) (parity : List Byte) (lanes : LaneBits)
  | d2dFlit (m : Nat) (header : W64) (body : List Byte) (crc : W32) (lanes : List (Nat × W64))
  | packet (port : Nat) (pkt : Packet)
  | eject (site : Nat) (pkt : Packet)
  | chunk (site : Nat) (c : Chunk) (packets : List Packet)
  | holdNotice (site : Nat) (name : ChunkName)
  | resumeNotice (site : Nat) (group : Nat) (cseq : W32) (peer : Nat)
  | failNotice (site : Nat) (peer : Nat) (info : FailInfo)
  | retryRequest (site : Nat) (name : ChunkName)
  | postbox (site : Nat) (pkt : PbPacket)
  | handshake (port : Nat) (msg : HsMsg)
  | sideband (m : Nat) (seq : BitVec 12)
  | twinSeal (bytes : BitVec 768)
  | twinMsg (code : Nat) (arg0 arg1 arg2 : W64)
  | recopyData (site : Nat) (range : Nat) (off : Nat) (data : List Byte) (poison : Bool)
  | startSignal (site : Nat)
  | wrapper (site : Nat) (opened : Bool)
  | remoteWrite (pkg : BitVec 11) (ppa : BitVec 40) (data : List Byte)
  deriving DecidableEq, Repr

/-- Who writes memory (R153, R286): a wide core, a unit of a die, or one of the writers that belong to no die. -/
inductive Writer where
  | core (site k : Nat)
  | die (site : Nat)
  | host
  | hdma
  | manager
  deriving DecidableEq, Repr

/-- What waits for the end of a poison fill (R303): an access to the HBM of the die, or a doorbell write of the host that follows a write
that waits (R103). -/
inductive FillAccess where
  | write (w : Writer) (a : Nat) (bs : List Byte) (poison : Bool)
  | read (a : MemAgent) (ppa : Nat) (noise : Disturb)
  | hostRead (off len : Nat)
  | doorbell (n : Nat) (v : W32)
  deriving DecidableEq, Repr

/-- A commit in flight: the shadow area as copied at the request (R55), and the channels of HDMA that have replaced their live copy
already (R61). -/
structure PendingCommit where
  who  : Requester
  regs : Sparse W32
  parts : BitVec 8
  deriving DecidableEq, Repr

/-- The address book (R68, R69, R384): staged and live group entries and member slots, and the copy of a commit. -/
structure AddrBook where
  stagedG : Sparse (BitVec 512)
  stagedM : Sparse W32
  liveG   : Sparse (BitVec 512)
  liveM   : Sparse W32
  copyG   : Sparse (BitVec 512)
  copyM   : Sparse W32
  damaged : Sparse Bool
  deriving DecidableEq, Repr

/-- What a class F takes out of service (R522): a page's block, a die-to-die module, a lane of an OPTENG page, a host DMA channel, a die. -/
inductive FenceT where
  | page (a : Nat)
  | module (k : Nat)
  | lane (engine lane : Nat)
  | channel (ch : Nat)
  | die (site : Nat)
  deriving DecidableEq, Repr

/-- A fence: what leaves service, and the page and code of the class F that asks for it. -/
structure Fencing where
  target : FenceT
  page : Nat
  code : Nat
  deriving DecidableEq, Repr

/-- Pins, board conditions and boot progress, sensor readings and the telemetry records written (R25, R26, R31, R75 to R77, R86, R87, R481), the pending operating-point table
(R493), what the stack counts were at the last PERIODIC record (R497), the halves of the host link that can train and, in bit 2, that it has trained at ×4 since it could last return to ×8 (R95), the sum and
number of each die's power readings since the last budget (R84), the stacks and ports that wait for their start and the
ports enabled in the current 2 ms (R77), the array cycles of each cluster in eighths (R71, R86), and the guard band in force of each cluster (R491). -/
structure Board where
  pwrOk   : Bool
  perstN  : Bool
  service : Bool
  recovery : Bool
  halted  : Bool
  optics  : Bool
  alertN  : Bool
  thermTrip : Bool
  bootStep : Nat
  released : BitVec 4
  ready   : BitVec 4
  haltReq : Option HaltCause
  haltRec : Option HaltCause
  trainNext : Nat
  releasedAt : Sparse Nat
  therm   : Sparse Nat
  telem   : Nat
  laserOk : BitVec 16
  envelopeIn : Bool
  fences : List Fencing
  fencing : List Fencing
  routeChange : Bool
  pendTable : Option OpTable
  wearSince : Sparse Nat
  halved  : BitVec 64
  halves  : BitVec 3
  powerSum : Sparse Nat
  powerNum : Sparse Nat
  trainWait : BitVec 12
  portWait : List Nat
  portSlots : Nat
  arrayClock : Sparse Nat
  guards  : Sparse Nat
  deriving DecidableEq, Repr

/-- The whole device. Registers of pages are held by their BAR0 offset (R37, R63); every other field says which rule names it. -/
structure Dev where
  board  : Board
  dies   : List DieFact
  baseLevel : Byte
  baseLetter : BitVec 4
  baseNum : BitVec 4
  uds    : Digest
  rootDigest : Digest
  caKey  : List Byte
  flash  : Flash
  regs   : Sparse W32
  commits : Sparse (Option PendingCommit)
  hiHeld : List ((Requester × Nat) × W32)
  loLatch : List ((Requester × Nat) × W32)
  esc    : Sparse Esc
  recent : Sparse (List Nat)
  fresh  : List Nat
  book   : AddrBook
  cfg    : Sparse W32
  msixTable : Sparse W32
  pba    : Sparse Bool
  lines  : Sparse Bool
  hdma   : Sparse Hdma
  resp   : List Response
  job    : Job
  sealU  : SealUnit
  twin   : Twin
  ctxs   : Sparse Ctx
  cores  : Sparse Core
  arrived : Sparse (List Nat)
  mods   : Sparse Module
  edges  : Sparse Edge
  relayHeld : Sparse (List Held)
  creditSeen : Sparse Nat
  ports  : Sparse Port
  sorters : Sparse Sorter
  mem    : List Host.Cell
  poison : Sparse Bool
  filled : BitVec 4
  filling : BitVec 4
  fillDue : BitVec 4
  fillWait : List FillAccess
  hbmErr : Sparse (List (BitVec 16))
  hbmTag : Sparse (BitVec 16)
  sramErr : Sparse (BitVec 72)
  scrubFull : Sparse Bool
  trace  : Sparse TraceEntry
  clock  : Nat
  free   : Nat
  out    : List Out
  deriving DecidableEq, Repr

/-- The machine: the device and the queue of commands that wait, first in, first out. -/
structure State where
  dev     : Dev
  pending : List Instr
  deriving DecidableEq, Repr

/-! ## Reset: the package before the first rising edge of PWR_OK (DESIGN CHOICE, log entries 5, 7, 10) -/

/-- The die fitted at a site: its straps name the site and its rotation (R14). (DESIGN CHOICE, log entry 10) -/
def goodDie (s : Nat) : DieFact :=
  { fitted := true, strapSite := BitVec.ofNat 2 s, strapRot := BitVec.ofNat 2 s, uid := BitVec.ofNat 64 (s + 1), stepLetter := 0
    stepNum := 0, level := 1 }

/-- The build record of a new package: it names the dies fitted, and no repair. (DESIGN CHOICE, log entry 10) -/
def BuildRecord.reset : BuildRecord :=
  { version := 1, serial := 1, sites := [⟨1, 0, 0, 1⟩, ⟨2, 0, 0, 1⟩, ⟨3, 0, 0, 1⟩, ⟨4, 0, 0, 1⟩], d2dLanes := [], heaters := []
    hbmLanes := [], memRepairs := [], optics := [], trims := [] }

/-- Boot flash of a new package: good images in both slots, the widest envelope of R489, generation 0, an empty ledger
(DESIGN CHOICE, log entry 10). -/
def Flash.reset : Flash :=
  { mgrA := Delivered.mgr, mgrB := Delivered.mgr, dieA := Delivered.die, dieB := Delivered.die, stubA := Delivered.stub
    stubB := Delivered.stub, buildRecord := Delivered.build, envelope := Delivered.envelope, build := BuildRecord.reset
    devidCert := Delivered.devidCert, counters := [], counterKey := Delivered.counterKey
    volts := [], freqs := [], gen := 0, ledger := [], nextRecord := 0, life := 0, guards := [] }

def Board.reset : Board :=
  { pwrOk := false, perstN := false, service := false, recovery := false, halted := false, optics := false, alertN := true
    thermTrip := false, bootStep := 0, released := 0, ready := 0, haltReq := none, haltRec := none, trainNext := 0, releasedAt := []
    therm := [], telem := 0, laserOk := 0xFFFF, envelopeIn := false, fences := [], fencing := [], routeChange := false, pendTable := none
    wearSince := [], halved := 0, halves := 3, powerSum := [], powerNum := [], trainWait := 0, portWait := [], portSlots := 0, arrayClock := [], guards := [] }

def Job.reset : Job :=
  { image := none, key := none, topo := none, planeLevel := 0, jobId := 0, digest := 0, packageId := 0, twinMode := false
    ckptBase := 0, ckptLen := 0, restoreNo := 0, ckptKeyed := false, ckptWanted := 0, seals := 0, sealedMib := [], endTag := none
    tableApplied := false, signalled := 0 }

def SealUnit.reset : SealUnit :=
  { meas := [], udsHeld := false, flashKey := none, aliasSeed := 0, aliasHeld := false, aliasCert := none, dieDigest := 0, stubDigest := 0
    mgrB := false, dieB := false, stubB := false, slotB := false, debugBits := none }

def Twin.reset : Twin :=
  { given := 0, ledgers := [], events := [], ownSeal := none, peerSeal := none, resync := none, recopyCrc := 0
    joiner := false, peerJoined := false, sentFences := [], noticed := [] }

def AddrBook.reset : AddrBook :=
  { stagedG := [], stagedM := [], liveG := [], liveM := [], copyG := [], copyM := [], damaged := [] }

/-- The device with no power. Every register holds its reset value: the register map lists nothing. -/
def Dev.reset : Dev :=
  { board := Board.reset, dies := [goodDie 0, goodDie 1, goodDie 2, goodDie 3], baseLevel := 1, baseLetter := 0
    baseNum := 0, uds := Delivered.uds, rootDigest := Delivered.rootDigest, caKey := Delivered.caKey, flash := Flash.reset, regs := []
    commits := [], hiHeld := [], loLatch := [], esc := [], recent := [], fresh := [], book := AddrBook.reset, cfg := [], msixTable := [], pba := []
    lines := [], hdma := [], resp := [], job := Job.reset, sealU := SealUnit.reset, twin := Twin.reset, ctxs := [], cores := []
    arrived := [], mods := [], edges := [], relayHeld := [], creditSeen := [], ports := [], sorters := [], mem := [], poison := []
    filled := 0, filling := 0, fillDue := 0, fillWait := [], hbmErr := [], hbmTag := [], sramErr := [], scrubFull := [], trace := [], clock := 0
    free := 0, out := [] }

/-- The machine right after reset: no power yet, no command waiting. -/
def State.reset : State := { dev := Dev.reset, pending := [] }

end Sys2Proof.Machine
end

