-- ==== Sys2Proof/Machine/Sparse.lean ====
section
/-!
DEFINITION. Sparse maps in one canonical form: keys strictly rising, no entry equal to what an unlisted
key reads as. `d` gives what an unlisted key reads as. Memory, the register file and every numbered unit of the device
are such maps, so equal contents are equal data.
-/
namespace Sys2Proof.Machine

/-- What key `k` reads as. -/
def sget {α : Type} (d : Nat → α) : Sparse α → Nat → α
  | [], k => d k
  | (j, v) :: m, k => if j = k then v else sget d m k

/-- The map without an entry for `k`. -/
def sdel {α : Type} : Sparse α → Nat → Sparse α
  | [], _ => []
  | (j, v) :: m, k => if j = k then sdel m k else (j, v) :: sdel m k

/-- The map with the entry `k ↦ x` before the first larger key. -/
def sins {α : Type} : Sparse α → Nat → α → Sparse α
  | [], k, x => [(k, x)]
  | (j, v) :: m, k, x => if k < j then (k, x) :: (j, v) :: m else (j, v) :: sins m k x

/-- Write `x` at `k`: an entry that an unlisted key would read as anyway is not kept. -/
def sput {α : Type} [DecidableEq α] (d : Nat → α) (m : Sparse α) (k : Nat) (x : α) : Sparse α :=
  if x = d k then sdel m k else sins (sdel m k) k x

/-- Drop every entry whose key lies in `lo` to `hi`, both included: those keys read their unlisted value again. -/
def sclear {α : Type} (m : Sparse α) (lo hi : Nat) : Sparse α :=
  m.filter (fun e => e.1 < lo || hi < e.1)

/-- The keys rise strictly from `lo`. -/
def risingFrom {α : Type} (lo : Nat) : Sparse α → Bool
  | [] => true
  | (j, _) :: m => lo ≤ j && risingFrom (j + 1) m

/-- The canonical form. -/
def swf {α : Type} [DecidableEq α] (d : Nat → α) (m : Sparse α) : Bool :=
  risingFrom 0 m && m.all (fun e => e.2 != d e.1)

/-- Memory in canonical form; an unlisted byte reads 0 (DESIGN CHOICE, log entry 7). -/
def memByteDefault (_ : Nat) : Byte := 0
def Memory.wf (m : List Host.Cell) : Bool := swf memByteDefault m

end Sys2Proof.Machine
end

