-- ==== Sys2Proof/Machine/Pages.lean ====
section
/-!
DEFINITION. Where every register page lies in BAR0 (R63 to R66, R68), its common layout (R37), its identity
(R44, R45), and the catalogue of its own registers: offset, access, reset value, implemented bits and the
offset of the live copy of a shadow register (R54). A page is named by its BAR0 offset.
-/
namespace Sys2Proof.Machine

/-- The page types of R66. -/
inductive PageType where
  | base | mgr | seal | hostlink | hdma | opteng | addrbook | die | cluster | core | pmc | irqr
  | router | port | twin | d2d | hbmc | sorter | slane | postmark | trace | agemon
  deriving DecidableEq, Repr

/-- The type code of R66. -/
def PageType.code : PageType → Nat
  | .base => 0x01 | .mgr => 0x02 | .seal => 0x03 | .hostlink => 0x04 | .hdma => 0x05 | .opteng => 0x06
  | .addrbook => 0x07 | .die => 0x10 | .cluster => 0x11 | .core => 0x12 | .pmc => 0x13 | .irqr => 0x14
  | .router => 0x20 | .port => 0x21 | .twin => 0x22 | .d2d => 0x23 | .hbmc => 0x24 | .sorter => 0x25
  | .slane => 0x26 | .postmark => 0x27 | .trace => 0x28 | .agemon => 0x29

/-- A page's type, region (`site`, 0 for the base) and instance (R44). -/
structure PageLoc where
  typ : PageType
  inBase : Bool
  site : Nat
  inst : Nat
  deriving DecidableEq, Repr

def pgBase : Nat := 0x0000
def pgMgr : Nat := 0x1000
def pgSeal : Nat := 0x2000
def pgHost : Nat := 0x3000
def pgHdma : Nat := 0x4000
def pgOpt (j : Nat) : Nat := 0x5000 + 0x1000 * j
def pgBook : Nat := 0x100000
/-- The region of a die (R63). -/
def dieRegion (d : Nat) : Nat := 0x1000000 * (d + 1)
def pgDie (d : Nat) : Nat := dieRegion d
def pgCluster (d c : Nat) : Nat := dieRegion d + 0x1000 + 0x1000 * c
def pgCore (d k : Nat) : Nat := dieRegion d + 0x20000 + 0x1000 * k
def pgRouter (d : Nat) : Nat := dieRegion d + 0xA0000
def pgPort (d p : Nat) : Nat := dieRegion d + 0xA1000 + 0x1000 * p
def pgTwin (d : Nat) : Nat := dieRegion d + 0xAD000
def pgD2d (d e : Nat) : Nat := dieRegion d + 0xB0000 + 0x1000 * e
def pgHbmc (d s : Nat) : Nat := dieRegion d + 0xB8000 + 0x1000 * s
def pgSorter (d : Nat) : Nat := dieRegion d + 0xC0000
def pgSlane (d l : Nat) : Nat := dieRegion d + 0xC1000 + 0x1000 * l
def pgPmc (d : Nat) : Nat := dieRegion d + 0xD0000
def pgIrqr (d : Nat) : Nat := dieRegion d + 0xD1000
def pgTrace (d : Nat) : Nat := dieRegion d + 0xD2000
def pgAgemon (d : Nat) : Nat := dieRegion d + 0xD3000
def pgPostmark (d i : Nat) : Nat := dieRegion d + 0xE0000 + 0x1000 * i

/-- The page of package fabric port n (R20): PORT n mod 12 of site n div 12, or the TWIN page for 48 and 49. -/
def pgOfPort (n : Nat) : Nat :=
  if n < 48 then pgPort (n / 12) (n % 12) else pgTwin (if n = 48 then 0 else 2)
/-- The site a package fabric port belongs to (R20). -/
def siteOfPort (n : Nat) : Nat := if n < 48 then n / 12 else if n = 48 then 0 else 2

/-- A page of a die region from its page number within the region (R65). -/
def diePageAt (d q : Nat) : Option PageLoc :=
  let mk (t : PageType) (i : Nat) : Option PageLoc := some ⟨t, false, d, i⟩
  if q = 0 then mk .die 0
  else if q ≤ 0x10 then mk .cluster (q - 1)
  else if 0x20 ≤ q ∧ q < 0xA0 then mk .core (q - 0x20)
  else if q = 0xA0 then mk .router 0
  else if 0xA1 ≤ q ∧ q ≤ 0xAC then mk .port (q - 0xA1)
  else if q = 0xAD then (if d % 2 = 0 then mk .twin 0 else none)
  else if 0xB0 ≤ q ∧ q ≤ 0xB2 then mk .d2d (q - 0xB0)
  else if 0xB8 ≤ q ∧ q ≤ 0xBA then mk .hbmc (q - 0xB8)
  else if q = 0xC0 then mk .sorter 0
  else if 0xC1 ≤ q ∧ q ≤ 0xC4 then mk .slane (q - 0xC1)
  else if q = 0xD0 then mk .pmc 0
  else if q = 0xD1 then mk .irqr 0
  else if q = 0xD2 then mk .trace 0
  else if q = 0xD3 then mk .agemon 0
  else if 0xE0 ≤ q ∧ q ≤ 0xF1 then mk .postmark (q - 0xE0)
  else none

/-- The page at a BAR0 offset, if the offset holds one (R43, R63 to R66). -/
def pageAt (addr : Nat) : Option PageLoc :=
  let region := addr / 0x1000000
  let q := addr % 0x1000000 / 0x1000
  if region = 0 then
    if q = 0 then some ⟨.base, true, 0, 0⟩
    else if q = 1 then some ⟨.mgr, true, 0, 0⟩
    else if q = 2 then some ⟨.seal, true, 0, 0⟩
    else if q = 3 then some ⟨.hostlink, true, 0, 0⟩
    else if q = 4 then some ⟨.hdma, true, 0, 0⟩
    else if 5 ≤ q ∧ q ≤ 0x11 then some ⟨.opteng, true, 0, q - 5⟩
    else if q = 0x100 then some ⟨.addrbook, true, 0, 0⟩
    else none
  else if region ≤ 4 then diePageAt (region - 1) q
  else none

/-- The BAR0 offset of the page that holds an address. -/
def pageBase (addr : Nat) : Nat := addr / 0x1000 * 0x1000

/-- Every page of the package, base pages first (R64, R65). -/
def allPages : List Nat :=
  [pgBase, pgMgr, pgSeal, pgHost, pgHdma] ++ (List.range 13).map pgOpt ++ [pgBook]
  ++ (List.range 4).flatMap (fun d =>
    ((List.range 0xF2).map (fun q => dieRegion d + 0x1000 * q)).filter (fun a => (pageAt a).isSome))

/-- The pages of one die's region. -/
def diePages (d : Nat) : List Nat := allPages.filter (fun a => a / 0x1000000 = d + 1)

/-! ## Common offsets (R37) -/
def oCtrl : Nat := 0x010
def oState : Nat := 0x014
def oErrStat : Nat := 0x018
def oErrIrqEn : Nat := 0x01C
def oErrClass : Nat := 0x020
def oErrFirst : Nat := 0x024
def oInfo0 : Nat := 0x028
def oInfo1 : Nat := 0x02C
def oCcount : Nat := 0x030
def oEscWindow : Nat := 0x034
def oInject : Nat := 0x038
def oCommit : Nat := 0x040
def oCommitStat : Nat := 0x044
def oEvsel : Nat := 0x080
def oEvctl : Nat := 0x0A0
def oEvcnt : Nat := 0x0C0

/-! ## The block states of R48 -/
def stOff : Nat := 0
def stStarting : Nat := 1
def stRunning : Nat := 2
def stDraining : Nat := 3
def stFenced : Nat := 4
def stHalted : Nat := 5

/-- The access codes of R38. `special` is a run-time register whose write is an operation of its owner. -/
inductive Access where
  | ro | rw | wo | w1c | w1s | special
  deriving DecidableEq, Repr

/-- A run of registers of a page: first offset, how many, stride, access, implemented bits, reset value of the first,
the step of the reset value per register and per die site, and for shadow registers the offset of the first live copy. -/
structure RegRange where
  first : Nat
  count : Nat
  stride : Nat
  acc : Access
  mask : Nat
  reset : Nat
  rstep : Nat
  rsite : Nat
  live : Option Nat
  deriving DecidableEq, Repr

def rr1 (off : Nat) (acc : Access) (mask reset : Nat) : RegRange := ⟨off, 1, 4, acc, mask, reset, 0, 0, none⟩
def rrN (off n stride : Nat) (acc : Access) (mask reset : Nat) : RegRange := ⟨off, n, stride, acc, mask, reset, 0, 0, none⟩
/-- A shadow register with its live copy. -/
def rrS (off live mask reset : Nat) : RegRange := ⟨off, 1, 4, .rw, mask, reset, 0, 0, some live⟩
def rrSN (off n stride live mask reset : Nat) : RegRange := ⟨off, n, stride, .rw, mask, reset, 0, 0, some live⟩

def m32 : Nat := 0xFFFFFFFF

/-- Link registers shared by the PORT and TWIN pages (R365, R463). -/
def linkRegs : List RegRange :=
  [rrS 0x100 0x800 0xFFFF 0x800, rrS 0x104 0x804 0x7 0x1, rrSN 0x110 8 4 0x810 0x1FFF 0x400,
   rr1 0x840 .ro m32 0, rr1 0x844 .ro m32 0, rrN 0x848 6 4 .ro m32 0, rr1 0xF00 .special 0x1 0]

/-- The catalogue of a page type's own registers. -/
def pageRegs : PageType → List RegRange
  -- R91, R521
  | .base => [rr1 0x840 .ro 0xFFFF 0, rr1 0x844 .ro 0xFFFF 0, rr1 0x848 .ro 0x3FF 0, rr1 0x84C .ro 0xF3 0,
              rrN 0x880 16 4 .ro m32 0, rr1 0xF00 .special 0xFFF 2400, rr1 0xF04 .special 0x1 0]
  -- R484
  | .mgr => [rrN 0x820 6 4 .ro m32 0, rrN 0x840 4 4 .ro 0xFFFF 0, rrN 0x850 16 4 .ro m32 0, rr1 0x890 .ro m32 0,
             rrN 0x8A0 4 4 .ro m32 0]
  -- R149
  | .seal => [rrS 0x100 0x800 0xFF 0x20, rrN 0x820 5 4 .ro m32 0, rrN 0x840 8 4 .ro m32 0,
              rrN 0x860 8 4 .ro m32 0, rrN 0x880 8 4 .ro m32 0, rrN 0x900 64 4 .ro m32 0]
  -- R119
  | .hostlink => [rrSN 0x100 64 0x10 0x800 0x3FFFF 0, rrSN 0x104 64 0x10 0x804 0x3FFFF 0,
                  rrSN 0x108 64 0x10 0x808 0xFFFFFF 0, rrSN 0x10C 64 0x10 0x80C 0x3 0,
                  rr1 0xC00 .ro 0x3F7 0, rr1 0xC04 .ro 0x107 0, rr1 0xC08 .ro m32 0, rr1 0xC0C .ro m32 0,
                  rr1 0xC10 .ro m32 0, rr1 0xC14 .ro m32 0,
                  rr1 0xF00 .special 0xFFFFF000 0, rr1 0xF04 .special m32 0, rr1 0xF08 .special 0x1FFF 0,
                  rr1 0xF0C .special 0x1FFF 0, rr1 0xF10 .ro m32 0, rr1 0xF14 .special 0xFFFFF000 0,
                  rr1 0xF18 .special m32 0, rr1 0xF1C .special 0x1FFF 0, rr1 0xF20 .ro m32 0,
                  rr1 0xF24 .special 0x1FFF 0, rrN 0xF40 16 4 .special m32 0, rrN 0xF80 16 4 .special m32 0]
  -- R120
  | .hdma => [rrSN 0x100 8 4 0x800 0xF 0x4,
              rrN 0xF00 8 0x20 .special 0xFFFFF000 0, rrN 0xF04 8 0x20 .special m32 0,
              rrN 0xF08 8 0x20 .special 0x1FFFF 0, rrN 0xF0C 8 0x20 .special 0xFFFFF000 0,
              rrN 0xF10 8 0x20 .special m32 0, rrN 0xF14 8 0x20 .special 0x1FFFF 0, rrN 0xF18 8 0x20 .ro m32 0]
  -- R368
  | .opteng => [rrS 0x100 0x800 0xFF 0x82, rrS 0x104 0x804 0x3FF 0xA, rrN 0x820 16 4 .ro m32 0,
                rrN 0x860 16 4 .ro m32 0, rrN 0x8A0 16 4 .ro m32 0]
  -- R68
  | .addrbook => [rr1 0x820 .ro 0xFFFFFF 0]
  -- R35
  | .die => [rrS 0x100 0x808 0x7FFFF 0, rrS 0x104 0x80C m32 0, rr1 0x800 .ro 0x1F 0, rr1 0x804 .ro 0xFFFFFF 0,
             rr1 0x820 .ro 0xFFFFFF07 0, rr1 0x824 .ro m32 0]
  -- R292
  | .cluster => [rrSN 0x100 8 4 0x800 0xFF 0, rrN 0x820 8 4 .ro 0xFFFF00FF 0, rr1 0x840 .ro m32 0, rr1 0x844 .ro 0xFF 0]
  -- R189, R512
  | .core => [rrS 0x100 0x800 0xFFFF 0, rrS 0x104 0x804 0x1F 0, rrS 0x108 0x808 0x7FFF 0, rrS 0x10C 0x80C 0x7FFF 0,
              rrS 0x110 0x810 m32 0, rrS 0x114 0x814 m32 0, rrS 0x118 0x818 0x3 0, rrSN 0x140 16 4 0x840 0x7FFF 0,
              rrN 0x880 16 0x20 .ro m32 0, rrN 0x884 16 0x20 .ro 0x3 0, rrN 0x888 16 0x20 .ro m32 0,
              rrN 0x88C 16 0x20 .ro m32 0, rrN 0x890 16 0x20 .ro m32 0, rrN 0x894 16 0x20 .ro m32 0,
              rr1 0xA80 .ro m32 0, rrN 0xB00 26 4 .ro m32 0, rr1 0xF00 .special 0xFFFF 0, rr1 0xF04 .special 0xFFFF 0, rr1 0xF08 .special 0xFFFF 0,
              rr1 0xF40 .special 0x3FFFF 0, rr1 0xF44 .ro m32 0]
  -- R88
  | .pmc => [rrS 0x100 0x800 0x3FF 0x100, rrS 0x104 0x804 0x3FF 0x1E0, rrS 0x108 0x808 0xFFFF 0x645F,
             rrS 0x10C 0x80C 0xFFF000F 0x400006, rr1 0x820 .ro 0xFFFF 0, rr1 0x824 .ro 0x1F 0x10,
             rr1 0x828 .ro 0xF0FFF 0, rr1 0x82C .ro m32 0, rr1 0xF00 .special 0x3FF 0x1E0]
  -- R115
  | .irqr => [⟨0x100, 192, 4, .rw, 0x1713FF, 0x101040, 1, 240, some 0x800⟩, rr1 0xB00 .ro m32 0]
  -- R362
  | .router => [rrS 0x100 0x800 0xFF3F01 0x103F00, rrS 0x104 0x804 0x107FF 0, rrS 0x108 0x808 0xFFFFFF80 0,
                rrS 0x10C 0x80C 0xFF 0, rrS 0x110 0x810 0x1FFF 0, rrSN 0x200 32 4 0x900 0xFFFFFF3F 0,
                rrSN 0x280 32 4 0x980 0x3F 0x3E, rr1 0xA00 .ro m32 0, rr1 0xA04 .ro m32 0]
  -- R365
  | .port => linkRegs
  -- R463
  | .twin => linkRegs ++
      [rrS 0x180 0x880 0xFFFFFFF 0x1F44000, rrSN 0x200 32 8 0x900 0xFFFFFF 0, rrSN 0x204 32 8 0x904 0x7FFFFF 0,
       rrN 0xA00 9 4 .ro m32 0, rrN 0xB00 24 4 .ro m32 0, rrN 0xB80 24 4 .ro m32 0,
       rrN 0xF10 16 4 .rw m32 0, rr1 0xF50 .special 0xF 0]
  -- R329
  | .d2d => [rrS 0x100 0x800 0x3FF 0x100, rrS 0x104 0x804 m32 0, rrN 0x820 5 4 .ro m32 0,
             rr1 0x840 .ro 0xFF 0, rr1 0x844 .ro m32 0,
             rr1 0xF00 .rw 0x7F1F 0, rr1 0xF04 .ro m32 0, rr1 0xF08 .ro m32 0, rrN 0xF0C 4 4 .ro m32 0]
  -- R308
  | .hbmc => [rrS 0x100 0x800 0xFF 0x18, rrN 0x820 9 4 .ro m32 0, rr1 0xF00 .special 0x1 0]
  -- R415, R439
  | .sorter => [rrS 0x100 0x800 0x3 0x2, rrS 0x104 0x804 m32 0x5F5E100, rrS 0x108 0x808 0x3FF 0x20,
                rrS 0x110 0x810 0xFFFF0000 0, rrS 0x114 0x814 0xFF 0, rrSN 0x140 16 4 0x840 m32 0,
                rrSN 0x200 64 8 0x900 0xFFFFFF 0, rrSN 0x204 64 8 0x904 0x7FFFFF 0,
                rrSN 0x400 16 0x10 0xD40 0x8001FFFF 0, rrSN 0x404 16 0x10 0xD44 0x107FF 0,
                rrSN 0x408 16 0x10 0xD48 0xFFFFFF 0, rrSN 0x40C 16 0x10 0xD4C 0xFFF007F 0,
                rrN 0xB00 7 4 .ro m32 0, rrN 0xB20 16 4 .ro m32 0, rrN 0xB60 32 4 .ro m32 0, rrN 0xBE0 4 4 .ro m32 0,
                rrN 0xC00 64 4 .ro 0xFFFF0003 0, rr1 0xD00 .ro 0x1FFFFF 0, rrN 0xE40 16 4 .ro 0xFFFF00FF 0,
                rr1 0xE80 .ro m32 0, rr1 0xE84 .ro m32 0,
                rr1 0xF00 .rw 0xFF 0, rr1 0xF04 .w1c 0x1 0, rr1 0xF08 .special 0x7 0]
  -- R418
  | .slane => [rrN 0x800 6 4 .ro m32 0]
  -- R380
  | .postmark => [rrS 0x100 0x800 m32 0x10000, rrN 0x820 6 4 .ro m32 0]
  -- R517
  | .trace => [rrS 0x100 0x800 0x3F 0, rrN 0x820 3 4 .ro m32 0, rrN 0x830 2 4 .ro m32 0, rr1 0xF00 .rw 0x3FFFF 0,
               rr1 0xF04 .special m32 0, rr1 0xF08 .special 0x3 0, rrN 0xF10 8 4 .ro m32 0]
  -- R499
  | .agemon => [rrS 0x100 0x800 0xFFFF 0x3E8, rrS 0x104 0x804 0xF0F 0x405, rrN 0x820 16 0x10 .ro m32 0,
                rrN 0x824 16 0x10 .ro m32 0, rrN 0x828 16 0x10 .ro 0xFFFF 0, rrN 0x82C 16 0x10 .ro m32 0,
                rr1 0x920 .ro m32 0, rr1 0x924 .ro 0xFFFFF 0, rr1 0xF00 .special 0x1 0]

/-- One register as the catalogue gives it. -/
structure RegSpec where
  acc : Access
  mask : Nat
  reset : Nat
  live : Option Nat
  deriving DecidableEq, Repr

/-- The register of a range at an offset, its shadow or its live copy. -/
def RegRange.at? (r : RegRange) (site off : Nat) : Option RegSpec :=
  let idx := (off - r.first) / r.stride
  let val := r.reset + r.rstep * idx + r.rsite * site
  if r.first ≤ off ∧ (off - r.first) % r.stride = 0 ∧ idx < r.count then
    some ⟨r.acc, r.mask, val, r.live.map (fun l => l + (off - r.first))⟩
  else match r.live with
    | some l =>
      let j := (off - l) / r.stride
      if l ≤ off ∧ (off - l) % r.stride = 0 ∧ j < r.count then
        some ⟨.ro, r.mask, r.reset + r.rstep * j + r.rsite * site, none⟩
      else none
    | none => none

/-- The first range of a list that holds the offset. -/
def findReg (site off : Nat) : List RegRange → Option RegSpec
  | [] => none
  | r :: rs => match r.at? site off with
    | some x => some x
    | none => findReg site off rs

/-- Registers that only some instances of their page type have: the laser registers of OPTENG 12 (R368), RETRY_CFG of the Sorter lanes'
postmark units (R380), and the edge and relay registers of the D2D pages (R329). -/
def absentReg (l : PageLoc) (off : Nat) : Bool :=
  match l.typ with
  | .opteng => l.inst != 12 && (off == 0x100 || off == 0x800 || decide (0x860 ≤ off))
  | .postmark => (decide (l.inst ≤ 12) || l.inst == 17) && (off == 0x100 || off == 0x800)
  | .d2d => (l.inst == 2) != (off == 0x840 || off == 0x844)
  | _ => false

/-- A page's own register at an offset of 0x100 or above, on the page that has it. -/
def ownReg (l : PageLoc) (off : Nat) : Option RegSpec := if absentReg l off then none else findReg l.site off (pageRegs l.typ)

/-- The reset value of the register at a BAR0 offset (R37, R54 and the catalogue); 0 where nothing is. -/
def regDefault (addr : Nat) : W32 :=
  match pageAt addr with
  | none => 0
  | some l =>
    let off := addr % 0x1000
    if off = oErrIrqEn then 0xE
    else if off = oEscWindow then 0x10000000
    else match ownReg l off with
      | some r => BitVec.ofNat 32 r.reset
      | none => 0

/-! ## Identity (R44, R45) -/

/-- Whether INJECT, COMMIT and CTRL.FENCE_REQ act on a page (R45 bits 0 to 2; DEDUCED, log entry 8 for the pages whose
chapters do not say). -/
def capBits (l : PageLoc) : Bool × Bool × Bool :=
  match l.typ with
  | .cluster | .hbmc | .port | .twin => (true, true, true)
  | .d2d => if l.inst = 2 then (false, false, false) else (true, true, true)
  | .postmark => (true, true, false)
  | .core | .router => (false, true, true)
  | .die => (false, true, true)
  | .slane => (false, false, true)
  | .mgr | .base => (false, false, false)
  | .sorter | .agemon | .opteng | .trace | .pmc | .irqr | .seal | .hostlink | .hdma | .addrbook => (false, true, false)

/-- The features that exist only from a feature level on (R184, R416); the levels are an implementation's (DESIGN CHOICE, log entry 9). -/
inductive Feature where
  | sparse | route | tmap | noise
  deriving DecidableEq, Repr

def featureLevel : Feature → Byte
  | .sparse => Config.sparseLevel
  | .route => Config.routeLevel
  | .tmap => Config.tmapLevel
  | .noise => Config.noiseLevel

/-- The capability bits of BLOCK_CAPS in place (R190, R330, R366, R381, R416, R500), at a level in force. -/
def blockCaps (l : PageLoc) (level : Byte) : Nat :=
  let bit (f : Feature) (n : Nat) : Nat := if featureLevel f ≤ level then 2 ^ n else 0
  match l.typ with
  | .core => 16 * 2 ^ 8 + 4 * 2 ^ 13 + bit .sparse 16 + bit .route 17 + bit .tmap 18
  | .d2d => if l.inst = 2 then 0 else 32 * 2 ^ 8
  | .port | .twin => 4 * 2 ^ 8
  | .postmark => if l.inst ≤ 12 then 1 * 2 ^ 10 else if l.inst ≤ 16 then 1 * 2 ^ 8 + 7 * 2 ^ 10 else 2 * 2 ^ 8 + 7 * 2 ^ 10
  | .sorter => bit .noise 8
  | .agemon => 4 * 2 ^ 8
  | _ => 0

/-- PAGE_ID (R44). -/
def pageId (l : PageLoc) : W32 :=
  BitVec.ofNat 32 (1 + 16 * l.inst + 65536 * l.typ.code)

/-- PAGE_SITE (R45): site, cluster and core of the page. -/
def pageSite (l : PageLoc) : W32 :=
  if l.inBase then 0x80
  else match l.typ with
    | .core => BitVec.ofNat 32 (l.site + 0x20 + 0x40 + 0x100 * (l.inst / 8) + 0x1000 * (l.inst % 8))
    | .cluster => BitVec.ofNat 32 (l.site + 0x40 + 0x100 * l.inst)
    | _ => BitVec.ofNat 32 l.site

/-- PAGE_CAPS (R45). -/
def pageCaps (l : PageLoc) (level : Byte) : W32 :=
  let (i, s, f) := capBits l
  BitVec.ofNat 32 (i.toNat + 2 * s.toNat + 4 * f.toNat + blockCaps l level)

end Sys2Proof.Machine
end

