-- ==== Sys2Proof/Machine/Ops.lean ====
section
/-!
DEFINITION. The named operations every command shares: bit fields, registers of pages, block states (R48),
messages that leave the package, interrupt lines (R114), the trace (R514, R515), event counters (R503 to R508) and
the recording of an error in its page (R50, R51).
-/
namespace Sys2Proof.Machine

/-- The `w`-bit field of `x` at bit `lo`. -/
def fld (x lo w : Nat) : Nat := x / 2 ^ lo % 2 ^ w
/-- `x` with its `w`-bit field at bit `lo` replaced. -/
def setFld (x lo w v : Nat) : Nat := x - fld x lo w * 2 ^ lo + v % 2 ^ w * 2 ^ lo
/-- Bit `i` of `x`. -/
def tbit (x i : Nat) : Bool := fld x i 1 = 1
def setBit (x i : Nat) (b : Bool) : Nat := setFld x i 1 b.toNat
/-- The number of set bits among the low `w`. -/
def popc (x w : Nat) : Nat := ((List.range w).filter (tbit x)).length
/-- Little-endian bytes of a number (R6). -/
def toBytes (n x : Nat) : List Byte := (List.range n).map (fun i => BitVec.ofNat 8 (x / 2 ^ (8 * i)))
/-- The number that bytes hold, little-endian (R6). -/
def ofBytes : List Byte → Nat
  | [] => 0
  | b :: bs => b.toNat + 256 * ofBytes bs
/-- `n` bytes of a byte string from offset `o` on, and the number they hold. -/
def bytesFrom (bs : List Byte) (o n : Nat) : List Byte := (bs.drop o).take n
def bytesAt (bs : List Byte) (o n : Nat) : Nat := ofBytes (bytesFrom bs o n)
def ceilDiv (a b : Nat) : Nat := (a + b - 1) / b

/-! ## Registers by BAR0 offset -/

def reg (d : Dev) (a : Nat) : W32 := sget regDefault d.regs a
def regN (d : Dev) (a : Nat) : Nat := (reg d a).toNat
def setReg (d : Dev) (a : Nat) (v : W32) : Dev := { d with regs := sput regDefault d.regs a v }
def setRegN (d : Dev) (a n : Nat) : Dev := setReg d a (BitVec.ofNat 32 n)
/-- Add to a saturating 32-bit count. -/
def addSat (d : Dev) (a n : Nat) : Dev := setRegN d a (min m32 (regN d a + n))
def incSat (d : Dev) (a : Nat) : Dev := addSat d a 1
def reg64 (d : Dev) (a : Nat) : Nat := regN d a + 2 ^ 32 * regN d (a + 4)
def setReg64 (d : Dev) (a n : Nat) : Dev := setRegN (setRegN d a n) (a + 4) (n / 2 ^ 32)
/-- A field of a register. -/
def rfld (d : Dev) (a lo w : Nat) : Nat := fld (regN d a) lo w
def setRfld (d : Dev) (a lo w v : Nat) : Dev := setRegN d a (setFld (regN d a) lo w v)

/-! ## Defaults of the numbered units -/

def streamDefault (_ : Nat) : Stream := ⟨0, 0, false, 0, false, 0, [], 0, 0⟩
/-- A context as CTX_GO finds it (R152): every register, counter and flag 0. (DESIGN CHOICE, log entry 5) -/
def ctxDefault (_ : Nat) : Ctx :=
  ⟨.idle, 0, [], [], [], [], [], false, false, 0, 0, 0, 0, 0, 0, 0, .none, [], 0, false, 0, [], 0⟩
def accDefault : AccSet := ⟨false, 0, 0, 0, 0, 0, 0, 0, 0, 0, []⟩
def coreDefault (_ : Nat) : Core :=
  ⟨0, 15, false, 0, 0, 0, 0, [], [], [], [], [], accDefault, accDefault, [], none, none, 0, [], [], false⟩
def moduleDefault (_ : Nat) : Module := ⟨false, 0, false, 0, 0xFFFFFFFF, 0, 0, false, [], 0, false, false, false, false, false, 0, []⟩
def edgeDefault (_ : Nat) : Edge := ⟨false, false, [], [], []⟩
def portDefault (_ : Nat) : Port :=
  ⟨true, false, 0, false, none, none, [], [], 0, [], [], [], none, none, 0, 0, 0xFFF, false, [], [], [], [], [], 0⟩
def sorterDefault (_ : Nat) : Sorter :=
  ⟨[], [], 0, [], [], [], [], [], [], [], [], [], [], [], [], false, [], none, [], []⟩
def hdmaDefault (_ : Nat) : Hdma := ⟨none, 0, false, false⟩
def escDefault (_ : Nat) : Esc := ⟨none, none⟩
def zero32 (_ : Nat) : W32 := 0
def zero64 (_ : Nat) : W64 := 0
def zeroNat (_ : Nat) : Nat := 0
def noFlag (_ : Nat) : Bool := false
def noNats (_ : Nat) : List Nat := []
def noCommit (_ : Nat) : Option PendingCommit := none
def noDigest (_ : Nat) : Digest := 0
def traceDefault (_ : Nat) : TraceEntry := ⟨0, 0, 0, 0, 0, 0, 0, 0⟩

/-- The resident firmware, and a program of the job, on whatever postmaster core (R42). -/
def isFirmware : Requester → Bool
  | .firmware _ _ => true
  | _ => false
def isJob : Requester → Bool
  | .job _ _ => true
  | _ => false

/-! ## Keys of the numbered units -/

def coreKey (site k : Nat) : Nat := 128 * site + k
def coreRefKey (c : CoreRef) : Nat := coreKey c.site.val c.core.val
def ctxKey (site k n : Nat) : Nat := 16 * coreKey site k + n
def ctxRefKey (c : CtxRef) : Nat := ctxKey c.site.val c.core.val c.ctx.val
def modKey (site : Nat) (edge m : Nat) : Nat := 64 * site + 32 * edge + m
def modRefKey (m : ModRef) : Nat := modKey m.site.val m.edgeB.toNat m.mod.val
def edgeKey (site edge : Nat) : Nat := 2 * site + edge

def getCore (d : Dev) (k : Nat) : Core := sget coreDefault d.cores k
def putCore (d : Dev) (k : Nat) (c : Core) : Dev := { d with cores := sput coreDefault d.cores k c }
def getCtx (d : Dev) (k : Nat) : Ctx := sget ctxDefault d.ctxs k
def putCtx (d : Dev) (k : Nat) (c : Ctx) : Dev := { d with ctxs := sput ctxDefault d.ctxs k c }
def getMod (d : Dev) (k : Nat) : Module := sget moduleDefault d.mods k
def putMod (d : Dev) (k : Nat) (m : Module) : Dev := { d with mods := sput moduleDefault d.mods k m }
def getEdge (d : Dev) (k : Nat) : Edge := sget edgeDefault d.edges k
def putEdge (d : Dev) (k : Nat) (e : Edge) : Dev := { d with edges := sput edgeDefault d.edges k e }
def getPort (d : Dev) (n : Nat) : Port := sget portDefault d.ports n
def putPort (d : Dev) (n : Nat) (p : Port) : Dev := { d with ports := sput portDefault d.ports n p }
def getSorter (d : Dev) (s : Nat) : Sorter := sget sorterDefault d.sorters s
def putSorter (d : Dev) (s : Nat) (x : Sorter) : Dev := { d with sorters := sput sorterDefault d.sorters s x }
def getHdma (d : Dev) (ch : Nat) : Hdma := sget hdmaDefault d.hdma ch
def putHdma (d : Dev) (ch : Nat) (h : Hdma) : Dev := { d with hdma := sput hdmaDefault d.hdma ch h }

/-! ## Block states (R47, R48) -/

def dieFact (d : Dev) (s : Nat) : DieFact := d.dies.getD s ⟨false, 0, 0, 0, 0, 0, 0⟩
def bvBit {w : Nat} (v : BitVec w) (i : Nat) : Bool := v.getLsbD i
def setBv {w : Nat} (v : BitVec w) (i : Nat) (b : Bool) : BitVec w :=
  if b then v ||| BitVec.ofNat w (2 ^ i) else v &&& ~~~ BitVec.ofNat w (2 ^ i)

/-- Step 4 of R75 is done for the site: it was released. -/
def released (d : Dev) (s : Nat) : Bool := bvBit d.board.released s

/-- Pages whose block starts on its own at START of the part or under step 6 to 8 of R75. -/
def lateType (t : PageType) : Bool := t = .d2d || t = .hbmc || t = .port || t = .twin

/-- A page that no write and no rule has moved yet is RUNNING once its region is up (base pages from step 1 of R75, die
pages from DIE_READY; D2D, HBMC, PORT and TWIN pages start OFF), and OFF before that (DESIGN CHOICE, log entry 10). -/
def bootUp (d : Dev) (a : Nat) : Bool :=
  match pageAt a with
  | none => false
  | some l => if l.inBase then decide (1 ≤ d.board.bootStep) else bvBit d.board.ready l.site && !lateType l.typ

/-- The state a page's block holds, the halt apart. The stored word is 0 for a page not moved since its region came up,
else the code of R48 plus 1. -/
def ownState (d : Dev) (a : Nat) : Nat :=
  let w := regN d (a + oState)
  if w = 0 then (if bootUp d a then stRunning else stOff) else w - 1

/-- STATE of a page (R48); every page of a halted package reads HALTED (R481). -/
def pageState (d : Dev) (a : Nat) : Nat := if d.board.halted then stHalted else ownState d a

/-- CTRL of a page: bit 0 ENABLE, bit 2 FENCE_REQ (R47), stored like STATE. -/
def pageCtrl (d : Dev) (a : Nat) : Nat :=
  let w := regN d (a + oCtrl)
  if w = 0 then (if bootUp d a then 1 else 0) else w - 1
def setCtrl (d : Dev) (a v : Nat) : Dev := setRegN d (a + oCtrl) (v + 1)
def fenceReqd (d : Dev) (a : Nat) : Bool := tbit (pageCtrl d a) 2

def dieFenced (d : Dev) (s : Nat) : Bool := ownState d (pgDie s) = stFenced
/-- Released and not fenced as a whole. -/
def dieUp (d : Dev) (s : Nat) : Bool := released d s && !dieFenced d s
def running (d : Dev) (a : Nat) : Bool := pageState d a = stRunning

/-- The level in force of a page's region (R11, R46): level 1 until step 5 of R75 writes RUN_LEVEL. -/
def runLevel (d : Dev) (s : Nat) : Nat := fld (regN d (pgDie s + 0x804)) 16 8
def packageLevel (d : Dev) : Nat :=
  match (List.range 4).filter (dieUp d) with
  | s :: _ => runLevel d s
  | [] => 0
def levelInForce (d : Dev) (l : PageLoc) : Byte :=
  BitVec.ofNat 8 (max 1 (if l.inBase then packageLevel d else runLevel d l.site))
def hasFeature (d : Dev) (s : Nat) (f : Feature) : Bool := featureLevel f ≤ BitVec.ofNat 8 (max 1 (runLevel d s))

/-! ## What leaves the package (DESIGN CHOICE, log entry 51) -/

def emit (d : Dev) (o : Out) : Dev := { d with out := d.out ++ [o] }

/-- The n-th free value, and the counter moved on (DESIGN CHOICE, log entry 4). -/
def drawFree (d : Dev) : W64 × Dev := (Config.freeWord d.free, { d with free := d.free + 1 })

/-! ## Interrupts (R112 to R114) -/

/-- The word a dword of the MSI-X table holds at reset: every vector masked (R114, as PCIe defines; PRESUMED, log entry 11). -/
def msixDefault (i : Nat) : W32 := if i % 4 = 3 then 1 else 0
def cfgMsix : Nat := 10
def cfgCommand : Nat := 4
/-- Configuration registers at reset: only the identity is nonzero, and that is computed. -/
def cfgReg (d : Dev) (i : Nat) : Nat := (sget zero32 d.cfg i).toNat
/-- Whether a message of this vector can be sent now: MSI-X enabled and not masked as a whole, the vector unmasked, bus
mastering on (as PCIe defines; PRESUMED, log entry 11). -/
def msixOpen (d : Dev) (v : Nat) : Bool :=
  tbit (cfgReg d cfgMsix) 15 && !tbit (cfgReg d cfgMsix) 14 && tbit (cfgReg d cfgCommand) 2
    && !tbit (sget msixDefault d.msixTable (4 * v + 3)).toNat 0
/-- Send a vector, or set its PBA bit while it cannot be sent (R114). -/
def msixSend (d : Dev) (v : Nat) : Dev :=
  if msixOpen d v then emit d (.msix v) else { d with pba := sput noFlag d.pba v true }
/-- Send every pending vector that can now be sent. -/
def msixFlush (d : Dev) : Dev :=
  (d.pba.filter (fun e => e.2)).foldl
    (fun d e => if msixOpen d e.1 then emit { d with pba := sput noFlag d.pba e.1 false } (.msix e.1) else d) d

/-- The source number of a die page (R113). -/
def irqSource (l : PageLoc) : Nat :=
  match l.typ with
  | .die => 0 | .cluster => 1 + l.inst | .core => 17 + l.inst | .router => 145 | .port => 146 + l.inst
  | .twin => 158 | .d2d => 159 + l.inst | .hbmc => 162 + l.inst | .sorter => 165 | .slane => 166 + l.inst
  | .pmc => 170 | .irqr => 171 | .trace => 172 | .agemon => 173 | .postmark => 174 + l.inst
  | _ => 192

/-- The fixed vector of a base page (R112). -/
def baseVector (l : PageLoc) : Nat :=
  match l.typ with
  | .base => 0 | .mgr => 1 | .seal => 2 | .hostlink => 3 | .hdma => 4 | .opteng => 5 + l.inst | _ => 18

/-- One message to each enabled target of a page's line (R112, R114). -/
def sendIrq (d : Dev) (a : Nat) : Dev :=
  match pageAt a with
  | none => d
  | some l =>
    if l.inBase then msixSend (emit d (.mgrMessage a)) (baseVector l)
    else
      let i := irqSource l
      let r := regN d (pgIrqr l.site + 0x800 + 4 * i)
      let d := if tbit r 20 then incSat (emit d (.pmMessage l.site (fld r 16 3) i)) (pgIrqr l.site + 0xB00) else d
      if tbit r 12 then incSat (msixSend d (fld r 0 10)) (pgIrqr l.site + 0xB00) else d

/-- Whether a page's line is high (R50, R508). -/
def lineHigh (d : Dev) (a : Nat) : Bool :=
  (reg d (a + oErrStat) &&& reg d (a + oErrIrqEn)) != 0
  || (List.range 8).any (fun n => tbit (regN d (a + oEvctl)) (24 + n) && tbit (regN d (a + oEvsel + 4 * n)) 25)

/-- A line that is no longer high has fallen; a rise is an event of its own (IRQ_LINE_RISE). -/
def irqUpdate (d : Dev) (a : Nat) : Dev :=
  if lineHigh d a then d else { d with lines := sput noFlag d.lines a false }

/-- IRQ_LINE_RISE: a line that has risen sends its messages (R114). -/
def irqRise (d : Dev) (a : Nat) : Dev :=
  if lineHigh d a && !sget noFlag d.lines a then sendIrq { d with lines := sput noFlag d.lines a true } a else d

/-- After a write to ERR_STAT, ERR_IRQ_EN or EVCTL: a line still high sends its messages again (R114, R508). -/
def irqAgain (d : Dev) (a : Nat) : Dev :=
  let h := lineHigh d a
  let d := { d with lines := sput noFlag d.lines a h }
  if h then sendIrq d a else d

/-! ## Clocks (R71): cycles of a page's clock per tick of 5 ns (DESIGN CHOICE, log entry 12) -/

def clusterFreq (d : Dev) (s c : Nat) : Nat := fld (regN d (pgAgemon s + 0x82C + 0x10 * c)) 0 6
/-- The array clock of a cluster runs at half its frequency while a droop lasts (R86). -/
def clockHalved (d : Dev) (s c : Nat) : Bool := bvBit d.board.halved (16 * s + c)
/-- The array cycles of a cluster so far: held in eighths, so that a tick of 5 ns adds twice FREQ, or FREQ while the clock is halved. -/
def arrayCycles (d : Dev) (s c : Nat) : Nat := sget zeroNat d.board.arrayClock (16 * s + c) / 8
/-- The array clocks after one tick. -/
def arrayClockNext (d : Dev) : Sparse Nat :=
  (List.range 64).foldl (fun m i =>
    sput zeroNat m i (sget zeroNat m i + (if clockHalved d (i / 16) (i % 16) then 1 else 2) * clusterFreq d (i / 16) (i % 16))) d.board.arrayClock
/-- The count of a page's own clock. -/
def pageCycles (d : Dev) (a : Nat) : Nat :=
  match pageAt a with
  | none => 0
  | some l =>
    match l.typ with
    | .base | .mgr | .seal | .opteng | .addrbook | .die => 2 * d.clock
    | .hostlink | .hdma => 5 * d.clock
    | .cluster => arrayCycles d l.site l.inst
    | .core => arrayCycles d l.site (l.inst / 8)
    | .d2d => 10 * d.clock
    | .hbmc => 8 * d.clock
    | _ => 9 * d.clock

/-! ## Trace (R514, R515) -/

def traceSlots : Nat := 262144
def localCount (d : Dev) (s : Nat) : Nat := 9 * (d.clock - sget zeroNat d.board.releasedAt s)

/-- Write a trace entry of a die when its kind is enabled; MARK (kind 5) is always written. In STOP mode a full buffer
drops it. A fenced TRACE page writes none (R522). -/
def traceWrite (d : Dev) (s : Nat) (kind typ inst code seq data : Nat) : Dev :=
  let a := pgTrace s
  let cfg := regN d (a + 0x800)
  if (kind ≠ 5 ∧ !tbit cfg (if kind = 6 then 5 else kind)) ∨ ownState d a = stFenced then d
  else
    let wr := regN d (a + 0x820)
    let full := fld (wr + 2 ^ 32 - regN d (a + 0x824)) 0 32 = traceSlots
    if full ∧ tbit cfg 0 then incSat d (a + 0x828)
    else
      let e : TraceEntry := ⟨BitVec.ofNat 64 (localCount d s), BitVec.ofNat 32 wr, BitVec.ofNat 16 typ,
        BitVec.ofNat 12 inst, BitVec.ofNat 8 kind, BitVec.ofNat 16 code, BitVec.ofNat 32 seq, BitVec.ofNat 64 data⟩
      let d := { d with trace := sput traceDefault d.trace (traceSlots * s + wr % traceSlots) e }
      let d := if full then setRegN d (a + 0x824) (regN d (a + 0x824) + 1) else d
      setRegN d (a + 0x820) (wr + 1)

/-- A trace entry that a page of a die causes; base pages have no trace (R515). -/
def tracePage (d : Dev) (a kind code seq data : Nat) : Dev :=
  match pageAt a with
  | none => d
  | some l => if l.inBase then d else traceWrite d l.site kind l.typ.code l.inst code seq data

/-! ## Event counters (R503 to R508) -/

def evcnt (d : Dev) (a n : Nat) : Nat := reg64 d (a + oEvcnt + 8 * n)
def frozen (d : Dev) (a : Nat) : Bool := tbit (regN d (a + oEvctl)) 18

/-- A wrap of counter n: OVF sets, FREEZE_OVF freezes all eight, a COUNTER entry is written (R508, R515). -/
def counterWrapped (d : Dev) (a n : Nat) : Dev :=
  let c := regN d (a + oEvctl)
  let c := setBit c (24 + n) true
  let d := setRegN d (a + oEvctl) (if tbit c 19 then setBit c 18 true else c)
  irqUpdate (tracePage d a 4 n 0 (evcnt d a n)) a

/-- Add `k` to counter n, modulo 2^48. -/
def counterAdd (d : Dev) (a n k : Nat) : Dev :=
  let v := evcnt d a n + k
  let d := setReg64 d (a + oEvcnt + 8 * n) (v % 2 ^ 48)
  if v < 2 ^ 48 then d else counterWrapped d a n

/-- Whether counter n of a page counts source `src` of instance `inst` (R503 to R507). -/
def counts (d : Dev) (a n src inst : Nat) : Bool :=
  let sel := regN d (a + oEvsel + 4 * n)
  tbit (regN d (a + oEvctl)) n && fld sel 0 16 == src && (!tbit sel 24 || fld sel 16 8 == inst)

/-- `k` events of a source on a page. A frozen or fenced page counts none (R505, R507). -/
def countEvt (d : Dev) (a src inst k : Nat) : Dev :=
  if regN d (a + oEvctl) = 0 ∨ frozen d a ∨ ownState d a = stFenced then d
  else (List.range 8).foldl (fun d n => if counts d a n src inst then counterAdd d a n k else d) d

/-! ## Commits (R55 to R58) -/

def commitPending (d : Dev) (a : Nat) : Bool := (sget noCommit d.commits a).isSome
/-- End the pending commit of a page with a status and an OFFSET; GENERATION stays (R56, R57). -/
def commitEnd (d : Dev) (a status off : Nat) : Dev :=
  let d := { d with commits := sput noCommit d.commits a none }
  let cs := regN d (a + oCommitStat)
  let d := setRegN d (a + oCommitStat) (setFld (setFld cs 0 4 status) 4 12 off)
  if status = 0 then d else if status = 1 then d else countEvt d a 0x0005 0 1

/-! ## Moving a block between states -/

/-- Move a page's block to a state; a change writes a STATE entry (R515). A page that becomes FENCED drops
FENCE_REQ and its pending commit, with code 3 (R47, R58). -/
def setState (d : Dev) (a st : Nat) : Dev :=
  let old := ownState d a
  let d := setRegN d (a + oState) (st + 1)
  let d := if old = st then d else tracePage d a 3 st 0 0
  if st = stFenced then
    let d := setCtrl d a (setBit (pageCtrl d a) 2 false)
    if commitPending d a then commitEnd d a 3 0 else d
  else d

/-- A STARTING that succeeds: RUNNING, and at once DRAINING where ENABLE reads 0 (R48). -/
def enterRunning (d : Dev) (a : Nat) : Dev :=
  let d := setState d a stRunning
  if tbit (pageCtrl d a) 0 then d else setState d a stDraining

/-! ## Recording an error (R50, R51, R467, R471) -/

/-- The BLOCK_ERR bit of a code on a page type (R467, R469). -/
def blockErrBit (t : PageType) (code : Nat) : Option Nat :=
  if t = .hbmc then none
  else if 0x100 ≤ code ∧ code ≤ 0x117 then some (8 + (code - 0x100))
  else if t = .d2d ∧ code = 0x120 then some 14
  else if t = .sorter ∧ code = 0x124 then some 12
  else none

/-- An error goes into ERR_FIRST where the page holds none, or where the one it holds arose in this same command, as in one cycle, with a
lower class, or with the same class and a higher code (R51). (DEDUCED, log entry 15) -/
def takesFirst (d : Dev) (a cls code : Nat) : Bool :=
  let first := regN d (a + oErrFirst)
  decide (2 ≤ cls) && (first == 0 || (d.fresh.contains a && decide (first / 0x1000 < cls ∨ (first / 0x1000 = cls ∧ code < first % 0x1000))))
/-- The registers of an error's page: ERR_STAT, ERR_FIRST and its context, LOST, ERR_CCOUNT (R50, R51). -/
def errRegs (d : Dev) (l : PageLoc) (a cls code i0 i1 : Nat) : Dev :=
  let st := setBit (regN d (a + oErrStat)) (cls - 1) true
  let st := match blockErrBit l.typ code with | some b => setBit st b true | none => st
  let held := regN d (a + oErrFirst) ≠ 0
  let st := if 2 ≤ cls ∧ held then setBit st 4 true else st
  let takes := takesFirst d a cls code
  let d := setRegN d (a + oErrStat) st
  let d := if takes then
      setRegN (setRegN (setRegN { d with fresh := a :: d.fresh } (a + oErrFirst) (0x1000 * cls + code)) (a + oInfo0) i0) (a + oInfo1) i1
    else d
  if cls = 1 then incSat d (a + oCcount) else d
/-- The twin unit counts the errors of class C and D: dies 0 to 3, the base 4 (R451). -/
def twinCount (d : Dev) (l : PageLoc) (cls : Nat) : Dev :=
  let k := if l.inBase then 4 else l.site
  if cls ≤ 2 then { d with twin := { d.twin with events := sput zeroNat d.twin.events k (sget zeroNat d.twin.events k + 1) } } else d
/-- An error of a final class, as its page records it: ERR_STAT, the first of class D or higher, LOST, ERR_CCOUNT, the twin
unit's counts of C and D (R451), the event counters (R510), the trace and the line. -/
def recordErr (d : Dev) (a cls code i0 i1 : Nat) : Dev :=
  match pageAt a with
  | none => d
  | some l =>
    let d := twinCount (errRegs d l a cls code i0 i1) l cls
    let d := if cls ≤ 3 then countEvt d a (0x10 + (cls - 1)) 0 1 else d
    irqUpdate (tracePage d a 1 (0x1000 * cls + code) i1 i0) a

end Sys2Proof.Machine
end

