-- ==== Sys2Proof/Machine/Crc.lean ====
section
/-!
DEFINITION. The check values of the package (R369, R370): CRC-32C, CRC-32 and CRC-64/ECMA-182 over a byte sequence.
-/
namespace Sys2Proof.Machine

/-- `n` bit steps of a reflected CRC. -/
def crcReflBits (poly : Nat) : Nat → Nat → Nat
  | 0, c => c
  | n + 1, c => crcReflBits poly n (if c % 2 = 1 then c / 2 ^^^ poly else c / 2)
/-- A reflected 32-bit CRC, `poly` already reversed. -/
def crcRefl (poly init : Nat) (bs : List Byte) : Nat :=
  (bs.foldl (fun c b => crcReflBits poly 8 (c ^^^ b.toNat)) init) ^^^ 0xFFFFFFFF
/-- `n` bit steps of an unreflected 64-bit CRC. -/
def crc64Bits (poly : Nat) : Nat → Nat → Nat
  | 0, c => c
  | n + 1, c => crc64Bits poly n (if 2 ^ 63 ≤ c then (2 * c % 2 ^ 64) ^^^ poly else 2 * c)

/-- CRC-32C: 0x1EDC6F41 reversed. -/
def crc32c (bs : List Byte) : Nat := crcRefl 0x82F63B78 0xFFFFFFFF bs
/-- CRC-32 of IEEE 802.3: 0x04C11DB7 reversed. -/
def crc32 (bs : List Byte) : Nat := crcRefl 0xEDB88320 0xFFFFFFFF bs
/-- CRC-64/ECMA-182. -/
def crc64 (bs : List Byte) : Nat := bs.foldl (fun c b => crc64Bits 0x42F0E1EBA9EA3693 8 (c ^^^ b.toNat * 2 ^ 56)) 0

/-- The check of a POLY code; code 3 is invalid and has no check (R369). -/
def checkOf (poly : Nat) (bs : List Byte) : Nat :=
  if poly = 0 then crc32c bs else if poly = 1 then crc32 bs else if poly = 2 then crc64 bs else 0
/-- The width of a check in bits. -/
def checkWidth (poly : Nat) : Nat := if poly = 2 then 64 else 32
/-- A check with every bit inverted (R379). -/
def checkInvert (poly c : Nat) : Nat := 2 ^ checkWidth poly - 1 - c

end Sys2Proof.Machine
end

