-- ==== Sys2Proof/Machine/Crypto.lean ====
section
/-!
DEFINITION. The algorithms that R122 names, as their standards define them (PRESUMED, log entry 3): SM3 (GB/T 32905), HMAC of RFC 2104
with SM3, SM4 (GB/T 32907) in GCM mode with 96-bit initialisation vectors and 128-bit tags, SM2 on the curve of GB/T 32918 part 5
(signatures with the default distinguishing identifier, key exchange, public-key encryption). Byte strings stand in the order of R123.
-/
namespace Sys2Proof.Machine

/-- `f x`, with the number `x` evaluated first: without it an evaluator would carry the whole computation of `x` along. -/
def strict {α : Type} (x : Nat) (f : Nat → α) : α :=
  match x with
  | 0 => f 0
  | n + 1 => f (n + 1)
theorem strict_eq {α : Type} (x : Nat) (f : Nat → α) : strict x f = f x := by cases x <;> rfl

/-- The number that bytes hold, the first one most significant, added behind `acc`. -/
def beFrom : Nat → List Byte → Nat
  | acc, [] => acc
  | acc, b :: bs => strict (Nat.add (Nat.shiftLeft acc 8) b.toNat) (fun a => beFrom a bs)
/-- The big-endian number that bytes hold. -/
def ofBytesBE (bs : List Byte) : Nat := beFrom 0 bs
/-- The `n` big-endian bytes of a number. -/
def toBytesBE : Nat → Nat → List Byte
  | 0, _ => []
  | n + 1, x => strict (Nat.land (Nat.shiftRight x (8 * n)) 255) (BitVec.ofNat 8) :: toBytesBE n x
/-- The bytes of an ASCII text. -/
def ascii (l : List Nat) : List Byte := l.map (BitVec.ofNat 8)
/-- The bytes of a digest, byte 0 first. -/
def digestBytes (x : Digest) : List Byte := toBytes 32 x.toNat
/-- A digest from its bytes. -/
def digestOf (bs : List Byte) : Digest := BitVec.ofNat 256 (ofBytes bs)
/-- Two byte strings of one length, bit by bit. -/
def xorBytes (a b : List Byte) : List Byte := List.zipWith (· ^^^ ·) a b

/-! The word operations name the functions of Nat that the kernel computes with, so that a digest or a tag can be checked by evaluation. -/

/-! ## SM3 -/

def rot32 (x k : Nat) : Nat := Nat.land (Nat.lor (Nat.shiftLeft x k) (Nat.shiftRight x (Nat.sub 32 k))) 0xFFFFFFFF
/-- The XOR of three numbers. -/
def xor3 (a b c : Nat) : Nat := Nat.xor a (Nat.xor b c)
def sm3P0 (x : Nat) : Nat := xor3 x (rot32 x 9) (rot32 x 17)
def sm3P1 (x : Nat) : Nat := xor3 x (rot32 x 15) (rot32 x 23)
/-- The sum of four words modulo 2^32. -/
def add4 (a b c d : Nat) : Nat := Nat.land (Nat.add (Nat.add a b) (Nat.add c d)) 0xFFFFFFFF
/-- `n` further message words behind the sixteen latest ones. -/
def sm3Extend : Nat → List Nat → List Nat
  | n + 1, w0 :: w1 :: w2 :: w3 :: w4 :: w5 :: w6 :: w7 :: w8 :: w9 :: w10 :: w11 :: w12 :: w13 :: w14 :: w15 :: _ =>
    w0 :: strict (xor3 w0 w7 (rot32 w13 15)) (fun t => strict (xor3 (sm3P1 t) (rot32 w3 7) w10) (fun x =>
      sm3Extend n [w1, w2, w3, w4, w5, w6, w7, w8, w9, w10, w11, w12, w13, w14, w15, x]))
  | _, w => w
/-- The rounds from number `j` on over words W j, W (j + 1), …; the four last words have no round. -/
def sm3Rounds : Nat → List Nat → Nat → Nat → Nat → Nat → Nat → Nat → Nat → Nat → List Nat
  | j, w :: w1 :: w2 :: w3 :: w4 :: ws, a, b, c, d, e, f, g, h =>
    strict (rot32 a 12) (fun a12 =>
    strict (rot32 (add4 a12 e (rot32 (match Nat.blt j 16 with | true => 0x79CC4519 | false => 0x7A879D8A) (Nat.land j 31)) 0) 7) (fun ss1 =>
    strict (add4 (match Nat.blt j 16 with
        | true => xor3 a b c
        | false => Nat.lor (Nat.land a b) (Nat.land c (Nat.lor a b))) d (Nat.xor ss1 a12) (Nat.xor w w4)) (fun tt1 =>
    strict (sm3P0 (add4 (match Nat.blt j 16 with
        | true => xor3 e f g
        | false => Nat.xor g (Nat.land e (Nat.xor f g))) h ss1 w)) (fun tt2 =>
    strict (rot32 b 9) (fun c' => strict (rot32 f 19) (fun g' => strict (Nat.succ j) (fun j' =>
      sm3Rounds j' (w1 :: w2 :: w3 :: w4 :: ws) tt1 a c' c tt2 e g' g)))))))
  | _, _, a, b, c, d, e, f, g, h => [a, b, c, d, e, f, g, h]
/-- The sixteen big-endian words of a block. -/
def wordsBE : Nat → List Byte → List Nat
  | 0, _ => []
  | n + 1, bs => strict (ofBytesBE (bs.take 4)) (fun x => x :: wordsBE n (bs.drop 4))
/-- Each word XORed with the one before the block. -/
def sm3Mix : List Nat → List Nat → List Nat
  | x :: xs, y :: ys => strict (Nat.xor x y) (fun z => z :: sm3Mix xs ys)
  | _, _ => []
def sm3Block (v : List Nat) (block : List Byte) : List Nat :=
  let w := sm3Extend 52 (wordsBE 16 block)
  let g (i : Nat) : Nat := v.getD i 0
  sm3Mix (sm3Rounds 0 w (g 0) (g 1) (g 2) (g 3) (g 4) (g 5) (g 6) (g 7)) v
/-- `n` blocks of 64 bytes. -/
def sm3Blocks : Nat → List Nat → List Byte → List Nat
  | 0, v, _ => v
  | n + 1, v, bs => sm3Blocks n (sm3Block v (bs.take 64)) (bs.drop 64)
/-- The initial value. -/
def sm3Init : List Nat :=
  [0x7380166F, 0x4914B2B9, 0x172442D7, 0xDA8A0600, 0xA96F30BC, 0x163138AA, 0xE38DEE4D, 0xB0FB0E4E]
/-- The 32 bytes of the SM3 digest. -/
def sm3Bytes (bs : List Byte) : List Byte :=
  let n := bs.length
  let pad := bs ++ [0x80] ++ List.replicate ((119 - n % 64) % 64) 0 ++ toBytesBE 8 (8 * n)
  (sm3Blocks ((n + 72) / 64) sm3Init pad).flatMap (toBytesBE 4)
/-- SM3 (R122). -/
def sm3 (bs : List Byte) : Digest := digestOf (sm3Bytes bs)

/-- HMAC-SM3 (R122): a key of more than 64 bytes is hashed first. -/
def hmacSm3 (key msg : List Byte) : Digest :=
  let k := if 64 < key.length then sm3Bytes key else key
  let k := k ++ List.replicate (64 - k.length) 0
  sm3 (k.map (· ^^^ 0x5C) ++ sm3Bytes (k.map (· ^^^ 0x36) ++ msg))

/-! ## SM4 and GCM -/

/-- The S-box of SM4, 64 entries to a number, entry 0 in its lowest byte. -/
def sm4BoxA : Nat :=
  0xA63F8F75FA94DF8095E808C9A91CB3E462ACCFED430B54337A98EF91F450429C99068649261344AAC304BE2A769A672B052CFB28C214B616B73DE1CCFEE990D6
def sm4BoxB : Nat :=
  0x9EC8C4A0E702364C5227D39F574600D4877821013B7C2225A2D158635E0E241E359D56704B0FEBF88BDA6471B2816B68A84F85E6193C5983BA1773F3FCA70747
def sm4BoxC : Nat :=
  0x515B6C6D726AFF032F8EFDDE4537DBD56F4E530DAB2329C060CA66822EE2F61DE3B18CF5303293AD551A349BA45DAEE0A11561F9CEF2F7A3B538C740D28ABFEA
def sm4BoxD : Nat :=
  0x4839CBD73E5FEE79204DDC3AEC7DF01884C66EC509F1B9657E77960C4A976989B0B4E5B812D0742DBD7BCDA58831C10AD85A101F415CD9117FBCDDBB92AF1B8D
def sm4Box (x : Nat) : Nat :=
  Nat.land (Nat.shiftRight
    (match Nat.shiftRight x 6 with
     | 0 => sm4BoxA
     | 1 => sm4BoxB
     | 2 => sm4BoxC
     | _ => sm4BoxD) (Nat.shiftLeft (Nat.land x 63) 3)) 255
/-- The S-box on each byte of a word. -/
def sm4Tau (x : Nat) : Nat :=
  Nat.add (Nat.add (sm4Box (Nat.land x 255)) (Nat.shiftLeft (sm4Box (Nat.land (Nat.shiftRight x 8) 255)) 8))
    (Nat.add (Nat.shiftLeft (sm4Box (Nat.land (Nat.shiftRight x 16) 255)) 16) (Nat.shiftLeft (sm4Box (Nat.shiftRight x 24)) 24))
def sm4L (x : Nat) : Nat := xor3 x (rot32 x 2) (xor3 (rot32 x 10) (rot32 x 18) (rot32 x 24))
def sm4LKey (x : Nat) : Nat := xor3 x (rot32 x 13) (rot32 x 23)
/-- The constant CK of round `i`: byte `j` is 7 (4 i + j) modulo 256. -/
def sm4Ck (i : Nat) : Nat :=
  [0, 1, 2, 3].foldl (fun x j => 256 * x + 7 * (4 * i + j) % 256) 0
/-- `n` round keys from round `i` on. -/
def sm4Keys : Nat → Nat → Nat → Nat → Nat → Nat → List Nat
  | 0, _, _, _, _, _ => []
  | n + 1, i, a, b, c, d =>
    strict (Nat.xor b (xor3 c d (sm4Ck i))) (fun t => strict (sm4Tau t) (fun t => strict (Nat.xor a (sm4LKey t)) (fun k =>
      strict (Nat.succ i) (fun i => k :: sm4Keys n i b c d k))))
/-- The 32 round keys of a key, given as a big-endian number. -/
def sm4Schedule (key : Nat) : List Nat :=
  strict (Nat.xor (key / 2 ^ 96) 0xA3B1BAC6) (fun a => strict (Nat.xor (key / 2 ^ 64 % 2 ^ 32) 0x56AA3350) (fun b =>
    strict (Nat.xor (key / 2 ^ 32 % 2 ^ 32) 0x677D9197) (fun c => strict (Nat.xor (key % 2 ^ 32) 0xB27022DC) (fun d => sm4Keys 32 0 a b c d))))
def sm4Rounds : List Nat → Nat → Nat → Nat → Nat → Nat
  | [], a, b, c, d => d * 2 ^ 96 + c * 2 ^ 64 + b * 2 ^ 32 + a
  | k :: ks, a, b, c, d =>
    strict (Nat.xor b (xor3 c d k)) (fun t => strict (sm4Tau t) (fun t => strict (Nat.xor a (sm4L t)) (fun x => sm4Rounds ks b c d x)))
/-- One block under round keys, both big-endian numbers. -/
def sm4Encrypt (ks : List Nat) (x : Nat) : Nat :=
  strict (x / 2 ^ 96) (fun a => strict (x / 2 ^ 64 % 2 ^ 32) (fun b => strict (x / 2 ^ 32 % 2 ^ 32) (fun c => strict (x % 2 ^ 32) (fun d =>
    sm4Rounds ks a b c d))))

/-- Multiplication in the field of GCM, bit 0 of a block its most significant: `n` bits of `y` left, the next one at bit 127. -/
def gcmMulBits : Nat → Nat → Nat → Nat → Nat
  | 0, z, _, _ => z
  | n + 1, z, v, y =>
    strict (match Nat.land y 0x80000000000000000000000000000000 with
      | 0 => z
      | _ => Nat.xor z v) (fun z =>
    strict (match Nat.land v 1 with
      | 0 => Nat.shiftRight v 1
      | _ => Nat.xor (Nat.shiftRight v 1) 0xE1000000000000000000000000000000) (fun v =>
    strict (Nat.shiftLeft y 1) (fun y => gcmMulBits n z v y)))
def gcmMul (x y : Nat) : Nat := gcmMulBits 128 0 x y
/-- The block that at most 16 bytes begin, filled with zeros. -/
def blockOf (bs : List Byte) : Nat := strict bs.length (fun n => strict (ofBytesBE bs) (fun x => Nat.shiftLeft x (8 * (16 - n))))
/-- GHASH over `n` blocks of a byte string whose last block is filled with zeros. -/
def ghash (h : Nat) : Nat → Nat → List Byte → Nat
  | 0, acc, _ => acc
  | n + 1, acc, bs =>
    strict (blockOf (bs.take 16)) (fun x => strict (Nat.xor acc x) (fun x =>
      strict (gcmMul x h) (fun a => ghash h n a (bs.drop 16))))
/-- The key stream XORed onto `n` blocks, from counter `ctr` on. -/
def gcmStream (ks : List Nat) (j0 : Nat) : Nat → Nat → List Byte → List Byte
  | 0, _, _ => []
  | n + 1, ctr, bs =>
    strict (sm4Encrypt ks (j0 + ctr)) (fun x => strict (Nat.xor x (blockOf (bs.take 16))) (fun x =>
      (toBytesBE 16 x).take (bs.take 16).length)) ++ gcmStream ks j0 n (ctr + 1) (bs.drop 16)
/-- The tag of a ciphertext. -/
def gcmTag (ks : List Nat) (j0 : Nat) (aad c : List Byte) : List Byte :=
  strict (sm4Encrypt ks 0) (fun h => strict (ghash h (ceilDiv c.length 16) (ghash h (ceilDiv aad.length 16) 0 aad) c) (fun x =>
    strict (Nat.xor x (8 * aad.length * 2 ^ 64 + 8 * c.length)) (fun x => strict (gcmMul x h) (fun x =>
      strict (Nat.xor x (sm4Encrypt ks (j0 + 1))) (toBytesBE 16)))))
/-- The round keys of a key, and the counter block of an initialisation vector with its count at 0. Both hold byte 0 in bits 7:0. -/
def gcmKeys (key : Key) : List Nat := sm4Schedule (ofBytesBE (toBytes 16 key.toNat))
def gcmJ0 (iv : BitVec 96) : Nat := ofBytesBE (toBytes 12 iv.toNat) * 2 ^ 32
/-- SM4-GCM sealing (R122): ciphertext, then the tag. -/
def gcmSeal (key : Key) (iv : BitVec 96) (aad plain : List Byte) : List Byte :=
  let ks := gcmKeys key
  let c := gcmStream ks (gcmJ0 iv) (ceilDiv plain.length 16) 2 plain
  c ++ gcmTag ks (gcmJ0 iv) aad c
/-- SM4-GCM opening: the plaintext where the tag verifies. -/
def gcmOpen (key : Key) (iv : BitVec 96) (aad c tag : List Byte) : Option (List Byte) :=
  let ks := gcmKeys key
  if gcmTag ks (gcmJ0 iv) aad c = tag then some (gcmStream ks (gcmJ0 iv) (ceilDiv c.length 16) 2 c) else none

/-! ## The curve of SM2 -/

def sm2P : Nat := 0xFFFFFFFEFFFFFFFFFFFFFFFFFFFFFFFFFFFFFFFF00000000FFFFFFFFFFFFFFFF
def sm2A : Nat := 0xFFFFFFFEFFFFFFFFFFFFFFFFFFFFFFFFFFFFFFFF00000000FFFFFFFFFFFFFFFC
def sm2B : Nat := 0x28E9FA9E9D9F5E344D5A9E4BCF6509A7F39789F515AB8F92DDBCBD414D940E93
/-- The order of the curve: n of R131. -/
def sm2N : Nat := 0xFFFFFFFEFFFFFFFFFFFFFFFFFFFFFFFF7203DF6B21C6052B53BBF40939D54123
def sm2Gx : Nat := 0x32C4AE2C1F1981195F9904466A39C9948FE30BBFF2660BE1715A4589334C74C7
def sm2Gy : Nat := 0xBC3736A2F4F6779C59BDCEE36B692153D0A9877CC62A474002DF32E52139F0A0

/-- A point in Jacobian coordinates; the neutral one has z = 0. -/
structure Jac where
  x : Nat
  y : Nat
  z : Nat
  deriving DecidableEq, Repr
/-- An affine point of the curve. -/
structure Point where
  x : Nat
  y : Nat
  deriving DecidableEq, Repr

/-! The field operations name the functions of Nat that the kernel computes with, so that a signature can be checked by evaluation. -/

def mulP (a b : Nat) : Nat := Nat.mod (Nat.mul a b) sm2P
def addP (a b : Nat) : Nat := Nat.mod (Nat.add a b) sm2P
/-- A difference of two numbers below p. -/
def subP (a b : Nat) : Nat := Nat.mod (Nat.sub (Nat.add a sm2P) b) sm2P
/-- Twice a point (the curve has a = -3). -/
def jacDouble (q : Jac) : Jac :=
  strict (mulP q.z q.z) (fun delta => strict (mulP q.y q.y) (fun gamma => strict (mulP q.x gamma) (fun beta =>
    strict (mulP 3 (mulP (subP q.x delta) (addP q.x delta))) (fun alpha => strict (mulP 4 beta) (fun beta4 =>
      strict (subP (mulP alpha alpha) (addP beta4 beta4)) (fun x =>
        strict (subP (mulP alpha (subP beta4 x)) (mulP 8 (mulP gamma gamma))) (fun y =>
          strict (mulP 2 (mulP q.y q.z)) (fun z => ⟨x, y, z⟩))))))))
/-- The sum of two different points that are not opposite, or twice the point, or the neutral one. -/
def jacAdd (a b : Jac) : Jac :=
  if a.z = 0 then b else if b.z = 0 then a
  else
    strict (mulP a.z a.z) (fun z1 => strict (mulP b.z b.z) (fun z2 => strict (mulP a.x z2) (fun u1 => strict (mulP b.x z1) (fun u2 =>
      strict (mulP a.y (mulP b.z z2)) (fun s1 => strict (mulP b.y (mulP a.z z1)) (fun s2 =>
        if u1 = u2 then (if s1 = s2 then jacDouble a else ⟨1, 1, 0⟩)
        else
          strict (subP u2 u1) (fun h => strict (subP s2 s1) (fun r => strict (mulP h h) (fun h2 => strict (mulP h h2) (fun h3 =>
            strict (mulP u1 h2) (fun v => strict (subP (subP (mulP r r) h3) (addP v v)) (fun x =>
              strict (subP (mulP r (subP v x)) (mulP s1 h3)) (fun y => strict (mulP h (mulP a.z b.z)) (fun z => ⟨x, y, z⟩))))))))))))))
/-- `k` times a point, by the `n` low bits of `k` from the highest on. -/
def jacMul (k : Nat) (q : Jac) : Nat → Jac → Jac
  | 0, acc => acc
  | n + 1, acc => jacMul k q n (if Nat.testBit k n then jacAdd (jacDouble acc) q else jacDouble acc)
def sm2Mul (k : Nat) (p : Point) : Jac := jacMul k ⟨p.x, p.y, 1⟩ 256 ⟨1, 1, 0⟩
def sm2G : Point := ⟨sm2Gx, sm2Gy⟩
/-- `k` times one point and `m` times another, in one pass; `both` is their sum. -/
def jacMul2 (k m : Nat) (p q both : Jac) : Nat → Jac → Jac
  | 0, acc => acc
  | n + 1, acc => jacMul2 k m p q both n
      (match Nat.testBit k n, Nat.testBit m n with
       | false, false => jacDouble acc
       | true, false => jacAdd (jacDouble acc) p
       | false, true => jacAdd (jacDouble acc) q
       | true, true => jacAdd (jacDouble acc) both)
def sm2Mul2 (k m : Nat) (p q : Point) : Jac :=
  jacMul2 k m ⟨p.x, p.y, 1⟩ ⟨q.x, q.y, 1⟩ (jacAdd ⟨p.x, p.y, 1⟩ ⟨q.x, q.y, 1⟩) 256 ⟨1, 1, 0⟩
/-- `b` to the power `e` modulo `m`, by the `n` low bits of `e`. -/
def powMod (m b e : Nat) : Nat → Nat → Nat
  | 0, acc => acc
  | n + 1, acc => strict (if e / 2 ^ n % 2 = 1 then acc * acc % m * b % m else acc * acc % m) (fun a => powMod m b e n a)
/-- The inverse modulo a prime. -/
def invMod (m x : Nat) : Nat := powMod m x (m - 2) 256 1
/-- The affine point; none for the neutral one. -/
def affine (q : Jac) : Option Point :=
  if q.z = 0 then none
  else strict (invMod sm2P q.z) (fun i => strict (q.x * i % sm2P * i % sm2P) (fun x =>
    strict (q.y * i % sm2P * i % sm2P * i % sm2P) (fun y => some ⟨x, y⟩)))
/-- The point lies on the curve. -/
def onCurve (p : Point) : Bool :=
  decide (p.x < sm2P) && decide (p.y < sm2P) && p.y * p.y % sm2P == (p.x * p.x % sm2P * p.x + sm2A * p.x + sm2B) % sm2P

/-- The 64 bytes x ‖ y (R123). -/
def pointBytes (p : Point) : List Byte := toBytesBE 32 p.x ++ toBytesBE 32 p.y
/-- The point that 64 bytes hold. -/
def pointOf (bs : List Byte) : Point := ⟨ofBytesBE (bs.take 32), ofBytesBE ((bs.drop 32).take 32)⟩
/-- The 65 bytes of an uncompressed point (R135, R139), and the point they hold. -/
def point65 (p : Point) : List Byte := 4 :: pointBytes p
def pointOf65 (bs : List Byte) : Option Point :=
  if bs.length = 65 ∧ bs.head? = some 4 ∧ onCurve (pointOf bs.tail) then some (pointOf bs.tail) else none

/-! ## SM2 keys and signatures (R122, R123, R131) -/

/-- The private key of a seed (R131). -/
def sm2Private (seed : Digest) : Nat := ofBytesBE (digestBytes seed) % (sm2N - 1) + 1
/-- The public key of a private key. -/
def sm2Public (priv : Nat) : Point := (affine (sm2Mul priv sm2G)).getD ⟨0, 0⟩
/-- The digest of a public key (R123). -/
def keyDigest (p : Point) : Digest := sm3 (pointBytes p)
/-- The default distinguishing identifier 1234567812345678. -/
def sm2Id : List Byte := ascii [49, 50, 51, 52, 53, 54, 55, 56, 49, 50, 51, 52, 53, 54, 55, 56]
/-- The digest Z of a signer: identifier, curve and public key. -/
def sm2Z (p : Point) : List Byte :=
  sm3Bytes (toBytesBE 2 (8 * sm2Id.length) ++ sm2Id ++ toBytesBE 32 sm2A ++ toBytesBE 32 sm2B ++ pointBytes sm2G ++ pointBytes p)
/-- The number that is signed for a message. -/
def sm2E (p : Point) (msg : List Byte) : Nat := ofBytesBE (sm3Bytes (sm2Z p ++ msg))
/-- The signature r ‖ s of a message under a private key, with the random number `k` of the standard. -/
def sm2Sign (priv k : Nat) (msg : List Byte) : List Byte :=
  let r := (sm2E (sm2Public priv) msg + (sm2Public k).x) % sm2N
  let s := invMod sm2N (1 + priv) * (k + sm2N * sm2N - r * priv) % sm2N
  toBytesBE 32 r ++ toBytesBE 32 s
/-- Whether a signature r ‖ s of a message verifies under a public key. -/
def sm2Verify (p : Point) (msg sig : List Byte) : Bool :=
  strict (ofBytesBE (sig.take 32)) (fun r => strict (ofBytesBE (sig.drop 32)) (fun s => strict ((r + s) % sm2N) (fun t =>
    onCurve p && sig.length == 64 && decide (0 < r) && decide (r < sm2N) && decide (0 < s) && decide (s < sm2N) && t != 0 &&
    (match affine (sm2Mul2 s t sm2G p) with
     | some q => (sm2E p msg + q.x) % sm2N == r
     | none => false))))

/-! ## SM2 encryption and key exchange -/

/-- `n` bytes of the key derivation function, from block `i` on. -/
def sm2KdfFrom (z : List Byte) : Nat → Nat → List Byte
  | 0, _ => []
  | n + 1, i => sm3Bytes (z ++ toBytesBE 4 i) ++ sm2KdfFrom z n (i + 1)
def sm2Kdf (z : List Byte) (n : Nat) : List Byte := (sm2KdfFrom z (ceilDiv n 32) 1).take n
/-- Decryption of C1 ‖ C3 ‖ C2 under a private key. -/
def sm2Decrypt (priv : Nat) (c : List Byte) : Option (List Byte) :=
  match pointOf65 (c.take 65) with
  | none => none
  | some c1 =>
    match affine (sm2Mul priv c1) with
    | none => none
    | some q =>
      let c2 := c.drop 97
      let m := xorBytes c2 (sm2Kdf (pointBytes q) c2.length)
      if sm3Bytes (toBytesBE 32 q.x ++ m ++ toBytesBE 32 q.y) = (c.drop 65).take 32 then some m else none

/-- What both sides of a key exchange share: the point, and the digests of the initiator and the responder. -/
def kexHalf (x : Nat) : Nat := 2 ^ 127 + x % 2 ^ 127
/-- The shared point: own static and ephemeral private keys, the peer's static and ephemeral public keys. -/
def kexPoint (priv eph : Nat) (peer peerEph : Point) : Option Point :=
  let t := (priv + kexHalf (sm2Public eph).x * eph) % sm2N
  match affine (jacAdd ⟨peer.x, peer.y, 1⟩ (sm2Mul (kexHalf peerEph.x) peerEph)) with
  | none => none
  | some q => affine (sm2Mul t q)
/-- The `n` bytes K of the exchange; `a` is the initiator's static key, `b` the responder's. -/
def kexKey (v a b : Point) (n : Nat) : List Byte := sm2Kdf (pointBytes v ++ sm2Z a ++ sm2Z b) n
/-- A confirmation value: tag 2 is the responder's, 3 the initiator's; `ra` and `rb` are the ephemeral points. -/
def kexConfirm (tag : Byte) (v a b ra rb : Point) : List Byte :=
  sm3Bytes (tag :: toBytesBE 32 v.y ++ sm3Bytes (toBytesBE 32 v.x ++ sm2Z a ++ sm2Z b ++ pointBytes ra ++ pointBytes rb))

end Sys2Proof.Machine
end

