-- ==== Sys2Proof/Machine/Fec.lean ====
section
/-!
DEFINITION. The frames of a fabric port (R333 to R335): the two interleaved Reed-Solomon codes RS(136,128) over GF(2^8), and the PAM4
symbols of a frame on the lanes of its port. A codeword is the list of its 136 bytes, the first one the coefficient of x^135 (DEDUCED,
log entry 54).
-/
namespace Sys2Proof.Machine

/-! ## GF(2^8) of x^8 + x^4 + x^3 + x^2 + 1 -/

/-- Times α. -/
def gbDouble (a : Nat) : Nat := if a < 128 then 2 * a else (2 * a) ^^^ 0x11D
/-- A product, by the `n` low bits of the second factor. -/
def gbMulFrom (a : Nat) : Nat → Nat → Nat
  | 0, _ => 0
  | n + 1, b => (if b % 2 = 1 then a else 0) ^^^ gbDouble (gbMulFrom a n (b / 2))
def gbMul (a b : Nat) : Nat := gbMulFrom a 8 b
/-- The inverse: a to the power 254, the product of its squarings 1 to 7. -/
def gbInvFrom (a acc : Nat) : Nat → Nat
  | 0 => acc
  | n + 1 => gbInvFrom (gbMul a a) (gbMul acc (gbMul a a)) n
def gbInv (a : Nat) : Nat := gbInvFrom a 1 7
/-- `n` times times α. -/
def gbShift (a : Nat) : Nat → Nat
  | 0 => a
  | n + 1 => gbShift (gbDouble a) n

/-! ## Polynomials: a list of coefficients, the constant one first -/

def polyEval (p : List Nat) (x : Nat) : Nat := p.foldr (fun c acc => c ^^^ gbMul acc x) 0
def polyAdd (p q : List Nat) : List Nat := (List.range (max p.length q.length)).map (fun i => p.getD i 0 ^^^ q.getD i 0)
def polyScale (c : Nat) (p : List Nat) : List Nat := p.map (gbMul c)
def polyMul (p q : List Nat) : List Nat := q.foldr (fun c acc => polyAdd (polyScale c p) (0 :: acc)) []
/-- The generator: the product of x + α^0 to x + α^7. -/
def fecGen : List Nat := (List.range 8).foldl (fun g i => polyMul g [gbShift 1 i, 1]) [1]

/-! ## Parity -/

/-- The low eight coefficients of α^j times the generator, the highest one in the top byte. -/
def fecRow (j : Nat) : Nat := (List.range 8).foldl (fun n i => n * 256 + gbMul (gbShift 1 j) (fecGen.getD (7 - i) 0)) 0
/-- The rows 0 to 7, written out. -/
def fecRows : List Nat :=
  [0xFF0B5136EFADC818, 0xE316A26CC3478D30, 0xDB2C59D89B8E0760, 0xAB58B2AD2B010EC0, 0x4BB0794756021C9D, 0x967DF28EAC043827, 0x31FAF9014508704E,
   0x62E9EF028A10E09C]
/-- What a byte shifted out of the remainder adds to it. -/
def fecFeed (b : Nat) : Nat := (List.range 8).foldl (fun n j => if tbit b j then n ^^^ fecRows.getD j 0 else n) 0
/-- The remainder of a message times x^8 by the generator, eight bytes in a number. -/
def fecRemainder (msg : List Nat) : Nat := msg.foldl (fun r b => (r % 2 ^ 56 * 256) ^^^ fecFeed (r / 2 ^ 56 ^^^ b)) 0
/-- The eight parity bytes of 128 bytes. -/
def fecParity (msg : List Nat) : List Nat := let r := fecRemainder msg; (List.range 8).map (fun i => fld r (56 - 8 * i) 8)

/-! ## Correction of up to four bytes -/

/-- The syndromes of a codeword. -/
def fecSyndromes (cw : List Nat) : List Nat := (List.range 8).map (fun j => cw.foldl (fun s c => gbShift s j ^^^ c) 0)
/-- The state of the search for the locator: locator, its copy, its length, steps since the copy, the copy's discrepancy. -/
structure FecLoc where
  loc  : List Nat
  old  : List Nat
  len  : Nat
  gap  : Nat
  disc : Nat
  deriving DecidableEq, Repr
/-- One step of Berlekamp and Massey for syndrome n. -/
def fecStep (syn : List Nat) (x : FecLoc) (n : Nat) : FecLoc :=
  let delta := (List.range (x.len + 1)).foldl (fun acc i => acc ^^^ gbMul (x.loc.getD i 0) (syn.getD (n - i) 0)) 0
  if delta = 0 then { x with gap := x.gap + 1 }
  else
    let next := polyAdd x.loc (List.replicate x.gap 0 ++ polyScale (gbMul delta (gbInv x.disc)) x.old)
    if 2 * x.len ≤ n then { loc := next, old := x.loc, len := n + 1 - x.len, gap := 1, disc := delta }
    else { x with loc := next, gap := x.gap + 1 }
def fecLocator (syn : List Nat) : FecLoc := (List.range 8).foldl (fecStep syn) ⟨[1], [1], 0, 1, 1⟩
/-- The error at a place whose locator is X = α^e, by Forney's formula. -/
def fecError (syn loc : List Nat) (e : Nat) : Nat :=
  let xi := gbShift 1 (255 - e)
  let omega := (polyMul syn loc).take 8
  let deriv := (List.range loc.length).map (fun i => if i % 2 = 0 then loc.getD (i + 1) 0 else 0)
  gbMul (gbShift 1 e) (gbMul (polyEval omega xi) (gbInv (polyEval deriv xi)))
/-- A codeword corrected, and how many bytes were wrong; none beyond correction. -/
def fecDecode (cw : List Nat) : Option (List Nat × Nat) :=
  let syn := fecSyndromes cw
  if syn.all (· == 0) then some (cw, 0)
  else
    let x := fecLocator syn
    let places := (List.range 136).filter (fun e => polyEval x.loc (gbShift 1 (255 - e)) == 0)
    let fixed := (List.range 136).map (fun i => if places.contains (135 - i) then cw.getD i 0 ^^^ fecError syn x.loc (135 - i) else cw.getD i 0)
    if 4 < x.len ∨ places.length ≠ x.len ∨ !(fecSyndromes fixed).all (· == 0) then none else some (fixed, x.len)

/-! ## Frames -/

/-- Every second entry of a list, from the first on. -/
def everySecond {α : Type} : List α → List α
  | [] => []
  | [a] => [a]
  | a :: _ :: l => a :: everySecond l
/-- Two lists of one length in turn. -/
def inTurn {α : Type} : List α → List α → List α
  | a :: l, b :: m => a :: b :: inTurn l m
  | l, _ => l
/-- The 16 bytes of error correction of a flit (R334). -/
def frameParity (flit : List Byte) : List Byte :=
  let bs := flit.map (·.toNat)
  (inTurn (fecParity (everySecond bs)) (fecParity (everySecond bs.tail))).map (BitVec.ofNat 8)
/-- The flit of a frame and the bytes corrected; none where a codeword is beyond correction. -/
def frameDecode (frame : List Byte) : Option (List Byte × Nat) :=
  let bs := frame.map (·.toNat)
  match fecDecode (everySecond bs), fecDecode (everySecond bs.tail) with
  | some a, some b => some (((inTurn a.1 b.1).take 256).map (BitVec.ofNat 8), a.2 + b.2)
  | _, _ => none

/-- The level of a pair of bits (R335). -/
def pamLevel (x : Nat) : Nat := if x = 2 then 3 else if x = 3 then 2 else x
/-- The four symbols of a byte, bits 1:0 first. -/
def pamByte (b : Byte) : List Nat := (List.range 4).map (fun i => pamLevel (fld b.toNat (2 * i) 2))
/-- The symbols of a frame on each lane in use: four lanes, or the active pair (R335). -/
def frameLanes (width : Nat) (upper : Bool) (frame : List Byte) : LaneBits :=
  let n := if width = 2 then 2 else 4
  (List.range n).map (fun x =>
    (x + (if width = 2 ∧ upper then 2 else 0), (List.range (frame.length / n)).flatMap (fun i => pamByte (frame.getD (n * i + x) 0))))

end Sys2Proof.Machine
end

