-- ==== Sys2Proof/Machine/Errors.lean ====
section
/-!
DEFINITION. Raising an error (chapter 17): which codes are counted (R468, R469), the escalation of counted faults
(R472, R473, R475), a fault during a recovery or a die fencing (R476, R477), and what a class F takes out of service
(R522). A fence or a halt that an error asks for is carried out at the end of the command (Machine/Fence.lean).
-/
namespace Sys2Proof.Machine

/-- The codes that take part in escalation (R468, R469), by page type and code within the type. -/
def counted (t : PageType) (code : Nat) : Bool :=
  code == 0x001 || code == 0x004 ||
  match t with
  | .base => code == 0x103
  | .hostlink => code == 0x101 || code == 0x103
  | .hdma => code == 0x101
  | .opteng => code == 0x100 || code == 0x102
  | .addrbook => code == 0x100 || code == 0x101
  | .die => code == 0x105 || code == 0x106
  | .cluster => code == 0x100 || code == 0x101
  | .core => code == 0x109 || code == 0x10A
  | .pmc => code == 0x100
  | .port | .twin => code == 0x100 || code == 0x101 || code == 0x103 || code == 0x106
  | .d2d => code == 0x100 || code == 0x103 || code == 0x104
  | .hbmc => code == 0x100 || code == 0x101 || code == 0x102
  | .slane => code == 0x100
  | .postmark => code == 0x100 || code == 0x102
  | .trace => code == 0x100 || code == 0x101
  | .agemon => code == 0x101
  | _ => false

/-- How many units' records a page keeps at once (R472, R297); 0 for pages whose units are a fixed set. -/
def recordLimit (t : PageType) : Nat :=
  match t with
  | .hbmc => 64
  | .cluster | .core | .trace => 16
  | _ => 0

/-- The key of a unit's escalation record on a page. -/
def escKey (a unit : Nat) : Nat := a * 2 ^ 40 + unit

/-- Remember a unit among the last ones of its page; the record of one that drops out is forgotten (R472, R297). -/
def remember (d : Dev) (a unit limit : Nat) : Dev :=
  if limit = 0 then d
  else
    let l := unit :: (sget noNats d.recent a).filter (· ≠ unit)
    let out := l.drop limit
    { d with recent := sput noNats d.recent a (l.take limit)
             esc := out.foldl (fun e u => sput escDefault e (escKey a u) ⟨none, none⟩) d.esc }

/-- The classification of R473: the unit's record after it, and the final class. -/
def classify (rec : Esc) (cls now w : Nat) : Nat × Esc :=
  let hit (o : Option Nat) : Bool := match o with | some t => decide (now - t ≤ w) | none => false
  if w = 0 then (cls, rec)
  else if cls = 1 then
    if hit rec.c then
      if hit rec.d then (3, ⟨none, none⟩) else (2, ⟨none, some now⟩)
    else (1, ⟨some now, rec.d⟩)
  else if cls = 2 then
    if hit rec.d then (3, ⟨rec.c, none⟩) else (2, ⟨rec.c, some now⟩)
  else (cls, rec)

/-! ## Resources that a recovery holds (R475) -/

/-- The link states of R366 that are a lane test, a retrain or a handshake. -/
def linkBusy (d : Dev) (n : Nat) : Bool :=
  let st := rfld d (pgOfPort n + 0x840) 0 4
  st == 3 || st == 5 || st == 8
/-- The edge that faces edge `e` of site `s` (R16). -/
def facing (s e : Nat) : Nat × Nat := if e = 0 then ((s + 1) % 4, 1) else ((s + 3) % 4, 0)
def edgeModules (s e : Nat) : List Nat := (List.range 32).map (modKey s e)
/-- An edge page's own recovery holds the link: a module retrain, a quiesce, a route change. -/
def edgeBusy (d : Dev) (s e : Nat) : Bool :=
  (edgeModules s e).any (fun k => (getMod d k).retraining) || (getEdge d (edgeKey s e)).quiescing
  || (d.board.routeChange && ownState d (pgD2d s e) == stFenced)
/-- The package port whose lane x of OPTENG engine j is (R337). -/
def portOfLane (j x : Nat) : Nat := if j = 12 then 48 + x / 4 else 4 * j + x / 4

/-- The recovery of another page holds a resource that this page shares (R475). -/
def heldByOther (d : Dev) (l : PageLoc) (unit : Nat) : Bool :=
  match l.typ with
  | .d2d => l.inst != 2 && edgeBusy d (facing l.site l.inst).1 (facing l.site l.inst).2
  | .hbmc => bvBit d.board.released l.site && bvBit d.filling l.site && ownState d (pgHbmc l.site l.inst) != stFenced
  | .opteng => (portOfLane l.inst unit) < 50 && linkBusy d (portOfLane l.inst unit)
  | .postmark =>
    if l.inst < 12 then linkBusy d (12 * l.site + l.inst)
    else if l.inst = 12 then l.site % 2 == 0 && linkBusy d (if l.site = 0 then 48 else 49)
    else false
  | .slane => (getSorter d l.site).retries.any (fun r => r.lane == l.inst)
  | _ => false

/-! ## Raising -/

/-- What a class F on a page fences (R522). `unit` is the unit that R469 names for the code; a common code names none, and the block of
the page leaves service. -/
def fenceTargets (l : PageLoc) (a code unit : Nat) : List FenceT :=
  if code < 0x100 then
    match l.typ with
    | .pmc | .irqr | .router | .die => [.die l.site]
    | .d2d => if l.inst = 2 then [.die l.site] else [.page a]
    | _ => [.page a]
  else match l.typ with
  | .pmc => if unit < 16 then [.page (pgCluster l.site unit)] else [.die l.site]
  | .agemon => [.page (pgCluster l.site unit)]
  | .opteng => [.lane l.inst unit]
  | .hdma => [.channel unit]
  | .addrbook => [.die unit]
  | .irqr | .router | .die => [.die l.site]
  | .d2d =>
    if l.inst = 2 then [.die l.site]
    else if code = 0x100 ∨ code = 0x103 ∨ code = 0x104 then [.module (modKey l.site l.inst unit)] else [.page a]
  | _ => [.page a]

/-- The die whose recovery or fencing a target is. -/
def targetSite : FenceT → Option Nat
  | .page a => (pageAt a).bind (fun l => if l.inBase then none else some l.site)
  | .module k => some (k / 64)
  | .lane _ _ => none
  | .channel _ => none
  | .die s => some s

def recoveringBit (d : Dev) (s : Nat) : Bool := tbit (regN d (pgMgr + 0x820)) (4 + s)
def fencingAny (d : Dev) : Bool := rfld d (pgMgr + 0x820) 8 4 ≠ 0

/-- Ask for a fence: it starts at the end of the command; MGR.DIES shows the die recovering, and being fenced when the
target is the die as a whole (R476, R477). -/
def askFence (d : Dev) (t : FenceT) (a code : Nat) : Dev :=
  let d := { d with board := { d.board with fences := d.board.fences ++ [⟨t, a, code⟩] } }
  match targetSite t with
  | none => d
  | some s =>
    let v := setBit (regN d (pgMgr + 0x820)) (4 + s) true
    let v := match t with | .die _ => setBit v (8 + s) true | _ => v
    setRegN d (pgMgr + 0x820) v

/-- Ask for the halt of R481; the first trigger is kept. -/
def askHalt (d : Dev) (a code : Nat) : Dev :=
  match d.board.haltReq with
  | some _ => d
  | none => { d with board := { d.board with haltReq := some ⟨BitVec.ofNat 27 a, BitVec.ofNat 12 code⟩ } }

/-- The layout of ERR_INFO0 and ERR_INFO1 that names a fault (R476). -/
def faultInfo (l : PageLoc) (cls code : Nat) : Nat × Nat :=
  (0x1000 * cls + code + 0x10000 * l.typ.code, l.inst + 0x10000 * l.site + 0x40000 * l.inBase.toNat)

/-- An error of class 1 to 4 (C, D, F, X) and code on a page: classified, recorded, and its fence or halt asked for; `info` gives
ERR_INFO0 and ERR_INFO1 for its final class. The answer's first part is the final class. (DEDUCED, log entry 15) -/
def raiseWith (d : Dev) (a cls code unit : Nat) (info : Nat → Nat × Nat) : Nat × Dev :=
  match pageAt a with
  | none => (cls, d)
  | some l =>
    let cnt := counted l.typ code && cls != 4
    let cls1 := if cnt ∧ cls ≤ 2 ∧ heldByOther d l unit then cls + 1 else cls
    let wasFencing := fencingAny d
    let wasRecovering := !l.inBase && recoveringBit d l.site
    let res := if cnt ∧ cls1 ≤ 2 then
        classify (sget escDefault d.esc (escKey a unit)) cls1 (pageCycles d a) (regN d (a + oEscWindow))
      else (cls1, sget escDefault d.esc (escKey a unit))
    let fin := res.1
    let d := if cnt then remember { d with esc := sput escDefault d.esc (escKey a unit) res.2 } a unit (recordLimit l.typ) else d
    let d := recordErr d a fin code (info fin).1 (info fin).2
    let d := if fin = 3 then (fenceTargets l a code unit).foldl (fun d t => askFence d t a code) d else d
    let d := if fin = 4 then askHalt d a code else d
    let at_ := faultInfo l fin code
    let d :=
      if cnt ∧ wasFencing then askHalt (recordErr d pgMgr 4 0x102 at_.1 at_.2) pgMgr 0x102
      else if cnt ∧ wasRecovering then
        askFence (recordErr d (pgDie l.site) 3 0x108 at_.1 at_.2) (.die l.site) (pgDie l.site) 0x108
      else d
    (fin, d)

def raise (d : Dev) (a cls code unit i0 i1 : Nat) : Nat × Dev := raiseWith d a cls code unit (fun _ => (i0, i1))
/-- An error whose code is not counted, on its page. (DEDUCED, log entry 15) -/
def raiseErr (d : Dev) (a cls code i0 i1 : Nat) : Dev := (raise d a cls code 0 i0 i1).2

end Sys2Proof.Machine
end

