-- ==== Sys2Proof/Machine/Mem.lean ====
section
/-!
DEFINITION. Device memory (chapter 10): where each byte lies (R285, R286, R293), the protection of HBM words and SRAM
words and what a read or a write does to a damaged one (R296 to R299, R310, R311), the writes that the live code range
turns away (R153) and the error of a write to an absent address (R286). Bytes are held by package physical address.
-/
namespace Sys2Proof.Machine

/-! ## The map -/

/-- What a package physical address names (R285, R293). -/
inductive Loc where
  | hbm (site stack addr : Nat)
  | store (site cluster off : Nat)
  | cmem (site core off : Nat)
  | mirror (off : Nat)
  | absent
  deriving DecidableEq, Repr

def hbmSpan : Nat := 0x3C00000000
def stackBytes : Nat := 80 * 2 ^ 30
def windowBase (d : Nat) : Nat := 0xF000000000 + d * 0x100000000
/-- Offset 0 of a core's own core memory (R285). -/
def coreMemBase (site k : Nat) : Nat := windowBase site + 0x40000000 + k * 0x200000
def coreMemSize : Nat := 0x180000

/-- The stacks in a die's map: those whose page is not FENCED (R293, R302). -/
def dieStacks (d : Dev) (s : Nat) : List Nat := [0, 1, 2].filter (fun k => ownState d (pgHbmc s k) != stFenced)
/-- The stacks that remain to a die once the fences under way are done. -/
def stacksLeft (d : Dev) (s : Nat) : List Nat := (dieStacks d s).filter (fun k => !fenceReqd d (pgHbmc s k))
/-- Whether a range touches the HBM of a die that awaits or runs a poison fill: an access there waits for its end (R303). -/
def fillBlocked (d : Dev) (a n : Nat) : Bool :=
  n != 0 && (List.range 4).any (fun s => (bvBit d.filling s || bvBit d.fillDue s)
    && decide (s * hbmSpan < a + n ∧ a < (s + 1) * hbmSpan))

/-- hbm_decode of R293. -/
def hbmDecode (ppa : Nat) (sts : List Nat) : Option (Nat × Nat × Nat) :=
  let d := ppa / hbmSpan
  let o := ppa % hbmSpan
  let n := sts.length
  if n = 0 ∨ n * stackBytes ≤ o then none
  else
    let u := o / 1024
    some (d, sts.getD (u % n) 0, u / n * 1024 + o % 1024)

/-- The inverse of R293: the PPA of a byte of a stack. -/
def hbmEncode (d s a : Nat) (sts : List Nat) : Nat :=
  let n := sts.length
  d * hbmSpan + (a / 1024 * n + sts.idxOf s) * 1024 + a % 1024

def pageFenced (d : Dev) (a : Nat) : Bool := ownState d a == stFenced
/-- A core out of service: fenced, or in a fenced cluster (R286, R479). -/
def coreFenced (d : Dev) (s k : Nat) : Bool := pageFenced d (pgCore s k) || pageFenced d (pgCluster s (k / 8))

/-- What an address names now (R285, R286). (DEDUCED, log entry 14) -/
def locate (d : Dev) (ppa : Nat) : Loc :=
  if ppa < 0xF000000000 then
    let s := ppa / hbmSpan
    if !dieUp d s then .absent
    else match hbmDecode ppa (dieStacks d s) with
      | some (_, k, a) => .hbm s k a
      | none => .absent
  else if ppa < 0xF400000000 then
    let s := (ppa - 0xF000000000) / 0x100000000
    let o := ppa % 0x100000000
    if !dieUp d s then .absent
    else if o < 0x20000000 then
      let c := o / 0x2000000
      if o % 0x2000000 < 0x1800000 ∧ !pageFenced d (pgCluster s c) then .store s c (o % 0x2000000) else .absent
    else if 0x40000000 ≤ o ∧ o < 0x50000000 then
      let k := (o - 0x40000000) / 0x200000
      if o % 0x200000 < coreMemSize ∧ !coreFenced d s k then .cmem s k (o % 0x200000) else .absent
    else .absent
  else if 0xFF00000000 ≤ ppa ∧ ppa < 0xFF09000000 then .mirror (ppa - 0xFF00000000)
  else .absent

/-- The die whose memory an address belongs to, present or not (R109, R285). -/
def ownerDie (ppa : Nat) : Option Nat :=
  if ppa < 0xF000000000 then some (ppa / hbmSpan)
  else if ppa < 0xF400000000 then some ((ppa - 0xF000000000) / 0x100000000) else none

def isMem : Loc → Bool
  | .hbm _ _ _ | .store _ _ _ | .cmem _ _ _ => true
  | _ => false
/-- Whether a byte of memory is present. -/
def present (d : Dev) (ppa : Nat) : Bool := isMem (locate d ppa)
/-- Whether a range of `n` bytes is wholly present; memory appears and ends at multiples of 1 KiB. (DEDUCED, log entry 46) -/
def presentRange (d : Dev) (ppa n : Nat) : Bool :=
  n = 0 || (List.range ((ppa + n - 1) / 1024 - ppa / 1024 + 1)).all (fun i => present d ((ppa / 1024 + i) * 1024))

/-! ## Bytes as stored -/

def memByte (d : Dev) (a : Nat) : Byte := sget memByteDefault d.mem a
def memGet (d : Dev) (a n : Nat) : List Byte := (List.range n).map (fun i => memByte d (a + i))
/-- Store bytes from address `a` on. -/
def putBytes (m : List Host.Cell) (a : Nat) : List Byte → List Host.Cell
  | [] => m
  | b :: bs => putBytes (sput memByteDefault m a b) (a + 1) bs
def memPut (d : Dev) (a : Nat) (bs : List Byte) : Dev := { d with mem := putBytes d.mem a bs }

/-- A granule that no write has touched since its die's fill reads poisoned (R303). (DESIGN CHOICE, log entry 7) -/
def poisonDefault (d : Dev) (g : Nat) : Bool :=
  let a := 32 * g
  a < 0xF000000000 && bvBit d.filled (a / hbmSpan)
def poisonedG (d : Dev) (g : Nat) : Bool := sget (poisonDefault d) d.poison g
def setPoison (d : Dev) (g : Nat) (b : Bool) : Dev := { d with poison := sput (poisonDefault d) d.poison g b }

def noErr (_ : Nat) : List (BitVec 16) := []
def noTag (_ : Nat) : BitVec 16 := 0
def noFlip (_ : Nat) : BitVec 72 := 0

/-! ## The Reed-Solomon code of R296 -/

/-- Multiply by x in GF(2^16) modulo x^16 + x^12 + x^3 + x + 1. -/
def gfX (a : Nat) : Nat := if a < 0x8000 then 2 * a else (2 * a) % 0x10000 ^^^ 0x100B
def gfMulAux : Nat → Nat → Nat → Nat
  | 0, _, _ => 0
  | n + 1, a, b => (if b % 2 = 1 then a else 0) ^^^ gfMulAux n (gfX a) (b / 2)
/-- The product in GF(2^16). -/
def gfMul (a b : Nat) : Nat := gfMulAux 16 a b
/-- rs_check of R296: the three check symbols of 16 data symbols. -/
def rsCheck (sym : List Nat) : Nat × Nat × Nat :=
  sym.reverse.foldl (fun r x =>
    let fb := x ^^^ r.2.2
    (gfMul fb 0x0008, r.1 ^^^ gfMul fb 0x000E, r.2.1 ^^^ gfMul fb 0x0007)) (0, 0, 0)
/-- The 19 symbols the controller stores for a word of 32 bytes. -/
def rsWord (bs : List Byte) : List Nat :=
  let sym := (List.range 16).map (fun i => (bs.getD (2 * i) 0).toNat + 256 * (bs.getD (2 * i + 1) 0).toNat)
  let c := rsCheck sym
  sym ++ [c.1, c.2.1, c.2.2]

/-- XOR of two error vectors of 19 symbols; the empty vector is no error. -/
def errXor (a b : List (BitVec 16)) : List (BitVec 16) :=
  let r := (List.range 19).map (fun i => a.getD i 0 ^^^ b.getD i 0)
  if r.all (· == 0) then [] else r
def errCount (e : List (BitVec 16)) : Nat := (e.filter (· != 0)).length
def errAt (e : List (BitVec 16)) : Nat := e.findIdx (· != 0)
/-- An error vector with all bits of the given check symbols inverted (R310). -/
def errPoint (point : Nat) : List (BitVec 16) :=
  (List.range 19).map (fun i => if i = 16 ∨ (point = 1 ∧ i = 17) then 0xFFFF else 0)

/-! ## Injection (R53) -/

/-- One unit of direction `dir` passes the injection point of a page: when armed for it, the point, and COUNT one less.
(DEDUCED, log entry 49) -/
def injectUnit (d : Dev) (a dir : Nat) : Option Nat × Dev :=
  let v := regN d (a + oInject)
  if fld v 0 16 ≠ 0 ∧ fld v 16 1 = dir then
    (some (fld v 17 3), countEvt (setRegN d (a + oInject) (setFld v 0 16 (fld v 0 16 - 1))) a 0x0013 0 1)
  else (none, d)

/-! ## HBM words (R296, R297, R310) -/

/-- Write a word back corrected. -/
def hbmClean (d : Dev) (g : Nat) : Dev :=
  { d with hbmErr := sput noErr d.hbmErr g [], hbmTag := sput noTag d.hbmTag g 0 }
/-- Write a word back poisoned; UE_COUNT counts it. -/
def hbmSpoil (d : Dev) (page g : Nat) : Dev := incSat (setPoison (hbmClean d g) g true) (page + 0x824)

def hbmInfo1 (ppa sym src : Nat) : Nat := ppa / 2 ^ 32 % 256 + sym * 256 + src * 2 ^ 13

/-- A second correctable error of a word that the controller remembers, within ESC_WINDOW (R297). -/
def hbmRepeat (d : Dev) (page g : Nat) : Bool :=
  let w := regN d (page + oEscWindow)
  match (sget escDefault d.esc (escKey page g)).c with
  | some t => decide (w ≠ 0 ∧ pageCycles d page - t ≤ w)
  | none => false
/-- A word with a correctable error, or a clean tag with an error: corrected and counted as class C; when that is raised to
class D or higher the word is poisoned instead (R297). Answers the bytes, whether they are marked poisoned, the state. -/
def hbmCorrect (d : Dev) (page g sym src : Nat) (bytes : List Byte) : List Byte × Bool × Dev :=
  let ppa := 32 * g
  let rep := hbmRepeat d page g
  let r := raise (hbmClean d g) page 1 0x100 g ppa (hbmInfo1 ppa sym (if rep then 3 else src))
  if 2 ≤ r.1 then (bytes, true, let d := hbmSpoil r.2 page g; if rep then incSat d (page + 0x828) else d)
  else (bytes, false, setRegN (setRegN (countEvt r.2 page 0x1002 0 1) (page + 0x82C) ppa) (page + 0x830) (ppa / 2 ^ 32 % 256))

/-- A word with an uncorrectable error: written back poisoned, class D once (R297). -/
def hbmUncorrectable (d : Dev) (page g src : Nat) (bytes : List Byte) : List Byte × Bool × Dev :=
  let ppa := 32 * g
  (bytes, true, (raise (hbmSpoil d page g) page 2 0x101 g ppa (hbmInfo1 ppa 31 src)).2)

/-- A read of HBM word `g` by the controller of its stack: 0 read, 1 the read of a partial write, 2 scrub (R297, R310). -/
def hbmReadWord (d : Dev) (page g src : Nat) : List Byte × Bool × Dev :=
  let bytes := memGet d (32 * g) 32
  let inj := if src = 2 then (none, d) else injectUnit d page 1
  let d := inj.2
  let tagErr := sget noTag d.hbmTag g
  let tagBits := popc ((if poisonedG d g then 0xFFFF else 0) ^^^ tagErr.toNat) 16
  if 9 ≤ tagBits then (bytes, true, d)
  else
    let e := sget noErr d.hbmErr g
    let e := match inj.1 with | some p => errXor e (errPoint p) | none => e
    match errCount e with
    | 0 => if tagErr = 0 ∧ !poisonedG d g then (bytes, false, d)
           else if tagBits = 0 then (bytes, false, hbmClean (setPoison d g false) g)
           else hbmCorrect (setPoison d g false) page g 19 src bytes
    | 1 => hbmCorrect (setPoison d g false) page g (errAt e) src bytes
    | 2 => hbmUncorrectable d page g src bytes
    | _ =>
      let n := d.free
      let d := { d with free := d.free + 1 }
      if Config.threeSymbolDetected n then hbmUncorrectable d page g src bytes
      else
        let wrong := (List.range 32).map (fun i => (Config.threeSymbolData n).getD i 0)
        hbmCorrect (memPut (setPoison d g false) (32 * g) wrong) page g 0 src wrong

/-- A whole HBM word written: data, poison and fresh checks; INJECT with DIR 0 stores it with inverted checks (R296, R299,
R310). -/
def hbmWriteWord (d : Dev) (page g : Nat) (bytes : List Byte) (poison : Bool) : Dev :=
  let d := setPoison (hbmClean (memPut d (32 * g) bytes) g) g poison
  let inj := injectUnit d page 0
  match inj.1 with
  | some p => if poison then inj.2 else { inj.2 with hbmErr := sput noErr inj.2.hbmErr g (errPoint p) }
  | none => inj.2

/-! ## SRAM words (R298, R311) -/

/-- The page of an SRAM location and its codes for a corrected and an uncorrectable error. -/
def sramPage : Loc → Nat × Nat × Nat
  | .store s c _ => (pgCluster s c, 0x100, 0x101)
  | .cmem s k _ => (pgCore s k, 0x109, 0x10A)
  | _ => (0, 0, 0)

/-- A read of one 8-byte SRAM word: corrected, or its granule poisoned (R298). -/
def sramReadWord (d : Dev) (l : Loc) (w : Nat) : Dev :=
  let (page, ce, ue) := sramPage l
  let isStore := match l with | .store _ _ _ => true | _ => false
  let g := w / 4
  let ppa := 8 * w
  let inj := if isStore then injectUnit d page 1 else (none, d)
  let d := inj.2
  let e := (sget noFlip d.sramErr w).toNat
  let e := match inj.1 with | some p => e ^^^ (if p = 0 then 2 ^ 64 else 3 * 2 ^ 64) | none => e
  let clean (d : Dev) : Dev := { d with sramErr := sput noFlip d.sramErr w 0 }
  let spoil (d : Dev) : Dev := setPoison (clean d) g true
  let uncorrectable (d : Dev) : Dev :=
    let d := spoil d
    let d := if isStore then incSat d (page + 0x840) else d
    (raise d page 2 ue g ppa (ppa / 2 ^ 32)).2
  let correct (d : Dev) : Dev :=
    let r := raise (clean d) page 1 ce g ppa (ppa / 2 ^ 32)
    if 2 ≤ r.1 then spoil r.2 else r.2
  match popc e 72 with
  | 0 => d
  | 1 => correct d
  | 2 => uncorrectable d
  | _ =>
    let n := d.free
    let d := { d with free := d.free + 1 }
    if Config.threeSymbolDetected n then uncorrectable d
    else correct (memPut d ppa ((List.range 8).map (fun i => (Config.threeSymbolData n).getD i 0)))

/-! ## Reading and writing ranges -/

/-- The granules that a range touches: number, first byte within, byte count. -/
def pieces (a n : Nat) : List (Nat × Nat × Nat) :=
  if n = 0 then []
  else (List.range ((a + n - 1) / 32 - a / 32 + 1)).map (fun i =>
    let g := a / 32 + i
    let lo := if i = 0 then a % 32 else 0
    let hi := min 32 (a + n - 32 * g)
    (g, lo, hi - lo))

/-- A read of part of one granule by an agent: its bytes, whether they are marked poisoned, and what the read did.
An absent address reads as data marked poisoned (R286). -/
def readPiece (d : Dev) (p : Nat × Nat × Nat) (src : Nat) : List Byte × Bool × Dev :=
  let (g, lo, n) := p
  let l := locate d (32 * g)
  match l with
  | .hbm s k _ =>
    let page := pgHbmc s k
    let r := hbmReadWord d page g src
    ((r.1.drop lo).take n, r.2.1, if src = 2 then r.2.2 else countEvt r.2.2 page 0x1000 0 1)
  | .store _ _ _ | .cmem _ _ _ =>
    let words := (List.range ((lo + n - 1) / 8 - lo / 8 + 1)).map (fun i => 4 * g + lo / 8 + i)
    let d := words.foldl (fun d w => sramReadWord d l w) d
    (memGet d (32 * g + lo) n, poisonedG d g, d)
  | _ => (List.replicate n 0, true, d)

/-- A read of `n` bytes from `a` on. (DEDUCED, log entry 46) -/
def memRead (d : Dev) (a n : Nat) : List Byte × Bool × Dev :=
  (pieces a n).foldl (fun acc p =>
    let r := readPiece acc.2.2 p 0
    (acc.1 ++ r.1, acc.2.1 || r.2.1, r.2.2)) ([], false, d)

/-- A write of part of one granule, data marked poisoned or clean; part of a granule is merged into what the granule
holds (R299). An absent address takes nothing. -/
def writePiece (d : Dev) (p : Nat × Nat × Nat) (bs : List Byte) (poison : Bool) : Dev :=
  let (g, lo, n) := p
  match locate d (32 * g) with
  | .hbm s k _ =>
    let page := pgHbmc s k
    let d :=
      if n = 32 then hbmWriteWord d page g bs poison
      else
        let r := hbmReadWord d page g 1
        hbmWriteWord r.2.2 page g (r.1.take lo ++ bs ++ r.1.drop (lo + n)) (r.2.1 || poison)
    countEvt d page 0x1001 0 1
  | .store s c _ =>
    let d := if n = 32 then d else (readPiece d (g, 0, 32) 1).2.2
    let old := poisonedG d g
    let d := setPoison (memPut d (32 * g + lo) bs) g (poison || (n ≠ 32 && old))
    let d := (List.range 4).foldl (fun d i => { d with sramErr := sput noFlip d.sramErr (4 * g + i) 0 }) d
    ((List.range ((lo + n - 1) / 8 - lo / 8 + 1)).map (fun i => 4 * g + lo / 8 + i)).foldl (fun d w =>
      let inj := injectUnit d (pgCluster s c) 0
      match inj.1 with
      | some pt => { inj.2 with sramErr := sput noFlip inj.2.sramErr w (BitVec.ofNat 72 (if pt = 0 then 2 ^ 64 else 3 * 2 ^ 64)) }
      | none => inj.2) d
  | .cmem _ _ _ =>
    let d := if n = 32 then d else (readPiece d (g, 0, 32) 1).2.2
    let old := poisonedG d g
    let d := setPoison (memPut d (32 * g + lo) bs) g (poison || (n ≠ 32 && old))
    (List.range 4).foldl (fun d i => { d with sramErr := sput noFlip d.sramErr (4 * g + i) 0 }) d
  | _ => d

/-- The part of `bs`, laid from `a` on, that falls into a piece. -/
def pieceBytes (a : Nat) (bs : List Byte) (p : Nat × Nat × Nat) : List Byte :=
  (bs.drop (32 * p.1 + p.2.1 - a)).take p.2.2

/-- A write of bytes from `a` on. -/
def memWrite (d : Dev) (a : Nat) (bs : List Byte) (poison : Bool) : Dev :=
  (pieces a bs.length).foldl (fun d p => writePiece d p (pieceBytes a bs p) poison) d

/-! ## Agents -/

/-- Whether a context of a core is RUNNING or WAITING (R153). -/
def coreActive (d : Dev) (site k : Nat) : Bool :=
  (List.range 16).any (fun n =>
    let c := (getCtx d (ctxKey site k n)).cstate
    c == .running || c == .waiting)

/-- The live code range of a core, in bytes of its core memory (R152, R153). -/
def codeRange (d : Dev) (site k : Nat) : Nat × Nat :=
  let b := rfld d (pgCore site k + 0x808) 0 15
  (64 * b, 64 * (b + rfld d (pgCore site k + 0x80C) 0 15))

/-- The core whose live code range a byte lies in while a context of it is RUNNING or WAITING (R153). -/
def codeHit (d : Dev) (ppa : Nat) : Option (Nat × Nat) :=
  match locate d ppa with
  | .cmem s k o =>
    let r := codeRange d s k
    if r.1 ≤ o ∧ o < r.2 ∧ coreActive d s k then some (s, k) else none
  | _ => none

/-- The first of the 64-byte units a range touches that lies in a live code range, and its core. -/
def codeHitRange (d : Dev) (a n : Nat) : Option (Nat × Nat) :=
  if n = 0 then none
  else (List.range ((a + n - 1) / 64 - a / 64 + 1)).findSome? (fun i => codeHit d (64 * (a / 64 + i)))

/-- The pieces of a write that land: not absent, not in a live code range (R153, R286). -/
def landing (d : Dev) (a n : Nat) : List (Nat × Nat × Nat) :=
  (pieces a n).filter (fun p => present d (32 * p.1) && (codeHit d (32 * p.1)).isNone)

/-- The error of a write to an absent address by an agent other than a wide core (R286). (DEDUCED, log entry 46) -/
def absentWrite (d : Dev) (w : Writer) (ppa : Nat) : Dev :=
  let lo := ppa % 2 ^ 32
  let hi := ppa / 2 ^ 32 % 256
  let ownerUp := match ownerDie ppa with | some s => dieUp d s | none => false
  if ownerUp then raiseErr d (pgDie ((ownerDie ppa).getD 0)) 2 0x103 lo hi
  else match w with
    | .die s => raiseErr d (pgDie s) 2 0x103 lo hi
    | .core s _ => raiseErr d (pgDie s) 2 0x103 lo hi
    | .host => raiseErr d pgMgr 2 0x103 lo hi
    | .hdma => raiseErr d pgMgr 2 0x103 lo (hi + 256)
    | .manager => raiseErr d pgMgr 2 0x103 lo (hi + 512)

/-- A write by an agent other than a wide core's own contexts, now: absent bytes are discarded with one ABSENT_WRITE, bytes in
a live code range with one CODE_WRITE on that core's page (R153, R286, R469). -/
def writeNow (d : Dev) (w : Writer) (a : Nat) (bs : List Byte) (poison : Bool) : Dev :=
  let ok := landing d a bs.length
  let hit := codeHitRange d a bs.length
  let gone := (pieces a bs.length).find? (fun p => !present d (32 * p.1))
  let d := ok.foldl (fun d p => writePiece d p (pieceBytes a bs p) poison) d
  let d := match hit with
    | some (s, k) => raiseErr d (pgCore s k) 2 0x108 (0x6 * 16) (a % 2 ^ 32)
    | none => d
  match gone with
  | some p => absentWrite d w (32 * p.1 + p.2.1)
  | none => d
/-- A write by an agent: one to the HBM of a die that awaits or runs a poison fill waits for its end (R303). -/
def agentWrite (d : Dev) (w : Writer) (a : Nat) (bs : List Byte) (poison : Bool) : Dev :=
  if fillBlocked d a bs.length then { d with fillWait := d.fillWait ++ [.write w a bs poison] } else writeNow d w a bs poison

end Sys2Proof.Machine
end

