-- ==== Sys2Proof/Machine/Net.lean ====
section
/-!
DEFINITION. Packets and their way through the package: header and types (R344, R345), the router's egress decision (R355, R357),
dead letters (R360, R361), routes and steering between dies (R317, R325), credits (R343), and how a packet becomes flits of a
die-to-die module (R314) or of a fabric port (R338 to R340, R137). The dead letter of a packet is a function handed to the operations
that route it, so that the failed answer of one is routed by the same operations (R360).
-/
namespace Sys2Proof.Machine

/-! ## Packets (R344, R345) -/

def pktHead (p : Packet) : List Byte :=
  toBytes 2 p.dst.toNat ++ toBytes 2 p.src.toNat ++ [p.typ, p.flags] ++ toBytes 2 p.len.toNat ++ toBytes 8 p.addr.toNat
  ++ toBytes 2 p.tag.toNat ++ toBytes 2 p.route.toNat ++ toBytes 12 p.tspec.toNat
/-- Header and payload, the payload LEN bytes long. -/
def pktBytes (p : Packet) : List Byte := pktHead p ++ (p.body ++ List.replicate p.len.toNat 0).take p.len.toNat
/-- The packet that received bytes spell. -/
def pktOf (bs : List Byte) : Packet :=
  { dst := BitVec.ofNat 16 (bytesAt bs 0 2), src := BitVec.ofNat 16 (bytesAt bs 2 2), typ := BitVec.ofNat 8 (bytesAt bs 4 1)
    flags := BitVec.ofNat 8 (bytesAt bs 5 1), len := BitVec.ofNat 16 (bytesAt bs 6 2), addr := BitVec.ofNat 64 (bytesAt bs 8 8)
    tag := BitVec.ofNat 16 (bytesAt bs 16 2), route := BitVec.ofNat 16 (bytesAt bs 18 2)
    tspec := BitVec.ofNat 96 (bytesAt bs 20 12), body := (bs.drop 32).take (bytesAt bs 6 2) }

/-- The VC a type travels on; other codes are invalid. -/
def typeVc (t : Nat) : Option Nat :=
  if t = 1 ∨ t = 2 then some 0 else if t = 3 ∨ t = 4 then some 1 else if t = 5 ∨ t = 6 then some 2
  else if t = 7 ∨ t = 8 ∨ t = 9 then some 3 else none
def pktVc (p : Packet) : Nat := (typeVc p.typ.toNat).getD 3
def pktVcc (p : Packet) : Bool := tbit p.route.toNat 3
def pktHops (p : Packet) : Nat := fld p.route.toNat 4 4
def setRoute (p : Packet) (lo w v : Nat) : Packet := { p with route := BitVec.ofNat 16 (setFld p.route.toNat lo w v) }
/-- BAD_HEADER of R360. -/
def badHeader (p : Packet) : Bool :=
  (typeVc p.typ.toNat).isNone || decide (2048 < p.len.toNat) || fld p.dst.toNat 13 3 != 0 || fld p.src.toNat 13 3 != 0
  || fld p.flags.toNat 2 6 != 0 || fld p.addr.toNat 40 24 != 0 || fld p.route.toNat 8 8 != 0
/-- The 64-byte units a packet takes of a pool (R343); a die-to-die edge counts the same buffers (DEDUCED, log entry 17). -/
def pktUnits (p : Packet) : Nat := ceilDiv (32 + p.len.toNat) 64

/-! ## The router's decision (R355, R357) -/

inductive Egress where
  | port (n : Nat)
  | eject
  | dead (reason : Nat)
  deriving DecidableEq, Repr

def rtReg (d : Dev) (s off : Nat) : Nat := regN d (pgRouter s + off)
def selfId (d : Dev) (s : Nat) : Nat := fld (rtReg d s 0x804) 0 11
def twinPort (d : Dev) (s : Nat) : Nat := fld (rtReg d s 0x800) 8 6
def linkState (d : Dev) (n : Nat) : Nat := rfld d (pgOfPort n + 0x840) 0 4
def setLink (d : Dev) (n st : Nat) : Dev := setRfld d (pgOfPort n + 0x840) 0 4 st
def lsUp : Nat := 7
/-- Free VCC-0 collective credits of a port as a router of site s knows them: its own at once, another die's as last exchanged. -/
def freeCollective (d : Dev) (s n : Nat) : Nat :=
  if siteOfPort n = s then sget zeroNat (getPort d n).credits 4 else sget zeroNat d.creditSeen n

/-- The variant of R357 for block b of a group entry. -/
def chooseVariant (d : Dev) (s ent b vc : Nat) : Nat :=
  let p (v : Nat) : Nat := fld ent (8 + 6 * v) 6
  let mode := rtReg d s 0x800
  let up (v : Nat) : Bool := decide (p v < 50) && linkState d (p v) == lsUp
  if vc ≠ 2 ∨ !tbit mode 0 then b
  else if up b ∧ fld mode 16 8 * 16 ≤ freeCollective d s (p b) then b
  else match [0, 1, 2, 3].filter up with
    | [] => b
    | v :: vs => vs.foldl (fun best x => if freeCollective d s (p best) < freeCollective d s (p x) then x else best) v

/-- A table's port, or NO_ROUTE for 62 and any other number that names no port (R360). -/
def tableEgress (e : Nat) : Egress := if e < 50 then .port e else .dead 1

/-- The egress of a packet at the router of die s, and the packet with its variant fixed. -/
def egress (d : Dev) (s : Nat) (p : Packet) : Egress × Packet :=
  let self := selfId d s
  let dst := fld p.dst.toNat 0 11
  let src := fld p.src.toNat 0 11
  if 12 ≤ pktHops p then (.dead 4, p)
  else if dst / 1024 ≠ self / 1024 then
    if dst % 1024 ≠ self % 1024 ∨ twinPort d s = 63 then (.dead 3, p) else (.port (twinPort d s), p)
  else if dst = self then (.eject, p)
  else
    let g2 := fld dst 5 5
    let pd := fld dst 0 5
    if g2 = fld self 5 5 then
      let e := fld (rtReg d s (0x980 + 4 * pd)) 0 6
      (tableEgress e, p)
    else
      let ent := rtReg d s (0x900 + 4 * g2)
      if !tbit ent 5 ∨ pktVcc p then (.dead 1, p)
      else if src ≠ self then (.port (12 * s + 8 + fld ent 3 2), p)
      else
        let b := (pd + fld ent 0 3) / 8 % 4
        let p := if tbit p.route.toNat 2 then p
          else setRoute (setRoute p 0 2 (chooseVariant d s ent b (pktVc p))) 2 1 1
        (tableEgress (fld ent (8 + 6 * fld p.route.toNat 0 2) 6), p)

/-- The packet takes another variant than its destination block (ADAPT_TAKEN). -/
def adapted (d : Dev) (s : Nat) (p : Packet) : Bool :=
  let dst := fld p.dst.toNat 0 11
  let ent := rtReg d s (0x900 + 4 * fld dst 5 5)
  tbit p.route.toNat 2 && fld p.route.toNat 0 2 != (fld dst 0 5 + fld ent 0 3) / 8 % 4

/-! ## Dead letters (R360, R361) -/

/-- The record of an undeliverable packet. -/
def deadRecord (p : Packet) (reason arrival egr num : Nat) : List Byte :=
  let b := pktBytes p
  ((b ++ List.replicate 64 0).take 64) ++ toBytes 1 reason ++ toBytes 1 arrival ++ toBytes 1 egr
  ++ toBytes 1 (pktVc p + 4 * (pktVcc p).toNat) ++ toBytes 4 num ++ List.replicate 56 0

/-- How a router gives up a packet: site, packet, reason, arrival port and egress port. -/
abbrev DeadFn := Dev → Nat → Packet → Nat → Nat → Nat → Dev

/-- A router cannot deliver a packet: the record, the count and DEAD_LETTER. `arrival` and `egr` are package ports, 63 for none.
(DEDUCED, log entry 48) -/
def deadRecorded : DeadFn := fun d s p reason arrival egr =>
  let a := pgRouter s
  let num := regN d (a + 0xA00)
  let size := fld (regN d (a + 0x810)) 0 13
  let base := regN d (a + 0x808) + 2 ^ 32 * fld (regN d (a + 0x80C)) 0 8
  let d := if size = 0 then d
    else agentWrite d (.die s) (base + 128 * (num % size)) (deadRecord p reason arrival egr num) false
  let d := setRegN d (a + 0xA00) (num + 1)
  raiseErr d a 2 0x100 (reason + 256 * arrival + 65536 * egr) (fld p.dst.toNat 0 13)

/-! ## Die-to-die modules and edges (R312 to R318) -/

/-- The module at the other end of a link: logical numbers agree (R16, R19). -/
def facingMod (k : Nat) : Nat :=
  let f := facing (k / 64) (k / 32 % 2)
  modKey f.1 f.2 (k % 32)
def modPage (k : Nat) : Nat := pgD2d (k / 64) (k / 32 % 2)
/-- In service: brought up, FULL or HALF, and not on its way out (R324, R326). -/
def inService (d : Dev) (k : Nat) : Bool :=
  let m := getMod d k
  m.live && decide (m.mstate.toNat ≤ 1) && !m.leaving
/-- A retrain runs on the module, at either end. -/
def modRetrains (d : Dev) (k : Nat) : Bool := (getMod d k).retraining || (getMod d (facingMod k)).retraining
def serviceList (d : Dev) (s e : Nat) : List (Fin 32) :=
  (List.range 32).filterMap (fun m => if inService d (modKey s e m) then some (Fin.ofNat 32 m) else none)

/-- The steering table: entry i names the (i mod m)-th module in service (R317). -/
def writeTable (d : Dev) (s e : Nat) : Dev :=
  let l := serviceList d s e
  let t := if l = [] then [] else (List.range 32).map (fun i => l.getD (i % l.length) 0)
  putEdge d (edgeKey s e) { getEdge d (edgeKey s e) with table := t }

/-- XOR of the 5-bit digits of a number of up to 40 bits. -/
def fold5 (x : Nat) : Nat := (List.range 8).foldl (fun acc i => acc ^^^ fld x (5 * i) 5) 0
/-- The steering key (R317). -/
def steerKey (p : Packet) : Nat :=
  let t := p.typ.toNat
  if t = 5 ∨ t = 6 ∨ t = 7 then fold5 (p.dst.toNat + 2 ^ 16 * p.src.toNat + 2 ^ 32 * fld p.tspec.toNat 0 8)
  else fold5 (fld p.addr.toNat 12 28)

/-- The bits of a flit on the logical lanes of its module: bit 64u + j on lane j at ×64, bit 32u + j on the j-th lane of the active half at
×32, in unit interval u (R314). -/
def d2dLanes (half upper : Bool) (flit : Nat) : List (Nat × W64) :=
  let n := if half then 32 else 64
  (List.range n).map (fun j => (j + (if half && upper then 32 else 0),
    BitVec.ofNat 64 ((List.range (2048 / n)).foldl (fun w u => w + fld flit (n * u + j) 1 * 2 ^ u) 0)))
/-- A die-to-die flit header (R314). -/
def d2dHeader (seq ack : Nat) (nak idle : Bool) (vc : Nat) (rclass sop eop : Bool) (len cpool credits : Nat) : W64 :=
  BitVec.ofNat 64 (seq % 4096 + 2 ^ 12 * (ack % 4096) + 2 ^ 24 * nak.toNat + 2 ^ 25 * idle.toNat + 2 ^ 26 * vc + 2 ^ 28 * rclass.toNat
    + 2 ^ 29 * sop.toNat + 2 ^ 30 * eop.toNat + 2 ^ 32 * len + 2 ^ 40 * cpool + 2 ^ 44 * (credits % 256))
def pad (n : Nat) (bs : List Byte) : List Byte := (bs ++ List.replicate n 0).take n
/-- The check of a flit: CRC-32C over bytes 0 to 251 (R314, R338). -/
def flitCrc (h : W64) (body : List Byte) : Nat := crc32c (toBytes 8 h.toNat ++ pad 244 body)

/-- INJECT of an edge page for a flit of module m (R332). -/
def injectMod (d : Dev) (k dir : Nat) : Bool × Dev :=
  let a := modPage k
  let pt := fld (regN d (a + oInject)) 17 3
  if pt = 1 ∧ fld (regN d (a + 0xF00)) 0 5 ≠ k % 32 then (false, d)
  else
    let r := injectUnit d a dir
    (r.1.isSome, r.2)

/-- A flit on the lanes of its module. -/
def d2dEmit (d : Dev) (k : Nat) (h : W64) (body : List Byte) (c : Nat) : Dev :=
  let m := getMod d k
  emit d (.d2dFlit k h (pad 244 body) (BitVec.ofNat 32 c)
    (d2dLanes (m.mstate == 1) m.upper (ofBytes (toBytes 8 h.toNat ++ pad 244 body ++ toBytes 4 c))))
/-- A data flit leaves on a module. -/
def d2dPut (d : Dev) (k : Nat) (h : W64) (body : List Byte) : Dev :=
  let inj := injectMod d k 0
  let c := flitCrc h body
  d2dEmit (countEvt inj.2 (modPage k) 0x1000 (k % 32) 1) k h body (if inj.1 then 2 ^ 32 - 1 - c else c)
/-- The SEQ of the last data flit a module has accepted. -/
def d2dAck (m : Module) : Nat := (m.expect - 1).toNat
/-- An idle flit: ACK, NAK and returned credits. -/
def d2dIdle (d : Dev) (k : Nat) (nak : Bool) (cpool credits : Nat) : Dev :=
  let h := d2dHeader 0 (d2dAck (getMod d k)) nak true 0 false false false 0 cpool credits
  d2dEmit d k h [] (flitCrc h [])

/-- The pieces of a byte list, `n` bytes each. -/
def chunksOf (n : Nat) : Nat → List Byte → List (List Byte)
  | 0, _ => []
  | fuel + 1, bs => if bs = [] then [] else bs.take n :: chunksOf n fuel (bs.drop n)
def d2dChunks (p : Packet) : List (List Byte) := let b := pktBytes p; chunksOf 244 (b.length + 1) b

/-- A packet enters a module's replay buffer flit by flit and leaves. -/
def modSend (d : Dev) (k : Nat) (x : Held) : Dev :=
  let cs := d2dChunks x.pkt
  let pno := (getMod d k).sendSeq.toNat
  (List.range cs.length).foldl (fun d i =>
    let m := getMod d k
    let c := cs.getD i []
    let h := d2dHeader m.sendSeq.toNat (d2dAck m) false false (pktVc x.pkt) x.later (i == 0) (i + 1 == cs.length) c.length 0 0
    let d := putMod d k { m with sendSeq := m.sendSeq + 1, replay := m.replay ++ [⟨h, c, 0, pno, x.pkt, x.later, x.arrival⟩] }
    d2dPut d k h c) d

def poolOf (vc : Nat) (c : Bool) : Nat := 2 * vc + c.toNat

/-- Whether an edge can start a packet now, and on which module (R315, R317, R318, R322). -/
def edgeModule (d : Dev) (s e : Nat) (rclass : Bool) (p : Packet) : Option Nat :=
  let ed := getEdge d (edgeKey s e)
  match ed.table[steerKey p]? with
  | none => none
  | some m =>
    let k := modKey s e m.val
    if running d (pgD2d s e) ∧ !ed.quiescing ∧ !d.board.routeChange ∧ inService d k ∧ !modRetrains d k
        ∧ pktUnits p ≤ sget zeroNat ed.credits (poolOf (pktVc p) rclass)
        ∧ (getMod d k).replay.length + (d2dChunks p).length ≤ 64 then some k else none

/-- Offer a packet to an edge: it starts, or waits behind the packets of its VC and class that wait (R317, R318). (DEDUCED, log entry 17) -/
def edgeOffer (d : Dev) (s e : Nat) (x : Held) : Dev :=
  let ek := edgeKey s e
  let ed := getEdge d ek
  let hold : Dev := putEdge d ek { ed with heldPkts := ed.heldPkts ++ [x] }
  if ed.heldPkts.any (fun h => h.later == x.later && pktVc h.pkt == pktVc x.pkt) then hold
  else match edgeModule d s e x.later x.pkt with
    | none => hold
    | some k =>
      let pool := poolOf (pktVc x.pkt) x.later
      modSend (putEdge d ek { ed with credits := sput zeroNat ed.credits pool (sget zeroNat ed.credits pool - pktUnits x.pkt) }) k x

/-- Offer every waiting packet of an edge again, in order. (DEDUCED, log entry 17) -/
def edgeFlush (d : Dev) (s e : Nat) : Dev :=
  let ek := edgeKey s e
  let l := (getEdge d ek).heldPkts
  l.foldl (fun d x => edgeOffer d s e x) (putEdge d ek { getEdge d ek with heldPkts := [] })

/-! ## Between dies (R325) -/

def routeOf (d : Dev) (s x : Nat) : Nat := fld (regN d (pgD2d s 2 + 0x840)) (2 * x) 2
/-- An edge that has not left STARTING since PWR_OK, or is STARTING again. -/
def edgeStarting (d : Dev) (s e : Nat) : Bool :=
  let st := ownState d (pgD2d s e)
  st == stStarting || (st == stOff && !(getEdge d (edgeKey s e)).left)
def noHeld (_ : Nat) : List Held := []
def holdAtDie (d : Dev) (s : Nat) (x : Held) : Dev :=
  { d with relayHeld := sput noHeld d.relayHeld s (sget noHeld d.relayHeld s ++ [x]) }

/-- Send a packet from die s toward site x. (DEDUCED, log entry 37) -/
def siteSend (dead : DeadFn) (d : Dev) (s : Nat) (h : Held) (x egr : Nat) : Dev :=
  let r := routeOf d s x
  if d.board.routeChange then holdAtDie d s h
  else if dieUp d x ∧ (r = 1 ∨ r = 2) then edgeOffer d s (r - 1) h
  else if edgeStarting d s 0 ∨ edgeStarting d s 1 then holdAtDie d s h
  else dead d s h.pkt 6 h.arrival egr

/-! ## Ports (R338 to R343) -/

/-- A fabric flit header (R338). -/
def portHeader (seq ack : Nat) (nak idle gend : Bool) (vc : Nat) (vcc sop eop : Bool) (len cpool credits : Nat) : W64 :=
  BitVec.ofNat 64 (seq % 4096 + 2 ^ 12 * (ack % 4096) + 2 ^ 24 * nak.toNat + 2 ^ 25 * idle.toNat + 2 ^ 26 * gend.toNat + 2 ^ 27 * vc
    + 2 ^ 29 * vcc.toNat + 2 ^ 30 * sop.toNat + 2 ^ 31 * eop.toNat + 2 ^ 32 * len + 2 ^ 40 * cpool + 2 ^ 44 * (credits % 2048))

/-- The postmark page of a package port (R371: 0 to 11 the die's ports, 12 its twin port). -/
def pgPortMark (n : Nat) : Nat := pgPostmark (siteOfPort n) (if n < 48 then n % 12 else 12)
def inverted (bs : List Byte) : List Byte := bs.map (fun b => ~~~ b)

/-- A flit and its error correction on the lanes of a port (R333 to R335). -/
def portEmit (d : Dev) (n : Nat) (h : W64) (body : List Byte) (c : Nat) : Dev :=
  let st := regN d (pgOfPort n + 0x840)
  let flit := toBytes 8 h.toNat ++ body ++ toBytes 4 c
  let par := frameParity flit
  emit d (.flit n h body (BitVec.ofNat 32 c) par (frameLanes (fld st 4 3) (tbit st 7) (flit ++ par)))
/-- One data flit leaves on a port: INJECT may invert a group's tag (R367) and the check (R379). -/
def portPut (d : Dev) (n : Nat) (h : W64) (body : List Byte) : Dev :=
  let gend := tbit h.toNat 26
  let t := if gend then injectUnit d (pgOfPort n) 0 else (none, d)
  let body := pad 244 body
  let body := if t.1.isSome then body.take 228 ++ inverted (body.drop 228) else body
  let c := flitCrc h body
  let i := injectUnit t.2 (pgPortMark n) 0
  let d := if i.1.isSome then incSat i.2 (pgPortMark n + 0x834) else i.2
  portEmit (countEvt d (pgOfPort n) 0x1000 0 1) n h body (if i.1.isSome then 2 ^ 32 - 1 - c else c)

/-- The last SEQ a port has accepted, as its ACK field gives it (R341): the end of its last verified group. -/
def portAck (p : Port) : Nat := p.lastAcc.toNat
/-- An idle flit: ACK, NAK and returned credits (R339, R341). -/
def portIdle (d : Dev) (n : Nat) (nak : Bool) (cpool credits : Nat) : Dev :=
  let h := portHeader 0 (portAck (getPort d n)) nak true false 0 false false false 0 cpool credits
  portEmit (countEvt d (pgOfPort n) 0x1002 0 1) n h (pad 244 []) (flitCrc h [])

/-- A direction at a group boundary: after 2^28 groups it switches to the next epoch (R137). -/
def dirStart (k : DirKeys) (refresh : List Byte) (dir : Nat) : DirKeys :=
  if k.groups < 2 ^ 28 then k
  else
    let msg := ascii [67, 84, 71, 45, 82, 69, 75, 69, 89] ++ toBytes 1 dir ++ toBytes 4 (k.epoch.toNat + 1)
    { key := BitVec.ofNat 128 (hmacSm3 refresh msg).toNat, salt := k.salt, groups := 0, epoch := k.epoch + 1 }
def groupIv (k : DirKeys) : BitVec 96 := BitVec.ofNat 96 (k.salt.toNat + 2 ^ 32 * k.groups)

/-- A flit before it is sealed. -/
structure Planned where
  seq : Nat
  gend : Bool
  sop : Bool
  eop : Bool
  chunk : List Byte
  pno : Nat
  pkt : Packet
  arrival : Nat
  deriving DecidableEq, Repr

def nextSeq (seq : Nat) (gend : Bool) : Nat := (if gend then (seq / 16 + 1) * 16 else seq + 1) % 4096

/-- The flits of one packet (R338, R340): the flit at 15 of its group, and the last flit of the last packet, end a group. -/
def planPacket (x : Held) (last : Bool) (pno : Nat) : Nat → Nat → Bool → List Byte → List Planned
  | 0, _, _, _ => []
  | fuel + 1, seq, sop, bs =>
    if bs = [] then []
    else
      let full := seq % 16 == 15
      let cap := if full || (last && decide (228 < bs.length) && decide (bs.length ≤ 244)) then 228 else 244
      let rest := bs.drop cap
      let gend := full || (last && rest == [])
      ⟨seq, gend, sop, rest == [], bs.take cap, pno, x.pkt, x.arrival⟩ :: planPacket x last pno fuel (nextSeq seq gend) false rest

/-- The flits of a list of packets sent one after the other. -/
def planAll : Nat → List Held → List Planned
  | _, [] => []
  | seq, x :: ps =>
    let b := pktBytes x.pkt
    let l := planPacket x ps.isEmpty seq (b.length + 1) seq true b
    let seq' := match l.getLast? with | some f => nextSeq f.seq f.gend | none => seq
    l ++ planAll seq' ps

/-- The groups of a flit list: each ends at a GEND flit. -/
def groupsOf (l : List Planned) : List (List Planned) :=
  let r := l.foldl (fun (acc : List (List Planned) × List Planned) f =>
    let g := acc.2 ++ [f]
    if f.gend then (acc.1 ++ [g], []) else (acc.1, g)) ([], [])
  if r.2 = [] then r.1 else r.1 ++ [r.2]

/-- Seal one group, put it into the replay buffer and send it (R137, R339). -/
def sendGroup (d : Dev) (n : Nat) (dir : Nat) (g : List Planned) : Dev :=
  let p := getPort d n
  match p.tx with
  | none => d
  | some k0 =>
    let k := dirStart k0 p.refresh dir
    let ack := portAck p
    let heads := g.map (fun f => portHeader f.seq ack false false f.gend (pktVc f.pkt) (pktVcc f.pkt) f.sop f.eop f.chunk.length 0 0)
    let plain := g.flatMap (fun f => pad (if f.gend then 228 else 244) f.chunk)
    let sealed := gcmSeal k.key (groupIv k) (heads.flatMap (fun h => toBytes 8 h.toNat)) plain
    let flits := (List.range g.length).map (fun i =>
      let body := pad 244 ((sealed.drop (244 * i)).take 244)
      match g[i]? with
      | some f => (⟨heads.getD i 0, body, 0, f.pno, f.pkt, false, f.arrival⟩ : ReplayFlit)
      | none => ⟨0, body, 0, 0, pktOf [], false, 63⟩)
    let seq' := match g.getLast? with | some f => nextSeq f.seq f.gend | none => p.sendSeq.toNat
    let d := putPort d n { p with tx := some { k with groups := k.groups + 1 }, sendSeq := BitVec.ofNat 12 seq', replay := p.replay ++ flits }
    flits.foldl (fun d f => portPut d n f.header f.body) d

/-- The side with the lower package ID is the initiator; package IDs come from the topology record (R135). Direction byte 0 is from the
initiator (R137). -/
def isInitiator (d : Dev) (n : Nat) : Bool :=
  match (getPort d n).topo with
  | some t => decide (selfId d (siteOfPort n) < t.peer.toNat)
  | none => false
def txDir (d : Dev) (n : Nat) : Nat := if isInitiator d n then 0 else 1

/-- A packet as it is sent on a port: VCC is 1 on a global link (R355, R356). -/
def asSent (port : Port) (p : Packet) : Packet :=
  match port.topo with
  | some t => if t.klass = 1 then setRoute p 3 1 1 else p
  | none => p
/-- The waiting packets a port can start now: each needs credit for the whole packet and room in the replay buffer, and none
overtakes another of its VC and class (R341, R343). Answers what starts, what waits and the credits left. -/
def portPick (port : Port) : List Held → Sparse Nat → Nat → List Held → List Held → List Held × List Held × Sparse Nat
  | [], cr, _, go, wait => (go, wait, cr)
  | x :: xs, cr, room, go, wait =>
    let p := asSent port x.pkt
    let pool := poolOf (pktVc p) (pktVcc p)
    let need := ceilDiv (32 + p.len.toNat) 228
    if wait.any (fun q => pktVc q.pkt == pktVc p && pktVcc (asSent port q.pkt) == pktVcc p) ∨ sget zeroNat cr pool < pktUnits p ∨ room < need then
      portPick port xs cr room go (wait ++ [x])
    else portPick port xs (sput zeroNat cr pool (sget zeroNat cr pool - pktUnits p)) (room - need) (go ++ [{ x with pkt := p }]) wait

/-- Send what can be sent on a port. -/
def portFlush (d : Dev) (n : Nat) : Dev :=
  let p := getPort d n
  if linkState d n ≠ lsUp ∨ p.tx.isNone ∨ p.held = [] then d
  else
    let r := portPick p p.held p.credits (256 - p.replay.length) [] []
    let d := putPort d n { p with held := r.2.1, credits := r.2.2 }
    (groupsOf (planAll p.sendSeq.toNat r.1)).foldl (fun d g => sendGroup d n (txDir d n) g) d

/-- A packet that travels in clear before READY (R339): its flits enter the replay buffer and leave. -/
def sendClear (d : Dev) (n : Nat) (p : Packet) : Dev :=
  let cs := d2dChunks p
  let pno := (getPort d n).sendSeq.toNat
  (List.range cs.length).foldl (fun d i =>
    let port := getPort d n
    let c := cs.getD i []
    let h := portHeader port.sendSeq.toNat (portAck port) false false false (pktVc p) false (i == 0) (i + 1 == cs.length) c.length 0 0
    portPut (putPort d n { port with sendSeq := port.sendSeq + 1, replay := port.replay ++ [⟨h, c, 0, pno, p, false, 63⟩] }) n h c) d

/-- A router hands a packet to a port of its die (R348, R355): an OFF or FENCED port is a dead letter, any other holds it. -/
def portOffer (dead : DeadFn) (d : Dev) (n : Nat) (x : Held) : Dev :=
  let st := ownState d (pgOfPort n)
  if st = stOff ∨ st = stFenced then dead d (siteOfPort n) x.pkt 2 x.arrival n
  else
    let port := getPort d n
    portFlush (putPort d n { port with held := port.held ++ [x] }) n

/-! ## Delivery within the package -/

/-- A packet that a die holds, on its way: to an agent of its die, to a port of its die, or on toward the die of either. -/
def forward (dead : DeadFn) (d : Dev) (s : Nat) (h : Held) (e : Egress) : Dev :=
  match e with
  | .dead r => dead d s h.pkt r h.arrival 63
  | .eject =>
    let x := fld h.pkt.dst.toNat 11 2
    if x = s then emit d (.eject s h.pkt)
    else siteSend dead d s h x 63
  | .port n =>
    if siteOfPort n = s then portOffer dead d n h
    else
      let st := ownState d (pgOfPort n)
      if dieUp d (siteOfPort n) ∧ (st = stOff ∨ st = stFenced) then dead d s h.pkt 2 h.arrival n
      else siteSend dead d s h (siteOfPort n) n

/-- The router of a die decides (R355). `arrival` is the package port a packet came by, 63 for this package. (DEDUCED, log entry 37) -/
def routeWith (dead : DeadFn) (d : Dev) (s arrival : Nat) (p : Packet) : Dev :=
  let d := countEvt d (pgRouter s) 0x1000 (pktVc p) 1
  if badHeader p then dead d s p 5 arrival 63
  else
    let r := egress d s p
    let q := setRoute r.2 4 4 (pktHops p + 1)
    let chose := !tbit p.route.toNat 2 && tbit q.route.toNat 2 && adapted d s q
    let d := if chose then countEvt (incSat d (pgRouter s + 0xA04)) (pgRouter s) 0x1001 0 1 else d
    forward dead d s ⟨decide (arrival ≠ 63), q, arrival⟩ r.1

/-- The failed response that a READ or a WRITE gets, on its way to the source; one that cannot be delivered itself gets none (R360). -/
def errorAnswer (d : Dev) (s : Nat) (p : Packet) : Dev :=
  if p.typ = 1 ∨ p.typ = 2 then
    routeWith deadRecorded d s 63
      { p with dst := p.src &&& 0x1FFF, src := BitVec.ofNat 16 (selfId d s + 2048 * s)
               typ := if p.typ = 1 then 3 else 4, flags := 2, len := 0, addr := p.addr &&& 0xFFFFFFFFFF, route := 0, tspec := 0, body := [] }
  else d
/-- A dead letter, and the answer to its request (R360). -/
def deadLetter : DeadFn := fun d s p reason arrival egr => errorAnswer (deadRecorded d s p reason arrival egr) s p

/-- PACKET_ROUTE. -/
def packetRoute (d : Dev) (s : Nat) (arrival : Nat) (p : Packet) : Dev := routeWith deadLetter d s arrival p

/-- Packets that a die holds for want of a route are sent again (R325, R326). (DEDUCED, log entry 37) -/
def dieFlush (d : Dev) (s : Nat) : Dev :=
  let l := sget noHeld d.relayHeld s
  l.foldl (fun d h => forward deadLetter d s h (egress d s (setRoute h.pkt 4 4 0)).1) { d with relayHeld := sput noHeld d.relayHeld s [] }

/-- A packet arrives at a die over an edge: for this die's agents or ports, or relayed in RCLASS 1 (R325). -/
def d2dArrive (d : Dev) (s arrival : Nat) (p : Packet) : Dev :=
  let e := (egress d s (setRoute p 4 4 0)).1
  let here := match e with | .eject => fld p.dst.toNat 11 2 == s | .port n => siteOfPort n == s | .dead _ => true
  let d := if here then d else countEvt (incSat d (pgD2d s 2 + 0x844)) (pgD2d s 2) 0x1003 0 1
  forward deadLetter d s ⟨true, p, arrival⟩ e

/-- Routers of the package exchange the free credits of all their ports (R357). -/
def creditExchange (d : Dev) : Dev :=
  { d with creditSeen := (List.range 50).foldl (fun m n => sput zeroNat m n (sget zeroNat (getPort d n).credits 4)) d.creditSeen }

end Sys2Proof.Machine
end

