-- ==== Sys2Proof/Machine/Image.lean ====
section
/-!
DEFINITION. Certificates and the byte layouts of chapter 5 and R350: signed images (R125, R126), job images and their sections (R139,
R140), topology records (R350), checkpoint segments (R143, R144), debug tokens (R146), and the operating-point table and envelope (R489).
A signature "over the SM3 digest" of bytes signs the 32 bytes of that digest (DEDUCED, log entry 3).
-/
namespace Sys2Proof.Machine

def allZero (bs : List Byte) : Bool := bs.all (· == 0)

/-! ## Certificates and signed images (R125, R126, R132) -/

/-- A certificate signed by the holder of a key: SM2 over its signed part (R132). -/
def certBy (issuer : Point) (c : Cert) : Bool := c.key.length == 64 && sm2Verify issuer c.tbs c.sig

def imgCertLen (x : SignedImage) : Nat := bytesAt x.bytes 16 4
def imgBodyLen (x : SignedImage) : Nat := bytesAt x.bytes 12 4
def imgSvn (x : SignedImage) : W32 := BitVec.ofNat 32 (bytesAt x.bytes 8 4)
def imgRoot (x : SignedImage) : List Byte := bytesFrom x.bytes 64 64
/-- The body follows the certificate, which is padded to a multiple of 8 bytes. (DEDUCED, log entry 3) -/
def imgBodyAt (x : SignedImage) : Nat := 128 + 8 * ceilDiv (imgCertLen x) 8
def imgBody (x : SignedImage) : List Byte := bytesFrom x.bytes (imgBodyAt x) (imgBodyLen x)
/-- The bytes before SIG, their digest and SIG. -/
def imgSigned (x : SignedImage) : List Byte := x.bytes.take (imgBodyAt x + imgBodyLen x)
def imgDigest (x : SignedImage) : Digest := sm3 (imgSigned x)
def imgSig (x : SignedImage) : List Byte := x.bytes.drop (imgBodyAt x + imgBodyLen x)

def rollback (d : Dev) (k : Nat) : W32 := sget zero32 d.flash.counters k
/-- MAGIC, HDR_VER, TYPE, lengths and SVN are as expected of an image of a type (R125, R126). -/
def imgHeadOk (d : Dev) (typ : Nat) (x : SignedImage) : Bool :=
  bytesAt x.bytes 0 4 == 0x47495343 && bytesAt x.bytes 4 2 == typ && bytesAt x.bytes 6 2 == 1
  && decide (1 ≤ imgCertLen x) && decide (imgCertLen x ≤ 2048) && x.bytes.length == imgBodyAt x + imgBodyLen x + 64
  && decide ((rollback d (typ - 1)).toNat ≤ (imgSvn x).toNat) && (decide (3 < typ) || imgBodyLen x != 0)
/-- CERT is a certificate of the vendor root whose key-purpose extension names TYPE. -/
def imgCertOk (d : Dev) (typ : Nat) (x : SignedImage) : Bool :=
  sm3 (imgRoot x) == d.rootDigest && bytesFrom x.bytes 128 (imgCertLen x) == x.cert.der && x.cert.purposes.contains typ
  && certBy (pointOf (imgRoot x)) x.cert
/-- A verifier accepts an image of the expected type (R126). -/
def imageOk (d : Dev) (typ : Nat) (x : SignedImage) : Bool :=
  imgHeadOk d typ x && imgCertOk d typ x && sm2Verify (pointOf x.cert.key) (digestBytes (imgDigest x)) (imgSig x)
/-- The vendor root key, as the build record that boot has verified carries it. (DEDUCED, log entry 44) -/
def rootKey (d : Dev) : Point := pointOf (imgRoot d.flash.buildRecord)

/-! ## The envelope (R489) -/

def envBody (d : Dev) : List Byte := imgBody d.flash.envelope
def envSerial (d : Dev) : Nat := bytesAt (envBody d) 0 8
def pkgMinW (d : Dev) : Nat := bytesAt (envBody d) 8 2
def pkgMaxW (d : Dev) : Nat := bytesAt (envBody d) 10 2
def dieMinW (d : Dev) : Nat := bytesAt (envBody d) 12 2
def dieMaxW (d : Dev) : Nat := bytesAt (envBody d) 14 2
def throttleMaxC (d : Dev) : Nat := bytesAt (envBody d) 16 1
/-- A cluster's entry: voltage range in mV, highest frequency in 50 MHz units, margin floors in ps. -/
structure EnvEntry where
  vmin : Nat
  vmax : Nat
  fmax : Nat
  floorPs : Nat
  critPs  : Nat
  deriving DecidableEq, Repr
def envOf (d : Dev) (i : Nat) : EnvEntry :=
  let e := bytesFrom (envBody d) (64 + 8 * i) 8
  ⟨bytesAt e 0 2, bytesAt e 2 2, bytesAt e 4 1, bytesAt e 5 1, bytesAt e 6 1⟩

/-! ## Operating-point tables (R489) -/

/-- A proposal in the command buffer: none where its length or a field that has one value is wrong. -/
def tableOf (bs : List Byte) : Option OpTable :=
  let entry (i : Nat) : List Byte := bytesFrom bs (64 + 8 * i) 8
  if bs.length = 576 ∧ bytesAt bs 0 4 = 0x54504F43 ∧ allZero (bytesFrom bs 16 48)
      ∧ (List.range 64).all (fun i => allZero ((entry i).drop 3)) then
    some { baseGen := BitVec.ofNat 32 (bytesAt bs 4 4), serial := BitVec.ofNat 64 (bytesAt bs 8 8)
           entries := (List.range 64).map (fun i => (BitVec.ofNat 16 (bytesAt (entry i) 0 2), BitVec.ofNat 8 (bytesAt (entry i) 2 1))) }
  else none

/-! ## Topology records (R350) -/

def topoEntryOf (e : List Byte) : TopoEntry :=
  { peer := BitVec.ofNat 11 (bytesAt e 0 2), present := tbit (bytesAt e 0 2) 15, peerPort := BitVec.ofNat 8 (bytesAt e 2 1)
    klass := BitVec.ofNat 8 (bytesAt e 3 1), peerDevid := digestOf (bytesFrom e 32 32) }
/-- The record that 3,264 bytes spell; none for a wrong MAGIC or VERSION or a reserved field that is not zero. -/
def topoOf (bs : List Byte) : Option Topology :=
  let entry (n : Nat) : List Byte := bytesFrom bs (64 + 64 * n) 64
  if bs.length = 3264 ∧ bytesAt bs 0 4 = 0x4F505443 ∧ bytesAt bs 4 2 = 1 ∧ bytesAt bs 6 2 < 2048 ∧ bytesAt bs 8 1 < 2
      ∧ allZero (bytesFrom bs 9 55) ∧ (List.range 50).all (fun n => fld (bytesAt (entry n) 0 2) 11 4 == 0 && allZero (bytesFrom (entry n) 4 28)) then
    some { ownId := BitVec.ofNat 11 (bytesAt bs 6 2), twin := bytesAt bs 8 1 == 1
           entries := (List.range 50).map (fun n => topoEntryOf (entry n)), digest := sm3 bs }
  else none

/-! ## Job images (R139, R140) -/

def jbWraps (bs : List Byte) : Nat := bytesAt bs 8 4
def jbSections (bs : List Byte) : Nat := bytesAt bs 12 4
def jbPayloadLen (bs : List Byte) : Nat := bytesAt bs 16 8
def jbLevel (bs : List Byte) : Nat := bytesAt bs 6 1
def jbTwin (bs : List Byte) : Bool := tbit (bytesAt bs 7 1) 0
def jbOwner (bs : List Byte) : Point := pointOf (bytesFrom bs 64 64)
def jbJobId (bs : List Byte) : BitVec 128 := BitVec.ofNat 128 (bytesAt bs 128 16)
def jbWrap (bs : List Byte) (i : Nat) : List Byte := bytesFrom bs (192 + 176 * i) 176
def jbPayloadAt (bs : List Byte) : Nat := 192 + 176 * jbWraps bs
def jbPayload (bs : List Byte) : List Byte := bytesFrom bs (jbPayloadAt bs) (jbPayloadLen bs)
def jbTagAt (bs : List Byte) : Nat := jbPayloadAt bs + jbPayloadLen bs
def jbTag (bs : List Byte) : List Byte := bytesFrom bs (jbTagAt bs) 16
/-- Every byte before OWNER_SIG, the image digest over them, and OWNER_SIG. -/
def jbSigned (bs : List Byte) : List Byte := bs.take (jbTagAt bs + 16)
def jbDigest (bs : List Byte) : Digest := sm3 (jbSigned bs)
def jbSig (bs : List Byte) : List Byte := bytesFrom bs (jbTagAt bs + 16) 64
/-- MAGIC, VERSION and the fields that are 0, those of the wrap entries among them. (DEDUCED, log entry 28) -/
def jbHeadOk (bs : List Byte) : Bool :=
  decide (192 ≤ bs.length) && bytesAt bs 0 4 == 0x494A5443 && bytesAt bs 4 2 == 1 && decide (bytesAt bs 7 1 < 2) && decide (jbWraps bs ≤ 2048)
  && allZero (bytesFrom bs 36 28) && allZero (bytesFrom bs 144 48)
  && (List.range (jbWraps bs)).all (fun i => allZero (bytesFrom (jbWrap bs i) 34 14) && allZero (bytesFrom (jbWrap bs i) 161 15))
/-- OWNER_SIG verifies under OWNER_KEY. -/
def jbSigOk (bs : List Byte) : Bool := sm2Verify (jbOwner bs) (digestBytes (jbDigest bs)) (jbSig bs)
/-- The job key that a wrap entry holds for a private key (R139). -/
def jbUnwrap (priv : Nat) (w : List Byte) : Option Key := (sm2Decrypt priv (bytesFrom w 48 113)).map (fun k => BitVec.ofNat 128 (ofBytes k))
/-- The package ID of a wrap entry. -/
def wrapId (w : List Byte) : BitVec 11 := BitVec.ofNat 11 (bytesAt w 32 2)
/-- The plaintext of the payload, where its tag verifies. -/
def jbOpen (key : Key) (bs : List Byte) : Option (List Byte) :=
  gcmOpen key (BitVec.ofNat 96 (bytesAt bs 24 12)) (bs.take 192) (jbPayload bs) (jbTag bs)

/-- A section of the payload: its code, TARGET and data. -/
structure Section where
  typ    : Nat
  target : Nat
  data   : List Byte
  deriving DecidableEq, Repr
/-- `n` sections of a payload; none where it ends before them, a code is invalid or bytes 2 to 3 of a header are not 0.
(DEDUCED, log entry 28) -/
def sectionsOf : Nat → List Byte → Option (List Section)
  | 0, _ => some []
  | n + 1, bs =>
    let len := bytesAt bs 4 4
    let typ := bytesAt bs 0 2
    if bs.length < 16 + len ∨ bytesAt bs 2 2 ≠ 0 ∨ typ = 0 ∨ 9 < typ then none
    else (sectionsOf n (bs.drop (16 + 16 * ceilDiv len 16))).map (fun l => ⟨typ, bytesAt bs 8 8, bytesFrom bs 16 len⟩ :: l)

/-- What a job image declares once it is opened: twin mode, plane level and its sections that have an effect (R140). -/
structure Plan where
  twin  : Bool
  level : Nat
  secs  : List Section
  deriving DecidableEq, Repr
/-- The plan of an opened image: a section of LENGTH 0 has no effect. -/
def planOfImage (bs plain : List Byte) : Option Plan :=
  (sectionsOf (jbSections bs) plain).map (fun l => ⟨jbTwin bs, jbLevel bs, l.filter (fun e => e.data != [])⟩)

/-- The bytes of the sections of a code, one after the other. -/
def planData (x : Plan) (typ : Nat) : List Byte := (x.secs.filter (fun e => e.typ == typ)).flatMap (·.data)
/-- Little-endian words of a byte string, `n` bytes each; a last one that is cut short ends at its bytes. -/
def wordsOf (n : Nat) (bs : List Byte) : List Nat := (List.range (ceilDiv bs.length n)).map (fun i => bytesAt bs (n * i) n)
/-- The address book section: 256 group entries, then member slots; what its data does not reach is 0. (DEDUCED, log entry 28) -/
def imgGroups (x : Plan) : List (Nat × BitVec 512) :=
  let l := wordsOf 64 ((planData x 1).take 16384)
  (List.range l.length).map (fun g => (g, BitVec.ofNat 512 (l.getD g 0)))
def imgSlots (x : Plan) : List (Nat × Nat) :=
  let l := wordsOf 4 (((planData x 1).drop 16384).take 262144)
  (List.range l.length).map (fun m => (m, l.getD m 0))
/-- A word of the mailbox table; what the section's data does not reach is 0. (DEDUCED, log entry 28) -/
def boxWord (x : Plan) (w : Nat) : Nat := bytesAt (planData x 2) (4 * w) 4
/-- The pairs of the page configuration: offset, then value. -/
def imgPairs (x : Plan) : List (Nat × Nat) :=
  (wordsOf 8 (planData x 3)).map (fun v => (v % 2 ^ 32, v / 2 ^ 32))
/-- The topology record: the last section that holds one. (DESIGN CHOICE, log entry 28) -/
def imgTopoBytes (x : Plan) : Option (List Byte) := ((x.secs.filter (fun e => e.typ == 4)).getLast?).map (·.data)
def imgTopo (x : Plan) : Option Topology := (imgTopoBytes x).bind topoOf
/-- Programs and initial data: address and bytes. -/
def imgLoads (x : Plan) : List (Nat × List Byte) := (x.secs.filter (fun e => e.typ == 5 || e.typ == 6 || e.typ == 7)).map (fun e => (e.target, e.data))
/-- The checkpoint that the job expects, and the checkpoint regions. -/
def imgRestore (x : Plan) : Option Nat := ((x.secs.filter (fun e => e.typ == 8)).getLast?).map (·.target)
def imgRegions (x : Plan) : List (Nat × Nat) := (x.secs.filter (fun e => e.typ == 9)).map (fun e => (e.target, bytesAt e.data 0 8))

/-! ## Debug tokens (R146) -/

def tokFeatures (t : List Byte) : W32 := BitVec.ofNat 32 (bytesAt t 8 4)
def tokEpoch (t : List Byte) : W32 := BitVec.ofNat 32 (bytesAt t 16 4)
/-- The signatures of a token: the authority key under the vendor root, the token under the authority key. -/
def tokSigned (root : Point) (t : List Byte) : Bool :=
  let authority := bytesFrom t 64 64
  sm2Verify root (sm3Bytes authority) (bytesFrom t 128 64) && sm2Verify (pointOf authority) (sm3Bytes (t.take 192)) (bytesFrom t 192 64)
/-- The fields of a token that do not depend on the package. -/
def tokHeadOk (t : List Byte) : Bool :=
  t.length == 256 && bytesAt t 0 4 == 0x4B544744 && bytesAt t 4 2 == 1 && bytesAt t 6 2 == 0 && allZero (bytesFrom t 20 12)

/-! ## Checkpoint segments (R143, R144) -/

/-- The key of a segment. -/
def ckptKey (key : Key) (jobId : BitVec 128) (c : Nat) (writer : List Byte) : Key :=
  BitVec.ofNat 128 (ofBytes ((digestBytes (hmacSm3 (toBytes 16 key.toNat)
    (ascii [67, 84, 71, 45, 67, 75, 80, 84] ++ toBytes 16 jobId.toNat ++ toBytes 8 c ++ writer))).take 16))
/-- The checkpoint number that a segment's header names. -/
def segNumber (bs : List Byte) : Nat := bytesAt bs 8 8
/-- The plaintext of a segment under a job key, where its header's MAGIC and its tag hold. -/
def segOpen (key : Key) (jobId : BitVec 128) (bs : List Byte) : Option (List Byte) :=
  let n := bytesAt bs 32 4
  if bytesAt bs 0 4 ≠ 0x50435443 ∨ bs.length ≠ 80 + n then none
  else gcmOpen (ckptKey key jobId (segNumber bs) (bytesFrom bs 48 16)) (BitVec.ofNat 96 (bytesAt bs 36 12)) (bs.take 64) (bytesFrom bs 64 n)
    (bytesFrom bs (64 + n) 16)

/-! ## Keys of this package (R127, R131, R132) -/

/-- The DeviceID: private key, public key, and the digest of the public key. -/
def devidPrivate (d : Dev) : Nat := sm2Private (hmacSm3 (digestBytes d.uds) (ascii [67, 84, 71, 45, 68, 69, 86, 73, 68]))
def devidPublic (d : Dev) : Point := sm2Public (devidPrivate d)
def devidDigest (d : Dev) : Digest := keyDigest (devidPublic d)
/-- The flash key of the device secret. -/
def flashKeyOf (d : Dev) : Digest := hmacSm3 (digestBytes d.uds) (ascii [67, 84, 71, 45, 70, 76, 65, 83, 72])
/-- The Alias key. -/
def aliasPrivate (d : Dev) : Nat := sm2Private d.sealU.aliasSeed
def aliasPublic (d : Dev) : Point := sm2Public (aliasPrivate d)
def aliasDigest (d : Dev) : Digest := keyDigest (aliasPublic d)
/-- A random number below the order of the curve, not 0. (DESIGN CHOICE, log entry 4) -/
def drawScalar (d : Dev) : Nat × Dev := ((Config.random d.free).toNat % (sm2N - 1) + 1, { d with free := d.free + 1 })

end Sys2Proof.Machine
end

