-- ==== Sys2Proof/Machine/Wear.lean ====
section
/-!
DEFINITION. Ageing and the wear ledger (chapter 18): measurement registers (R129), the operating-point table and its application
(R489, R490, R493, R494), monitor samples and guard bands (R487, R488, R491, R492), ledger records (R496 to R498).
-/
namespace Sys2Proof.Machine

/-! ## Measurement registers (R129) -/

def meas (d : Dev) (m : Nat) : Digest := sget noDigest d.sealU.meas m
def setMeas (d : Dev) (m : Nat) (v : Digest) : Dev := { d with sealU := { d.sealU with meas := sput noDigest d.sealU.meas m v } }
/-- Extend register m with a 32-byte value. -/
def extend (d : Dev) (m : Nat) (v : Digest) : Dev := setMeas d m (sm3 (digestBytes (meas d m) ++ digestBytes v))

/-! ## The table in force (R489, R490) -/

/-- The voltage and frequency of a cluster in a table that lists none (DESIGN CHOICE, log entry 10). -/
def voltDefault (_ : Nat) : BitVec 16 := 750
def freqDefault (_ : Nat) : Byte := 48
def tableVolt (d : Dev) (i : Nat) : Nat := (sget voltDefault d.flash.volts i).toNat
def tableFreq (d : Dev) (i : Nat) : Nat := (sget freqDefault d.flash.freqs i).toNat
def guardOf (d : Dev) (i : Nat) : Nat := sget zeroNat d.board.guards i
def setGuard (d : Dev) (i g : Nat) : Dev := { d with board := { d.board with guards := sput zeroNat d.board.guards i g } }

/-- The 576 bytes of a table body. -/
def tableBody (baseGen : Nat) (serial : Nat) (entry : Nat → Nat × Nat) : List Byte :=
  toBytes 4 0x54504F43 ++ toBytes 4 baseGen ++ toBytes 8 serial ++ List.replicate 48 0
  ++ (List.range 64).flatMap (fun i => toBytes 2 (entry i).1 ++ toBytes 1 (entry i).2 ++ List.replicate 5 0)
/-- The digest of the table in force. (DEDUCED, log entry 42) -/
def tableDigest (d : Dev) : Digest :=
  sm3 (tableBody (d.flash.gen.toNat - 1) d.flash.build.serial.toNat (fun i => (tableVolt d i, tableFreq d i)))

def ageReg (i off : Nat) : Nat := pgAgemon (i / 16) + off + 0x10 * (i % 16)
/-- OPc of a cluster: FREQ, VOLT, GUARD, DROP_PENDING (R499). -/
def opReg (i : Nat) : Nat := ageReg i 0x82C
def dropPending (d : Dev) (i : Nat) : Bool := tbit (regN d (opReg i)) 24
/-- Show a cluster's table entry and guard on its AGEMON page. -/
def showOp (d : Dev) (i : Nat) (drop : Bool) : Dev :=
  setRegN d (opReg i) (fld (tableFreq d i) 0 6 + 2 ^ 8 * fld (tableVolt d i) 0 12 + 2 ^ 20 * fld (guardOf d i) 0 4 + 2 ^ 24 * drop.toNat)
/-- Show the operating points of a die. -/
def showDie (d : Dev) (s : Nat) : Dev := (List.range 16).foldl (fun d c => showOp d (16 * s + c) (dropPending d (16 * s + c))) d
/-- The table in force and the guard bands of the ledger's latest records reach the clusters of a die (step 4 of R75, R492). -/
def applyDie (d : Dev) (s : Nat) : Dev :=
  showDie ((List.range 16).foldl (fun d c => setGuard d (16 * s + c) (sget zeroNat d.flash.guards (16 * s + c))) d) s

/-! ## Ledger records (R496 to R498) -/

def bootCount (d : Dev) : Nat := (sget zero32 d.flash.counters 6).toNat
def serviceCount (d : Dev) : Nat := 2 * d.clock
/-- The package compatibility level: PKG_LEVEL, which every die that has it holds alike (R34). -/
def pkgLevel (d : Dev) : Nat := (List.range 4).foldl (fun m s => max m (fld (regN d (pgDie s + 0x804)) 8 8)) 0

/-- A record: header, body, and CHECK over both with CHECK as 0. -/
def wearBytes (d : Dev) (kind len : Nat) (body : List Byte) : List Byte :=
  let head := toBytes 4 0x52414557 ++ toBytes 2 1 ++ toBytes 2 kind ++ toBytes 4 len ++ toBytes 4 (bootCount d)
    ++ toBytes 8 (serviceCount d) ++ toBytes 8 d.flash.nextRecord.toNat ++ toBytes 8 d.flash.life.toNat
    ++ toBytes 1 (pkgLevel d) ++ List.replicate 15 0
  let body := (body ++ List.replicate (len - 64) 0).take (len - 64)
  head ++ toBytes 8 (crc64 (head ++ List.replicate 8 0 ++ body)) ++ body

/-- Oldest records leave when the 32 MiB ring is full. -/
def ringTrim : Nat → List (List Byte) → List (List Byte)
  | 0, l => l
  | n + 1, l =>
    match l with
    | [] => []
    | _ :: r => if 2 ^ 25 < (l.map List.length).foldl (· + ·) 0 then ringTrim n r else l
def wearAppend (d : Dev) (r : List Byte) : Dev :=
  { d with flash := { d.flash with ledger := ringTrim 46 (d.flash.ledger ++ [r]), nextRecord := d.flash.nextRecord + 1 } }

/-- An EVENT record. -/
def wearEvent (d : Dev) (a cls code : Nat) : Dev :=
  match pageAt a with
  | none => d
  | some l =>
    wearAppend d (wearBytes d 2 128 (toBytes 2 (0x1000 * cls + code) ++ toBytes 2 l.typ.code ++ toBytes 1 (if l.inBase then 0xFF else l.site)
      ++ [0] ++ toBytes 2 l.inst ++ toBytes 4 (regN d (a + oInfo0)) ++ toBytes 4 (regN d (a + oInfo1))))

/-! ## Sensors (R87): readings held by number, the hottest since the last PERIODIC record beside them -/

def sensorKey : Sensor → Nat
  | .cluster s c => 16 * s.val + c.val
  | .base i => 64 + i.val
  | .stack s => 68 + s.val
def reading (d : Dev) (k : Nat) : Nat := sget zeroNat d.board.therm k
def hottestKey (k : Nat) : Nat := 128 + k

/-- Two bytes of a signed value. -/
def signed2 (x : Int) : List Byte := toBytes 2 (x % 65536).toNat

/-- The cluster entry of R497. -/
def clusterEntry (d : Dev) (i : Nat) : List Byte :=
  if !dieUp d (i / 16) ∨ ownState d (pgCluster (i / 16) (i % 16)) = stFenced then List.replicate 16 0
  else
    toBytes 4 (regN d (ageReg i 0x820)) ++ toBytes 4 (regN d (ageReg i 0x824)) ++ toBytes 2 (regN d (ageReg i 0x828))
    ++ toBytes 2 (tableVolt d i) ++ toBytes 1 (tableFreq d i) ++ toBytes 1 (guardOf d i) ++ toBytes 2 (reading d (hottestKey i))

/-- The module entry of R497: the worst margins of the last lane test, spares in use, state. -/
def moduleEntry (d : Dev) (k : Nat) : List Byte :=
  if !dieUp d (k / 64) ∨ ownState d (pgD2d (k / 64) (k / 32 % 2)) = stFenced then List.replicate 4 0
  else
    let m := getMod d k
    let lanes := (List.range 68).map (fun l => (Config.laneMargin m.tests k l).toNat)
    let used := ((List.range 4).filter (fun s => fld m.spares.toNat (8 * s) 8 != 0xFF)).length
    toBytes 1 ((lanes.map (fun x => fld x 0 8)).foldl min 255) ++ toBytes 1 ((lanes.map (fun x => fld x 8 8)).foldl min 255)
    ++ toBytes 1 used ++ toBytes 1 m.mstate.toNat

def stackCorrected (d : Dev) (i : Nat) : Nat := regN d (pgHbmc (i / 3) (i % 3) + oCcount)
def stackPoisoned (d : Dev) (i : Nat) : Nat := regN d (pgHbmc (i / 3) (i % 3) + 0x824)
/-- The stack entry of R497. -/
def stackEntry (d : Dev) (i : Nat) : List Byte :=
  let a := pgHbmc (i / 3) (i % 3)
  if !dieUp d (i / 3) ∨ ownState d a = stFenced ∨ !tbit (regN d (a + 0x820)) 0 then List.replicate 16 0
  else
    toBytes 2 (Config.stackMargin i).toNat ++ toBytes 4 (stackCorrected d i - sget zeroNat d.board.wearSince i)
    ++ toBytes 4 (stackPoisoned d i - sget zeroNat d.board.wearSince (16 + i)) ++ toBytes 2 (reading d (hottestKey (68 + i))) ++ List.replicate 4 0

/-- The ring-heater drift of a lane. -/
def driftEntry (d : Dev) (j x : Nat) : List Byte :=
  signed2 ((rfld d (pgOpt j + 0x820 + 4 * x) 8 12 : Int) - (sget (fun _ => 0) d.flash.build.heaters (16 * j + x)).toNat)

/-- A PERIODIC record; the counts since the last record and the hottest readings begin anew. -/
def wearPeriodic (d : Dev) : Dev :=
  let body := (List.range 64).flatMap (clusterEntry d)
    ++ (List.range 256).flatMap (fun n => moduleEntry d n)
    ++ (List.range 12).flatMap (stackEntry d)
    ++ (List.range 16).flatMap (fun i => toBytes 4 (regN d (pgOpt 12 + 0x860 + 4 * i)))
    ++ (List.range 13).flatMap (fun j => (List.range 16).flatMap (driftEntry d j))
  let d := wearAppend d (wearBytes d 1 2816 body)
  let since := (List.range 12).foldl (fun m i => sput zeroNat (sput zeroNat m i (stackCorrected d i)) (16 + i) (stackPoisoned d i)) d.board.wearSince
  let guards := (List.range 64).foldl (fun m i => sput zeroNat m i (((clusterEntry d i).getD 13 0).toNat)) d.flash.guards
  { d with flash := { d.flash with guards := guards }
           board := { d.board with wearSince := since, therm := sclear d.board.therm 128 255 } }

/-- A REPLAN record. -/
def wearReplan (d : Dev) (digest : Digest) (reason : Nat) (drop : Bool) : Dev :=
  wearAppend d (wearBytes d 4 128 (digestBytes digest ++ toBytes 1 reason ++ toBytes 1 drop.toNat ++ [0, 0] ++ toBytes 4 d.flash.gen.toNat))

/-! ## Proposals and their application (R493, R494) -/

/-- The reason a proposal is rejected with, 0 for none. (DEDUCED, log entry 42) -/
def tableReason (d : Dev) (x : Option OpTable) : Nat :=
  match x with
  | none => 1
  | some t =>
    let at64 (f : EnvEntry → Nat → Nat → Nat → Bool) : Bool :=
      (List.range 64).any (fun i => match t.entries[i]? with | some e => f (envOf d i) i e.1.toNat e.2.toNat | none => false)
    if t.serial ≠ d.flash.build.serial then 1
    else if t.baseGen ≠ d.flash.gen then 2
    else if at64 (fun env _ v f => decide (v < env.vmin ∨ env.vmax < v ∨ env.fmax < f ∨ f < 24 ∨ 48 < f)) then 3
    else if at64 (fun env i v f => decide (f < tableFreq d i ∧ v < env.vmax)) then 4
    else 0

/-- The pending table, with every pending drop, comes into force: flash, generation, clusters, MEAS4, record (R494).
(DEDUCED, log entry 42) -/
def optableApply (d : Dev) : Dev :=
  let drops := (List.range 64).filter (fun i => dropPending d i)
  if d.board.pendTable.isNone ∧ drops = [] then d
  else
    let entry (i : Nat) : Nat × Nat :=
      match d.board.pendTable.bind (fun t => t.entries[i]?) with
      | some e => (e.1.toNat, e.2.toNat)
      | none => (tableVolt d i, tableFreq d i)
    let freq (i : Nat) : Nat := if drops.contains i then max 24 ((entry i).2 - 1) else (entry i).2
    let lowered := (List.range 64).any (fun i => decide (freq i < tableFreq d i))
    let step (i : Nat) : Nat := rfld d (pgAgemon (i / 16) + 0x804) 0 4
    let guard (i : Nat) : Nat := if tableVolt d i + guardOf d i * step i ≤ (entry i).1 then 0 else guardOf d i
    let fl := { d.flash with
      volts := (List.range 64).foldl (fun m i => sput voltDefault m i (BitVec.ofNat 16 (entry i).1)) d.flash.volts
      freqs := (List.range 64).foldl (fun m i => sput freqDefault m i (BitVec.ofNat 8 (freq i))) d.flash.freqs
      gen := d.flash.gen + 1 }
    let guards := (List.range 64).foldl (fun m i => sput zeroNat m i (guard i)) d.board.guards
    let d := { d with flash := fl, board := { d.board with pendTable := none, guards := guards } }
    let d := (List.range 64).foldl (fun d i => if dieUp d (i / 16) then showOp d i false else d) d
    wearReplan (extend d 4 (tableDigest d)) (tableDigest d) 0 lowered

/-! ## Samples (R487, R488, R491, R492) -/

/-- The margin of a cluster: its period in whole picoseconds less the largest replica delay. -/
def marginOf (freq delay : Nat) : Int := ((if freq = 0 then 0 else 20000 / freq : Nat) : Int) - delay

/-- What AGEMON does about a margin below its floor (R491). -/
def guardRaise (d : Dev) (s c : Nat) (margin : Int) : Dev :=
  let i := 16 * s + c
  let cfg := regN d (pgAgemon s + 0x804)
  let g := guardOf d i
  let m16 := (margin % 65536).toNat
  if g < fld cfg 8 4 ∧ tableVolt d i + (g + 1) * fld cfg 0 4 ≤ (envOf d i).vmax then
    let d := setGuard d i (g + 1)
    let d := incSat (showOp d i (dropPending d i)) (pgAgemon s + 0x920)
    let d := raiseErr d (pgAgemon s) 1 0x100 (c + 65536 * m16) (g + 1)
    let d := { d with flash := { d.flash with guards := sput zeroNat d.flash.guards i (g + 1) } }
    wearAppend d (wearBytes d 3 128 (clusterEntry d i))
  else
    let d := showOp d i true
    raiseErr d (pgAgemon s) 1 0x100 (c + 65536 * m16) (g + 16)

/-- One cluster's readings of a sample. -/
def sampleOne (d : Dev) (s c : Nat) (r : AgeReading) : Dev :=
  let i := 16 * s + c
  let a := pgAgemon s
  if ownState d (pgCluster s c) = stFenced then d
  else if !r.valid then (raise d a 2 0x101 c (c + 16 * r.monitor.toNat) (guardOf d i)).2
  else
    let margin := marginOf (rfld d (opReg i) 0 6) r.delays.toNat
    let d := setRegN d (ageReg i 0x820) (r.delays.toNat + 65536 * (margin % 65536).toNat)
    let d := setRegN d (ageReg i 0x824) (r.ro0.toNat + 65536 * r.ro1.toNat)
    let d := setRegN d (ageReg i 0x828) r.leak.toNat
    let d := if margin < (envOf d i).floorPs then guardRaise d s c margin else d
    if margin < (envOf d i).critPs then raiseErr d (pgCluster s c) 3 0x002 0 0 else d

/-- The lowest margin of a sample and its cluster, of the clusters in service. -/
def minMargin (d : Dev) (s : Nat) (rs : List (Fin 16 × AgeReading)) : Option (Int × Nat) :=
  (rs.filter (fun x => x.2.valid && ownState d (pgCluster s x.1.val) != stFenced)).foldl (fun best x =>
    let m := marginOf (rfld d (opReg (16 * s + x.1.val)) 0 6) x.2.delays.toNat
    match best with
    | some b => if m < b.1 then some (m, x.1.val) else some b
    | none => some (m, x.1.val)) none

/-- AGEMON samples every cluster of its die, as SAMPLE_NOW asks it to. -/
def sampleNow (d : Dev) (s : Nat) (rs : List (Fin 16 × AgeReading)) : Dev :=
  if !running d (pgAgemon s) ∨ !dieUp d s then d
  else
    let d := match minMargin d s rs with
      | some m => setRegN d (pgAgemon s + 0x924) ((m.1 % 65536).toNat + 65536 * m.2)
      | none => d
    rs.foldl (fun d x => sampleOne d s x.1.val x.2) d
/-- The periodic sample: none while SAMPLE_CFG_LIVE.PERIOD_MS is 0 (R8, R499). -/
def agemonSample (d : Dev) (s : Nat) (rs : List (Fin 16 × AgeReading)) : Dev :=
  if rfld d (pgAgemon s + 0x800) 0 16 = 0 then d else sampleNow d s rs

/-- As many of a list of records as fit whole, none after the first that does not. -/
def takeRecords : Nat → List (List Byte) → List Byte
  | _, [] => []
  | n, r :: rest => if r.length ≤ n then r ++ takeRecords (n - r.length) rest else []
/-- READ_WEAR: the ledger's records from a number on, newest first, up to the length of the buffer (R498). -/
def wearCopy (d : Dev) (from_ bufLen : Nat) : List Byte :=
  takeRecords bufLen (d.flash.ledger.reverse.filter (fun r => decide (from_ ≤ ofBytes ((r.drop 24).take 8))))

end Sys2Proof.Machine
end

