-- ==== Sys2Proof/Machine/D2d.lean ====
section
/-!
DEFINITION. Die-to-die edges (chapter 11): flit reception, ACK, NAK and resend (R315, R316), the retrain and its ladder (R321,
R322), modules that leave and rejoin (R318, R324, R331), edge bring-up (R313, R320), edge fences, routes and kept segments (R325
to R327). A module is named by its key; both ends of a link live in the same device.
-/
namespace Sys2Proof.Machine

/-! ## Errors of a module (R330) -/

/-- LANE of ERR_INFO0 where no lane is concerned. -/
def noLane : Nat := 0x7F
/-- Raise a code of a module on its own edge page; `mst` is the module's state after the event, which is OFF after a class F. Answers the
final class. -/
def modRaise (d : Dev) (k cls code lane mst packets : Nat) : Nat × Dev :=
  let m := getMod d k
  let seq := match m.replay with | f :: _ => fld f.header.toNat 0 12 | [] => m.sendSeq.toNat
  raiseWith d (modPage k) cls code (k % 32) (fun fin => (k % 32 + 256 * lane + 65536 * (if fin = 3 then 2 else mst), seq + 65536 * packets))
def modMst (d : Dev) (k : Nat) : Nat := (getMod d k).mstate.toNat
/-- Raise a code of an edge as a whole, which names no module and no lane. -/
def edgeRaise (d : Dev) (s e cls code : Nat) : Dev := raiseErr d (pgD2d s e) cls code (256 * noLane) 0

/-! ## Resend and retrain (R315, R316, R322) -/

/-- A module stops sending and tests its lanes; one that does so already goes on. (DEDUCED, log entry 36) -/
def retrainStart (d : Dev) (k : Nat) : Dev :=
  if modRetrains d k ∨ !inService d k then d
  else
    let d := putMod d k { getMod d k with retraining := true }
    incSat (incSat d (modPage k + 0x830)) (modPage (facingMod k) + 0x830)

/-- Send every unacknowledged flit of a module again, in order; ACK is what has been accepted by now. -/
def resendAll (d : Dev) (k : Nat) : Dev :=
  let l := (getMod d k).replay
  let ack := d2dAck (getMod d k)
  l.foldl (fun d f => d2dPut d k (BitVec.ofNat 64 (setFld f.header.toNat 12 12 ack)) f.body) (countEvt d (modPage k) 0x1002 (k % 32) l.length)

/-- A resend event of a module: the failed transmissions are counted; a fourth one in a row retrains it, else RETRY is
raised and its final class decides (R316). -/
def resendEvent (d : Dev) (k : Nat) : Dev :=
  let m := getMod d k
  if m.replay = [] ∨ modRetrains d k ∨ !inService d k then d
  else
    let d := putMod d k { m with replay := m.replay.map (fun f => { f with fails := f.fails + 1 }) }
    if m.replay.any (fun f => decide (4 ≤ f.fails + 1)) then
      let r := modRaise d k 2 0x103 noLane (modMst d k) 0
      if r.1 = 2 then retrainStart r.2 k else r.2
    else
      let m := getMod d k
      let d := putMod d k { m with retries := if m.retries = 0xFFFF then m.retries else m.retries + 1 }
      let r := modRaise (incSat d (modPage k + 0x82C)) k 1 0x100 noLane (modMst d k) 0
      if r.1 = 1 then resendAll r.2 k else if r.1 = 2 then retrainStart r.2 k else r.2

def flitSeq (f : ReplayFlit) : Nat := fld f.header.toNat 0 12
/-- Flits up to the one that ACK names leave the replay buffer; an ACK of none of them moves nothing. -/
def dropAcked (l : List ReplayFlit) (ack : Nat) : List ReplayFlit :=
  if l.any (fun f => flitSeq f == ack) then (l.dropWhile (fun f => flitSeq f != ack)).drop 1 else l
/-- The package port by which the packet of a flit that a module receives came into the package, 63 for a packet of this package. -/
def arrivalOf (d : Dev) (k seq : Nat) : Nat :=
  match (getMod d (facingMod k)).replay.find? (fun f => flitSeq f == seq) with
  | some f => f.arrival
  | none => 63

/-- D2D_FLIT_RECEIVE: the check, the sequence, ACK, NAK and credits (R314, R315, R332). -/
def d2dReceive (d : Dev) (k : Nat) (f : D2dFlit) : Dev :=
  if !inService d k ∨ modRetrains d k ∨ !running d (modPage k) then d
  else
    let h := f.header.toNat
    let idle := tbit h 25
    let s := k / 64
    let e := k / 32 % 2
    let inj := if idle then (false, d) else injectMod d k 1
    let d := inj.2
    let nak (d : Dev) : Dev :=
      let m := getMod d k
      if m.nakSent then d else d2dIdle (putMod d k { m with nakSent := true }) k true 0 0
    if inj.1 ∨ flitCrc f.header f.payload ≠ f.crc.toNat then (if idle then d else nak d)
    else
      let m := getMod d k
      let d := putMod d k { m with replay := dropAcked m.replay (fld h 12 12) }
      let ed := getEdge d (edgeKey s e)
      let pool := fld h 40 3
      let d := putEdge d (edgeKey s e) { ed with credits := sput zeroNat ed.credits pool (sget zeroNat ed.credits pool + fld h 44 8) }
      let d := if tbit h 24 then resendEvent d k else d
      let d := edgeFlush d s e
      if idle then d
      else if fld h 0 12 ≠ (getMod d k).expect.toNat then nak d
      else
        let m := getMod d k
        let bytes := (if tbit h 29 then [] else m.rx) ++ f.payload.take (fld h 32 8)
        let eop := tbit h 30
        let d := putMod d k { m with expect := m.expect + 1, nakSent := false, rx := if eop then [] else bytes }
        let d := countEvt d (modPage k) 0x1001 (k % 32) 1
        if eop then
          let p := pktOf bytes
          d2dIdle (d2dArrive d s (arrivalOf d k (fld h 0 12)) p) k false (poolOf (fld h 26 2) (tbit h 28)) (pktUnits p)
        else d2dIdle d k false 0 0

/-- D2D_REPLAY_TIMEOUT: ACK has not advanced for TIMEOUT cycles; 0 disables it (R315). -/
def d2dTimeout (d : Dev) (k : Nat) : Dev :=
  if rfld d (modPage k + 0x800) 0 10 = 0 then d else resendEvent d k

/-! ## Lane repair (R321, R322) -/

def dataFailed (f : BitVec 68) : List Nat := (List.range 64).filter (bvBit f)
def goodSpares (f : BitVec 68) : List Nat := (List.range 4).filter (fun s => !bvBit f (64 + s))
def spareOf (sp : W32) (s : Nat) : Nat := fld sp.toNat (8 * s) 8
/-- The spare map with the lanes of a list on the given spares. -/
def assignSpares (sp : W32) (lanes spares : List Nat) : W32 :=
  (lanes.zip spares).foldl (fun m x => BitVec.ofNat 32 (setFld m.toNat (8 * x.2) 8 x.1)) sp
def clearSpares (sp : W32) (spares : List Nat) : W32 :=
  spares.foldl (fun m s => BitVec.ofNat 32 (setFld m.toNat (8 * s) 8 0xFF)) sp

/-- What the ladder decides: 0 nothing to raise, 1 LANE_REPAIR, 2 HALF, 3 MODULE_OFF; and the module after it. (DEDUCED, log entry 36) -/
def ladder (m : Module) (found : BitVec 68) : Nat × Module :=
  let all := m.failed ||| found
  let fresh := found &&& ~~~ m.failed
  let m1 := { m with failed := all }
  let bad := (List.range 4).filter (fun s => bvBit all (64 + s))
  let good := goodSpares all
  if m.mstate = 1 then
    let lo := if m.upper then 32 else 0
    let hit := (List.range 32).any (fun i => bvBit fresh (lo + i))
      || (List.range 4).any (fun s => bvBit fresh (64 + s) && spareOf m.spares s != 0xFF)
    if hit then (3, m1) else (0, m1)
  else
    let data := dataFailed all
    let sp := clearSpares m.spares bad
    let repaired := (good.map (spareOf sp)).filter (· ≠ 0xFF)
    let need := data.filter (fun j => !repaired.contains j)
    if need = [] then (0, { m1 with spares := sp })
    else if data.length ≤ good.length then
      let free := good.filter (fun s => spareOf sp s == 0xFF)
      (1, { m1 with spares := assignSpares sp need free })
    else
      let lowHalf := data.filter (· < 32)
      let highHalf := data.filter (fun j => 32 ≤ j)
      let upper := decide (highHalf.length < lowHalf.length)
      let act := if upper then highHalf else lowHalf
      if act.length ≤ good.length then
        (2, { m1 with mstate := 1, upper := upper, spares := assignSpares 0xFFFFFFFF act good })
      else (3, m1)

/-- The lowest failed lane of a set, 0x7F for none. -/
def lowLane (f : BitVec 68) : Nat := ((List.range 68).find? (bvBit f)).getD 0x7F

/-- Apply the ladder to both ends of a link, raising its result on both edge pages; repairs and
degrades go into the wear ledger at once, a module loss with its fence (R322, R323). (DEDUCED, log entry 36) -/
def applyLadder (d : Dev) (k : Nat) (found : BitVec 68) : Nat × Dev :=
  let k2 := facingMod k
  let m := getMod d k
  let union := found ||| (getMod d k2).failed
  let lane := lowLane (found &&& ~~~ m.failed)
  let r := ladder m union
  let d := putMod d k { r.2 with tests := m.tests + 1 }
  let m2 := getMod d k2
  let d := putMod d k2 { m2 with failed := r.2.failed, spares := r.2.spares, mstate := r.2.mstate, upper := r.2.upper, tests := m2.tests + 1 }
  let up (d : Dev) (k cls code st : Nat) : Dev :=
    let d := (modRaise d k cls code lane st 0).2
    if cls = 1 then wearEvent d (modPage k) 1 code else d
  match r.1 with
  | 0 => (0, d)
  | 1 => (1, up (up d k 1 0x101 0) k2 1 0x101 0)
  | 2 => (2, up (up d k 1 0x102 1) k2 1 0x102 1)
  | _ => (3, up (up d k 3 0x104 2) k2 3 0x104 2)

/-! ## The set of modules in service changes (R318, R324, R326) -/

/-- The edge stops starting packets (R318); a change during a quiesce joins it. -/
def quiesceStart (d : Dev) (s e : Nat) : Dev :=
  if running d (pgD2d s e) then putEdge d (edgeKey s e) { getEdge d (edgeKey s e) with quiescing := true } else d

def upCount (d : Dev) (s e : Nat) : Nat := (serviceList d s e).length

/-- Both edges of a link are fenced: each side raises EDGE_FENCE on its own page and no die starts packets until the routes are
rewritten (R326). A side that is fenced, draining or on its way out already raises nothing more. -/
def edgeFence (d : Dev) (s e : Nat) : Dev :=
  let side (d : Dev) (s e : Nat) : Dev :=
    let a := pgD2d s e
    let st := ownState d a
    if st = stFenced ∨ st = stDraining ∨ (d.board.fences ++ d.board.fencing).any (fun f => f.target == .page a) ∨ !dieUp d s then d else edgeRaise d s e 3 0x105
  let f := facing s e
  let d := side (side d s e) f.1 f.2
  { d with board := { d.board with routeChange := true } }

/-- A module leaves service by disabling or by MOD_MASK: both ends give the last SEQ they accepted over the sideband and both edges
quiesce; fewer than 8 modules in service fence the edge (R324, R326). On an edge that does not carry packets yet the two are out at once. -/
def moduleLeave (d : Dev) (k : Nat) : Dev :=
  if !inService d k then d
  else if !running d (modPage k) then
    let out (d : Dev) (k : Nat) : Dev := putMod d k { getMod d k with retraining := false, mstate := if (getMod d k).disabled then 2 else 3 }
    out (out d k) (facingMod k)
  else
    let out (d : Dev) (k : Nat) : Dev :=
      let m := getMod d k
      emit (putMod d k { m with leaving := true, retraining := false }) (.sideband k (m.expect - 1))
    let k2 := facingMod k
    let d := out (out d k) k2
    let d := quiesceStart (quiesceStart d (k / 64) (k / 32 % 2)) (k2 / 64) (k2 / 32 % 2)
    if upCount d (k / 64) (k / 32 % 2) < 8 then edgeFence d (k / 64) (k / 32 % 2) else d

/-- A module and the one it faces leave for good: they stay OFF until the next rising edge of PWR_OK (R324). -/
def moduleDisable (d : Dev) (k : Nat) : Dev :=
  let both (f : Module → Module) (d : Dev) : Dev :=
    let d := putMod d k (f (getMod d k))
    putMod d (facingMod k) (f (getMod d (facingMod k)))
  let d := both (fun m => { m with disabled := true }) d
  if inService d k then moduleLeave d k else both (fun m => { m with mstate := 2 }) d

/-- The packets whose flits a module still holds, in order. -/
def packetsHeld (l : List ReplayFlit) : List Held :=
  (l.foldl (fun (acc : List Held × Option Nat) f =>
    if acc.2 = some f.pno then acc else (acc.1 ++ [⟨f.later, f.pkt, f.arrival⟩], some f.pno)) ([], none)).1

/-- What the peer has not accepted of a module's unacknowledged flits (R324). -/
def unaccepted (d : Dev) (k : Nat) : List ReplayFlit :=
  dropAcked (getMod d k).replay ((getMod d (facingMod k)).expect - 1).toNat

def masked (d : Dev) (k : Nat) : Bool :=
  tbit (regN d (modPage k + 0x804)) (k % 32) || tbit (regN d (modPage (facingMod k) + 0x804)) (k % 32)

/-- The edge gets back the credits of packets that it has not delivered. -/
def refund (cr : Sparse Nat) (l : List Held) : Sparse Nat :=
  l.foldl (fun m x => sput zeroNat m (poolOf (pktVc x.pkt) x.later) (sget zeroNat m (poolOf (pktVc x.pkt) x.later) + pktUnits x.pkt)) cr
/-- A module that MOD_MASK kept out and does so no longer runs the lane test, at both ends (R331). -/
def rejoin (d : Dev) (k : Nat) : Dev :=
  if (getMod d k).mstate ≠ 3 ∨ masked d k ∨ modRetrains d k then d
  else
    let fresh (d : Dev) (k : Nat) : Dev :=
      putMod d k { getMod d k with sendSeq := 0, expect := 0, nakSent := false, joining := true, retraining := true }
    incSat (incSat (fresh (fresh d k) (facingMod k)) (modPage k + 0x830)) (modPage (facingMod k) + 0x830)

/-- QUIESCE_DONE: no module in service holds an unacknowledged flit. Modules on their way out leave their packets to the
others, ahead of every new one; joining ones enter; the table is written, the version in force is taken, traffic resumes (R313,
R318, R324, R331). -/
def quiesceDone (d : Dev) (s e : Nat) : Dev :=
  let ek := edgeKey s e
  let ed := getEdge d ek
  let keys := edgeModules s e
  if !ed.quiescing ∨ keys.any (fun k => inService d k && (getMod d k).replay != []) then d
  else
    let leavers := keys.filter (fun k => (getMod d k).leaving)
    let pkts := leavers.flatMap (fun k => packetsHeld (unaccepted d k))
    let d := leavers.foldl (fun d k =>
      let m := getMod d k
      putMod d k { m with leaving := false, replay := [], rx := [], half := m.mstate == 1, mstate := if m.disabled then 2 else 3 }) d
    let ed := getEdge d ek
    let d := putEdge d ek { ed with quiescing := false, credits := refund ed.credits pkts, heldPkts := pkts ++ ed.heldPkts }
    let d := leavers.foldl (fun d k => if (getMod d (facingMod k)).leaving then d else rejoin d k) d
    let f := facing s e
    let d := setRfld d (pgD2d s e + 0x820) 8 8 (runLevel d s)
    let d := if runLevel d s ≠ runLevel d f.1 ∧ dieUp d f.1 ∧ running d (pgD2d s e) then
        (if running d (pgD2d f.1 f.2) then edgeRaise (edgeRaise d s e 3 0x106) f.1 f.2 3 0x106 else d)
      else d
    edgeFlush (writeTable d s e) s e

/-- SIDEBAND_TIMEOUT: the peer of a leaving module, or of a module of an edge that is being fenced, does not answer; every packet with an
unacknowledged flit fails (R324, R326). -/
def sidebandTimeout (d : Dev) (k : Nat) : Dev :=
  let m := getMod d k
  if !m.leaving ∧ !(ownState d (modPage k) == stDraining && fenceReqd d (modPage k)) then d
  else
    let ps := packetsHeld m.replay
    let d := putMod d k { m with replay := [] }
    let d := if ps = [] then d else (modRaise d k 2 0x107 noLane 2 ps.length).2
    ps.foldl (fun d p => errorAnswer d (k / 64) p.pkt) d

/-- D2D_RETRAIN_DONE: the ladder over the failures found at both ends; the module returns and resends in order, or leaves (R322).
(DEDUCED, log entry 36) -/
def retrainDone (d : Dev) (k : Nat) (found : BitVec 68) : Dev :=
  if !modRetrains d k then d
  else
    let k2 := facingMod k
    let enter (d : Dev) (k : Nat) : Dev :=
      let m := getMod d k
      if m.joining then putMod d k { m with mstate := if m.half then 1 else 0 } else d
    let r := applyLadder (enter (enter d k) k2) k found
    let back (d : Dev) (k : Nat) : Dev :=
      let m := getMod d k
      putMod d k { m with retraining := false, replay := m.replay.map (fun f => { f with fails := 0 }) }
    let d := back (back r.2 k) k2
    if r.1 = 3 then d
    else
      let d := if (getMod d k).joining then quiesceStart (quiesceStart d (k / 64) (k / 32 % 2)) (k2 / 64) (k2 / 32 % 2) else d
      let join (d : Dev) (k : Nat) : Dev := putMod d k { getMod d k with joining := false }
      let d := join (join d k) k2
      let d := resendAll (resendAll d k) k2
      edgeFlush (edgeFlush d (k / 64) (k / 32 % 2)) (k2 / 64) (k2 / 32 % 2)

/-- A committed MOD_MASK quiesces the edge: newly masked modules leave, unmasked ones run the lane test and rejoin through a further
quiesce; one that is OFF stays (R331). -/
def maskApplied (d : Dev) (s e : Nat) : Dev :=
  (edgeModules s e).foldl (fun d k => if inService d k ∧ masked d k then moduleLeave d k else if (getMod d k).leaving then d else rejoin d k)
    (quiesceStart d s e)

/-! ## Bring-up (R313, R320) -/

/-- The lanes of a module that the build record repairs (R32, R320). -/
def repairMap (d : Dev) (k : Nat) : BitVec 68 := sget (fun _ => 0) d.flash.build.d2dLanes k
/-- The edge is enabled and the peer is found: versions and places are exchanged, the build record's repairs and the lanes known to have failed
are applied, the lanes are tested and repaired. -/
def linkBringup (d : Dev) (l : Nat) (mism : Bool) (failed : List (ModRef × Fin 68)) : Dev :=
  let s2 := (l + 1) % 4
  let a := pgD2d l 0
  let b := pgD2d s2 1
  if ownState d a ≠ stStarting ∨ ownState d b ≠ stStarting then d
  else if mism ∨ runLevel d l ≠ runLevel d s2 then edgeRaise (edgeRaise d l 0 3 0x106) s2 1 3 0x106
  else
    let d := setRegN (setRegN d (a + 0x820) (s2 + 4 + 256 * runLevel d l)) (b + 0x820) (l + 256 * runLevel d s2)
    let noCredit (d : Dev) (s e : Nat) : Dev := putEdge d (edgeKey s e) { getEdge d (edgeKey s e) with credits := [] }
    let d := noCredit (noCredit d l 0) s2 1
    (edgeModules l 0).foldl (fun d k =>
      let k2 := facingMod k
      let m := getMod d k
      let st : BitVec 2 := if m.disabled then 2 else if masked d k then 3 else 0
      let known := m.failed ||| (getMod d k2).failed ||| repairMap d k ||| repairMap d k2
      let r := (ladder { m with mstate := 0, failed := 0, spares := 0xFFFFFFFF } known).2
      let up (d : Dev) (k : Nat) : Dev :=
        let m := getMod d k
        putMod d k { m with live := true, mstate := if st = 0 then r.mstate else st, failed := known, spares := r.spares, upper := r.upper
                            sendSeq := 0, expect := 0, nakSent := false, replay := [], rx := [] }
      let d := up (up d k) k2
      let found := (failed.filter (fun x => modRefKey x.1 == k || modRefKey x.1 == k2)).foldl
        (fun f x => setBv f x.2.val true) (0 : BitVec 68)
      if st ≠ 0 then d else (applyLadder d k found).2) d

/-- D2D_BRINGUP: the firmware enables the three D2D pages of every released die, but for service mode, where an agent enables them,
and all four links run their exchange, repair and lane test (R77, R320). -/
def d2dBringup (d : Dev) (mism : List (Fin 4)) (failed : List (ModRef × Fin 68)) : Dev :=
  let d := (List.range 4).foldl (fun d s =>
    if !dieUp d s ∨ d.board.service ∨ d.board.bootStep < 5 then d
    else (List.range 3).foldl (fun d i =>
      let a := pgD2d s i
      if ownState d a = stOff then setState (setCtrl d a 1) a stStarting else d) d) d
  (List.range 4).foldl (fun d l => linkBringup d l (mism.any (fun x => x.val == l)) failed) d

/-- D2D_PEER_ABSENT: the sideband of an enabled edge's peer stays silent. -/
def peerAbsent (d : Dev) (s e : Nat) : Dev :=
  if ownState d (pgD2d s e) = stStarting ∧ dieUp d s then edgeRaise d s e 3 0x120 else d

/-! ## Routes (R325 to R327) -/

/-- A link l joins edge A of site l and edge B of site l + 1. It survives when both edges are RUNNING. -/
def linkSurvives (d : Dev) (l : Nat) : Bool :=
  dieUp d l && dieUp d ((l + 1) % 4) && running d (pgD2d l 0) && running d (pgD2d ((l + 1) % 4) 1)
/-- A link that no fence has broken. -/
def linkWhole (d : Dev) (l : Nat) : Bool :=
  dieUp d l && dieUp d ((l + 1) % 4) && !pageFenced d (pgD2d l 0) && !pageFenced d (pgD2d ((l + 1) % 4) 1)
/-- The crossings from site s to site x leaving on edge A (`fwd`) or edge B, over surviving links and dies in service. -/
def crossings (d : Dev) (fwd : Bool) : Nat → Nat → Nat → Option Nat
  | 0, _, _ => none
  | fuel + 1, s, x =>
    let l := if fwd then s else (s + 3) % 4
    let n := if fwd then (s + 1) % 4 else (s + 3) % 4
    if !linkSurvives d l then none
    else if n = x then some 1
    else (crossings d fwd fuel n x).map (· + 1)
/-- The ROUTE field of site s for site x: 0 self, 1 edge A, 2 edge B, 3 unreachable. -/
def routeField (d : Dev) (s x : Nat) : Nat :=
  if s = x then 0
  else match crossings d true 3 s x, crossings d false 3 s x with
    | some a, some b => if a ≤ b then 1 else 2
    | some _, none => 1
    | none, some _ => 2
    | none, none => 3
/-- Write the routes of every die at once. -/
def writeRoutes (d : Dev) : Dev :=
  (List.range 4).foldl (fun d s => if dieUp d s then
    setRegN d (pgD2d s 2 + 0x840) (((List.range 4).map (fun x => routeField d s x * 4 ^ x)).foldl (· + ·) 0) else d) d

/-- The dies that hang together with site s. -/
def segment (d : Dev) (s : Nat) : List Nat :=
  (List.range 4).filter (fun x =>
    (List.range 4).any (fun n => x == (s + n) % 4 && (List.range n).all (fun i => linkWhole d ((s + i) % 4)))
    || (List.range 4).any (fun n => x == (s + 4 - n) % 4 && (List.range n).all (fun i => linkWhole d ((s + 3 - i) % 4))))
/-- The kept segment: the most dies, on a tie the lowest-numbered site (R327). -/
def keptSegment (d : Dev) : List Nat :=
  ((List.range 4).filter (dieUp d)).foldl (fun best s => if best.length < (segment d s).length then segment d s else best) []
/-- Dies outside the kept segment are fenced as a whole (R327). -/
def isolate (d : Dev) : Dev :=
  let keep := keptSegment d
  (List.range 4).foldl (fun d s =>
    if dieUp d s ∧ !keep.contains s ∧ !d.board.fences.any (fun f => f.target == .die s) ∧ ownState d (pgDie s) ≠ stDraining then
      raiseErr d (pgDie s) 3 0x107 0 0 else d) d

/-- Whether every edge has no unacknowledged flit (R326). -/
def drained (d : Dev) : Bool :=
  (List.range 4).all (fun s => (List.range 2).all (fun e =>
    let st := ownState d (pgD2d s e)
    !(st == stRunning || st == stDraining) || (edgeModules s e).all (fun k => (getMod d k).replay == [])))

/-- The packets that wait on an edge wait on their die again, ahead of the ones there, for the new routes. -/
def unsteer (d : Dev) (s e : Nat) : Dev :=
  let ed := getEdge d (edgeKey s e)
  let d := putEdge d (edgeKey s e) { ed with heldPkts := [] }
  { d with relayHeld := sput noHeld d.relayHeld s (ed.heldPkts ++ sget noHeld d.relayHeld s) }
/-- ROUTE_REWRITE: after the drain the manager writes new routes into every die, dies that no longer hang together with the
kept ones are fenced, and traffic resumes. -/
def routeRewrite (d : Dev) : Dev :=
  if !d.board.routeChange ∨ !drained d then d
  else
    let d := writeRoutes { d with board := { d.board with routeChange := false } }
    let d := (List.range 4).foldl (fun d s => unsteer (unsteer d s 1) s 0) d
    isolate ((List.range 4).foldl dieFlush d)

/-- D2D_BRINGUP_DONE: the steering table is written, the initial credits are returned and the edge goes RUNNING; its relay
too; an edge below 8 modules is fenced (R320, R325, R326). -/
def bringupDone (d : Dev) (s e : Nat) : Dev :=
  let a := pgD2d s e
  if ownState d a ≠ stStarting ∨ rfld d (a + 0x820) 8 8 = 0 ∨ !dieUp d s then d
  else if upCount d s e < 8 then edgeFence d s e
  else
    let d := enterRunning (writeTable d s e) a
    let d := putEdge d (edgeKey s e) { getEdge d (edgeKey s e) with left := true }
    let d := if ownState d (pgD2d s 2) = stStarting then enterRunning d (pgD2d s 2) else d
    let k := modKey s e ((serviceList d s e).getD 0 0).val
    let d := (List.range 8).foldl (fun d p => d2dIdle d k false p (Config.edgePool (edgeKey s e) p).toNat) d
    let d := if d.board.routeChange then d else writeRoutes d
    (List.range 4).foldl dieFlush d

/-- An edge that is fenced takes its modules out; packets not yet accepted by the peer, and those waiting, go to the new route
(R326). -/
def edgeEnd (d : Dev) (s e : Nat) : Dev :=
  let keys := edgeModules s e
  let pkts := keys.flatMap (fun k => packetsHeld (unaccepted d k)) ++ (getEdge d (edgeKey s e)).heldPkts
  let d := keys.foldl (fun d k => putMod d k { getMod d k with mstate := 2, leaving := false, retraining := false, joining := false, replay := [], rx := [] }) d
  let d := putEdge d (edgeKey s e) { edgeDefault 0 with left := true }
  { d with relayHeld := sput noHeld d.relayHeld s (pkts ++ sget noHeld d.relayHeld s)
           board := { d.board with routeChange := true } }

/-- A change of the level in force: every RUNNING edge quiesces and takes the new version (R313). -/
def versionChange (d : Dev) : Dev :=
  (List.range 4).foldl (fun d s => quiesceStart (quiesceStart d s 0) s 1) d

/-! ## What MOD_SEL shows (R329, R330) -/

def edgeCounts (d : Dev) (s e : Nat) : Nat × Nat × Nat × Nat :=
  let up := (serviceList d s e).map (·.val)
  let half := up.filter (fun m => (getMod d (modKey s e m)).mstate == 1)
  (up.length, half.length, (up.map (2 ^ ·)).foldl (· + ·) 0, (half.map (2 ^ ·)).foldl (· + ·) 0)
def modStat (d : Dev) (k : Nat) : Nat :=
  let m := getMod d k
  let used := ((List.range 4).filter (fun s => spareOf m.spares s != 0xFF)).length
  m.mstate.toNat + 4 * m.upper.toNat + 8 * used + 256 * popc m.failed.toNat 68 + 65536 * m.retries.toNat
/-- A register of an edge page that follows its modules; none for the rest. -/
def d2dView (d : Dev) (s e off : Nat) : Option Nat :=
  let c := edgeCounts d s e
  let sel := regN d (pgD2d s e + 0xF00)
  let k := modKey s e (fld sel 0 5)
  let m := getMod d k
  if off = 0x820 then some (setFld (setFld (regN d (pgD2d s e + 0x820)) 16 6 c.1) 24 6 c.2.1)
  else if off = 0x824 then some c.2.2.1
  else if off = 0x828 then some c.2.2.2
  else if off = 0xF04 then some (modStat d k)
  else if off = 0xF08 then some m.spares.toNat
  else if off = 0xF0C then some (fld m.failed.toNat 0 32)
  else if off = 0xF10 then some (fld m.failed.toNat 32 32)
  else if off = 0xF14 then some (fld m.failed.toNat 64 4)
  else if off = 0xF18 then
    some (if m.tests = 0 then 0 else (Config.laneMargin m.tests k (fld sel 8 7)).toNat)
  else none

end Sys2Proof.Machine
end

