-- ==== Sys2Proof/Machine/Package.lean ====
section
/-!
DEFINITION. Where things lie in the package (chapter 1): the sides of a die's edges (R15, R16), the numbering of modules and lanes across
an edge (R19), and the fibres, wavelengths and laser inputs of the fabric, twin and host ports (R20 to R22).
-/
namespace Sys2Proof.Machine

/-- The package side, north 0 to west 3, on which logical edge side `e` of a die lies at a rotation code (R15). -/
def packageSide (e rot : Nat) : Nat := (e + rot) % 4
/-- The logical sides of die-to-die edge A (east) and edge B (south) (R16). -/
def edgeSide (e : Nat) : Nat := if e = 0 then 1 else 2

/-! ## Mirrored numbering (R19) -/

/-- The die at the higher-numbered site of a link reverses its numbering: edge B of sites 1 and 2, both edges of site 3. -/
def reverses (s e : Nat) : Bool := s == 3 || (e == 1 && (s == 1 || s == 2))
/-- The physical number of a logical module, data lane or spare lane of an edge. -/
def physModule (s e k : Nat) : Nat := if reverses s e then 31 - k else k
def physLane (s e j : Nat) : Nat := if reverses s e then (if j < 64 then 63 - j else 64 + (3 - (j - 64))) else j

/-! ## Fibres and laser inputs (R20 to R22) -/

/-- A fibre: array unit and position. -/
structure Fibre where
  unit : Nat
  pos  : Nat
  deriving DecidableEq, Repr

/-- The transmit and receive fibres of package port n. -/
def portFibres (n : Nat) : Fibre × Fibre :=
  if n = 48 then (⟨0, 14⟩, ⟨0, 15⟩)
  else if n = 49 then (⟨4, 14⟩, ⟨4, 15⟩)
  else
    let l := n % 12
    let u := 2 * (n / 12) + l / 6
    (⟨u, 2 * (l % 6)⟩, ⟨u, 2 * (l % 6) + 1⟩)
/-- The laser input that feeds package port n. -/
def laserOf (n : Nat) : Nat :=
  if n = 48 then 3 else if n = 49 then 11 else 4 * (n / 12) + n % 12 / 3
/-- The transmit and receive fibres of host lane l, and the laser input that feeds it. -/
def hostFibres (l : Nat) : Fibre × Fibre := if l < 4 then (⟨2, 14⟩, ⟨2, 15⟩) else (⟨3, 14⟩, ⟨3, 15⟩)
def hostLaser (l : Nat) : Nat := if l < 4 then 4 else 5
/-- The fibre of laser input i. -/
def laserFibre (i : Nat) : Fibre := if i % 4 < 2 then ⟨2 * (i / 4), 12 + i % 4⟩ else ⟨2 * (i / 4) + 1, 10 + i % 4⟩
/-- The wavelength of lane k of a port, and of host lane k, in nm (R21, R22). -/
def laneWave (k : Nat) : Nat := 1271 + 20 * (k % 4)

/-- The package ports that a laser input feeds, and the halves of the host link: lanes 0 to 3 the lower, lanes 4 to 7 the upper. -/
def laserPorts (i : Nat) : List Nat := (List.range 50).filter (fun n => laserOf n == i)
def laserHalf (i : Nat) : Option Bool := if i = hostLaser 0 then some false else if i = hostLaser 4 then some true else none

end Sys2Proof.Machine
end

