-- ==== Sys2Proof/Machine/Fabric.lean ====
section
/-!
DEFINITION. Fabric and twin ports (chapters 5 and 12): frames, groups and retry (R334, R338 to R342), retrain and width (R336),
bring-up (R347, R348), the handshake and its keys (R135 to R138, R343, R349), laser inputs (R24) and ring heaters (R368). A port is
named by its package port number.
-/
namespace Sys2Proof.Machine

/-! ## Errors and loss (R342, R366) -/

/-- Raise a code of a port on its PORT or TWIN page about the flit with a SEQ. `lst` is the link state after the event as long as its
class stays; one that a class D of RETRY or TAG_FAIL retrains goes to RETRAIN, a class F to FENCED. Answers the final class. -/
def portRaiseAt (d : Dev) (n seq cls code lanes lst reason : Nat) : Nat × Dev :=
  let peer := fld (regN d (pgOfPort n + 0x844)) 0 11
  raiseWith d (pgOfPort n) cls code 0 (fun fin =>
    (seq + 65536 * lanes + 2 ^ 20 * (if fin = 3 then 9 else if cls < fin then 8 else lst), peer + 65536 * reason))
/-- The same about the oldest unacknowledged flit, or the next one. -/
def portRaise (d : Dev) (n cls code lanes lst reason : Nat) : Nat × Dev :=
  let p := getPort d n
  portRaiseAt d n (match p.replay with | f :: _ => fld f.header.toNat 0 12 | [] => p.sendSeq.toNat) cls code lanes lst reason

/-- The session of a port ends: its keys and what led to them are erased (R138, R148). -/
def eraseSession (d : Dev) (n : Nat) : Dev :=
  putPort d n { getPort d n with stage := 0, tx := none, rx := none, refresh := [], peerHello := none, sent := [], got := [], eph := 0
                                 shared := [], kdf := [], rxGroup := [], rxBytes := [], credits := [] }

/-- Every packet with an unacknowledged flit is lost; `st` is the state the port goes to (R342, R360). What a port sends of itself before
READY is no packet of a router. -/
def portLose (d : Dev) (n st : Nat) : Dev :=
  let p := getPort d n
  let ps := if linkState d n = lsUp ∨ linkState d n = 8 then packetsHeld p.replay else []
  let d := if ps = [] then d else (portRaise d n 2 0x107 0 st 0).2
  let d := putPort d n { getPort d n with replay := [] }
  ps.foldl (fun d q => deadLetter d (siteOfPort n) q.pkt 7 q.arrival n) d

/-- A port goes down: loss, then its keys are erased and its link starts anew. -/
def portReset (d : Dev) (n st : Nat) : Dev :=
  let d := portLose d n st
  let d := eraseSession d n
  let d := putPort d n { getPort d n with sendSeq := 0, expect := 0, lastAcc := 0xFFF, nakSent := false }
  setLink (setRfld d (pgOfPort n + 0x844) 31 1 0) n st
/-- A port goes down with its lanes. -/
def portDown (d : Dev) (n st : Nat) : Dev := setRfld (portReset d n st) (pgOfPort n + 0x840) 4 4 0
/-- The packets that wait for a port which is OFF or FENCED are dead letters (R348, R355). -/
def portDrop (d : Dev) (n : Nat) : Dev :=
  let l := (getPort d n).held
  l.foldl (fun d x => deadLetter d (siteOfPort n) x.pkt 2 x.arrival n) (putPort d n { getPort d n with held := [] })
/-- A port is set OFF. -/
def portOff (d : Dev) (n : Nat) : Dev := portDrop (setState (setCtrl (portDown d n 0) (pgOfPort n) 0) (pgOfPort n) stOff) n

/-! ## Retry and retrain (R341, R342) -/

/-- A retrain of an UP port starts; one that runs already goes on. -/
def portRetrain (d : Dev) (n : Nat) : Dev :=
  if linkState d n = lsUp ∧ running d (pgOfPort n) then incSat (setLink d n 8) (pgOfPort n + 0x84C) else d

/-- The link states in which frames travel: WAIT_TOPO, HANDSHAKE, AUTH_HOLD and UP. -/
def carries (st : Nat) : Bool := decide (4 ≤ st) && decide (st ≤ lsUp)
/-- Send the unacknowledged flits of a port again, identical, in order (R138, R341). -/
def portResend (d : Dev) (n : Nat) : Dev :=
  let l := (getPort d n).replay
  l.foldl (fun d f => portPut d n f.header f.body) (countEvt d (pgOfPort n) 0x1003 0 l.length)

/-- A resend event: a fourth failure in a row retrains the port, else RETRY is raised and its final class decides (R342). -/
def portResendEvent (d : Dev) (n : Nat) : Dev :=
  let p := getPort d n
  if p.replay = [] ∨ !carries (linkState d n) then d
  else
    let d := putPort d n { p with replay := p.replay.map (fun f => { f with fails := f.fails + 1 }) }
    if p.replay.any (fun f => decide (4 ≤ f.fails + 1)) then
      let r := portRaise d n 2 0x103 0 8 0
      if r.1 = 2 then portRetrain r.2 n else r.2
    else
      let r := portRaise (incSat d (pgOfPort n + 0x848)) n 1 0x100 0 (linkState d n) 0
      if r.1 = 1 then portResend r.2 n else if r.1 = 2 then portRetrain r.2 n else r.2

def portTimeout (d : Dev) (n : Nat) : Dev :=
  if rfld d (pgOfPort n + 0x800) 0 16 = 0 then d else portResendEvent d n

/-- The width a lane test gives (R336, R365): width, upper pair, and whether it is a degrade; none when no pair is whole. -/
def widthOf (cfg : Nat) (failed : BitVec 4) : Option (Nat × Bool × Bool) :=
  let lowBad := bvBit failed 0 || bvBit failed 1
  let highBad := bvBit failed 2 || bvBit failed 3
  if lowBad && highBad then none
  else if lowBad || highBad then (if tbit cfg 0 then some (2, lowBad, true) else none)
  else if tbit cfg 1 then some (2, tbit cfg 2, false) else some (4, false, false)

/-- Set the width a lane test found; a port without a whole pair is fenced with NO_WIDTH. `next` is the state that follows. Answers whether
the port goes on. -/
def applyWidth (d : Dev) (n : Nat) (found : BitVec 4) (next : Nat) : Bool × Dev :=
  let failed := found ||| (getPort d n).failedLanes
  let a := pgOfPort n + 0x840
  let d := setRfld d a 8 4 failed.toNat
  match widthOf (regN d (pgOfPort n + 0x804)) failed with
  | none => (false, (portRaise d n 3 0x106 failed.toNat 9 0).2)
  | some (w, up, deg) =>
    let d := setRfld (setRfld d a 4 3 w) a 7 1 up.toNat
    (true, if deg then (portRaise d n 1 0x102 failed.toNat next 0).2 else d)

/-- PORT_RETRAIN_DONE: the lane test sets the width and the replay contents are sent again, or the port is fenced. -/
def portRetrainDone (d : Dev) (n : Nat) (found : BitVec 4) : Dev :=
  if linkState d n ≠ 8 then d
  else
    let r := applyWidth d n found lsUp
    if !r.1 then r.2
    else
      let p := getPort r.2 n
      let d := putPort r.2 n { p with replay := p.replay.map (fun f => { f with fails := 0 }) }
      portFlush (portResend (setLink d n lsUp) n) n

/-- CDR_LOCK_LOSS: a loss of lock on an active lane retrains the port as a class D (R342). -/
def cdrLoss (d : Dev) (n lane : Nat) : Dev :=
  let st := regN d (pgOfPort n + 0x840)
  let active := fld st 4 3 == 4 || (fld st 4 3 == 2 && (decide (2 ≤ lane) == tbit st 7))
  if linkState d n ≠ lsUp ∨ !active then d
  else
    let r := portRaise d n 2 0x103 (2 ^ lane) 8 0
    if r.1 = 2 then portRetrain r.2 n else r.2

/-! ## Handshake (R135, R136, R343, R349) -/

/-- Debug mode of the package (R146): BOOT_COUNT-bound features in force. (DEDUCED, log entry 44) -/
def debugMode (d : Dev) : Bool := d.sealU.debugBits.isSome

/-- The bytes of a message: its fields in the order in which R135 lists them, a code that is no number of more bytes in one, the package ID
in two (DESIGN CHOICE, log entry 53). -/
def hsBytes : HsMsg → List Byte
  | .hello h => [h.proto, h.level] ++ toBytes 2 h.pkgId.toNat ++ [h.port] ++ digestBytes h.nonce ++ toBytes 1 h.inDebug.toNat
      ++ h.pools.flatMap (fun x => toBytes 2 x.toNat)
  | .cert a b => a.der ++ b.der
  | .kex p => toBytes 65 p.toNat
  | .confirm v sig => digestBytes v ++ toBytes 64 sig.toNat
  | .ready => []
  | .abort r => toBytes 2 r.toNat
def hsCode : HsMsg → Nat
  | .hello _ => 1 | .cert _ _ => 2 | .kex _ => 3 | .confirm _ _ => 4 | .ready => 5 | .abort _ => 7
/-- Send a message of the handshake: MGMT packets with its code in TSPEC byte 20, in clear (R135, R339, R345). (DESIGN CHOICE, log entry 53) -/
def hsSend (d : Dev) (n : Nat) (m : HsMsg) : Dev :=
  let bs := hsBytes m
  let dst := match (getPort d n).topo with | some t => t.peer.toNat | none => 0
  let d := emit (putPort d n { getPort d n with sent := (getPort d n).sent ++ [m] }) (.handshake n m)
  (List.range (max 1 (ceilDiv bs.length 2048))).foldl (fun d i =>
    let c := bytesFrom bs (2048 * i) 2048
    sendClear d n { dst := BitVec.ofNat 16 dst, src := BitVec.ofNat 16 (selfId d (siteOfPort n) + 2048 * siteOfPort n), typ := 7, flags := 0
                    len := BitVec.ofNat 16 c.length, addr := 0, tag := 0, route := 0, tspec := BitVec.ofNat 96 (hsCode m), body := c }) d

/-- A failed handshake: the port waits in AUTH_HOLD; the first failure after READY raises PEER_MISMATCH (R135, R349). -/
def authFail (d : Dev) (n reason : Nat) : Dev :=
  let p := getPort d n
  let d := setRfld d (pgOfPort n + 0x840) 16 16 reason
  let d := if p.everReady then (portRaise d n 2 0x105 0 6 reason).2 else d
  let d := incSat (incSat d (pgOfPort n + 0x85C)) (pgSeal + 0x828)
  let d := putPort d n { getPort d n with everReady := false }
  setLink (eraseSession d n) n 6

/-- Send ABORT and fail. -/
def sendAbort (d : Dev) (n reason : Nat) : Dev := authFail (hsSend d n (.abort (BitVec.ofNat 16 reason))) n reason

def ownHello (d : Dev) (n : Nat) (r : Digest) : Hello :=
  { proto := Config.linkVersion, level := BitVec.ofNat 8 (pkgLevel d), pkgId := BitVec.ofNat 11 (selfId d (siteOfPort n))
    port := BitVec.ofNat 8 n, nonce := r, inDebug := false
    pools := (List.range 8).map (fun i => BitVec.ofNat 16 (rfld d (pgOfPort n + 0x810 + 4 * i) 0 13)) }

/-- The handshake begins (step 5 of R347): HELLO, or ABORT of a package in debug mode. -/
def handshakeStart (d : Dev) (n : Nat) : Dev :=
  let d := setLink (eraseSession d n) n 5
  if debugMode d then sendAbort d n 9
  else hsSend { d with free := d.free + 1 } n (.hello (ownHello d n (Config.random d.free)))

/-- Step 4 of R347: the port waits for a sealed topology record, or goes on when it has one. -/
def afterTraining (d : Dev) (n : Nat) : Dev :=
  match (getPort d n).topo with
  | some _ => handshakeStart d n
  | none => setLink d n 4

/-- What is wrong with a HELLO, by the codes of R349. -/
def helloFault (d : Dev) (n : Nat) (h : Hello) (t : TopoEntry) : Option Nat :=
  let pools := h.pools.map (·.toNat)
  if h.proto ≠ Config.linkVersion then some 1
  else if h.level < d.job.planeLevel then some 2
  else if h.pkgId.toNat = selfId d (siteOfPort n) then some 3
  else if h.pkgId ≠ t.peer then some 4
  else if h.port ≠ t.peerPort then some 5
  else if h.inDebug then some 9
  else if pools.length ≠ 8 ∨ pools.any (· < 33) ∨ 8192 < pools.foldl (· + ·) 0 then some 0xC
  else none

def inHandshake (d : Dev) (n stage : Nat) : Bool := linkState d n == 5 && (getPort d n).stage == stage

/-- A message has been accepted: it is kept for the transcript. -/
def hsAccept (d : Dev) (n stage : Nat) (m : HsMsg) : Dev :=
  let p := getPort d n
  putPort d n { p with stage := stage, got := p.got ++ [m] }
/-- The messages so far, by code: the initiator's before the responder's, and the responder's CONFIRM alone when the initiator answers it
(R135). (DESIGN CHOICE, log entry 53) -/
def transcript (d : Dev) (n : Nat) : List Byte :=
  let p := getPort d n
  let a := if isInitiator d n then p.sent else p.got
  let b := if isInitiator d n then p.got else p.sent
  let of_ (l : List HsMsg) (c : Nat) : List Byte := (l.filter (fun m => hsCode m == c)).flatMap hsBytes
  [1, 2, 3, 4].flatMap (fun c => of_ a c ++ of_ b c)
/-- The 32 bytes that a CONFIRM signature signs: the SM3 digest of all prior messages. -/
def hsDigest (d : Dev) (n : Nat) : List Byte := sm3Bytes (transcript d n)
/-- The Alias public key and the ephemeral point of the peer. -/
def peerAlias (p : Port) : Point := match p.got.find? (fun m => hsCode m == 2) with | some (.cert a _) => pointOf a.key | _ => ⟨0, 0⟩
def peerEph (p : Port) : Option Point := match p.got.find? (fun m => hsCode m == 3) with | some (.kex x) => pointOf65 (toBytes 65 x.toNat) | _ => none
/-- The confirmation value of the initiator or of the responder (R135). -/
def hsConfirm (d : Dev) (n : Nat) (initiator : Bool) : Digest :=
  let p := getPort d n
  let own := aliasPublic d
  let ini := isInitiator d n
  let peer := peerAlias p
  let ro := sm2Public p.eph
  let rp := (peerEph p).getD ⟨0, 0⟩
  digestOf (kexConfirm (if initiator then 3 else 2) (pointOf p.shared) (if ini then own else peer) (if ini then peer else own)
    (if ini then ro else rp) (if ini then rp else ro))

/-- HELLO arrives: its fields are checked, and the certificates are sent. -/
def hello (d : Dev) (n : Nat) (h : Hello) : Dev :=
  if !inHandshake d n 0 then d
  else match (getPort d n).topo, d.sealU.aliasCert with
    | some t, some c =>
      match helloFault d n h t with
      | some r => sendAbort d n r
      | none =>
        let d := hsAccept d n 1 (.hello h)
        hsSend (putPort d n { getPort d n with peerHello := some h }) n (.cert c d.flash.devidCert)
    | _, _ => d

/-- Send KEX: a new ephemeral key, and its point. -/
def kexSend (d : Dev) (n : Nat) : Dev :=
  let r := drawScalar d
  hsSend (putPort r.2 n { getPort r.2 n with eph := r.1 }) n (.kex (BitVec.ofNat 520 (ofBytes (point65 (sm2Public r.1)))))
/-- Send CONFIRM: the value, and the Alias signature over the messages so far. -/
def confirmSend (d : Dev) (n : Nat) : Dev :=
  let r := drawScalar d
  hsSend r.2 n (.confirm (hsConfirm d n (isInitiator d n)) (BitVec.ofNat 512 (ofBytes (sm2Sign (aliasPrivate d) r.1 (hsDigest d n)))))

/-- Both certificates chain to the manufacturing CA: the DeviceID certificate is signed by it, the Alias certificate by the DeviceID key
(R132, R136). -/
def chainOk (d : Dev) (a b : Cert) : Bool := certBy (pointOf d.caKey) b && certBy (pointOf b.key) a
/-- CERT arrives: the chain and the DeviceID digest; the initiator then opens the key exchange. -/
def cert (d : Dev) (n : Nat) (a b : Cert) : Dev :=
  if !inHandshake d n 1 then d
  else match (getPort d n).topo with
    | none => d
    | some t =>
      if !chainOk d a b then sendAbort d n 6
      else if keyDigest (pointOf b.key) ≠ t.peerDevid then sendAbort d n 8
      else
        let d := hsAccept d n 2 (.cert a b)
        if isInitiator d n then kexSend d n else d

/-- The key exchange of the two Alias keys with the two ephemeral keys: the shared point, and the 80 bytes K (R137). -/
def kexFinish (d : Dev) (n : Nat) : Option Dev :=
  let p := getPort d n
  let own := aliasPublic d
  let peer := peerAlias p
  match (peerEph p).bind (fun e => kexPoint (aliasPrivate d) p.eph peer e) with
  | none => none
  | some v => some (putPort d n { p with shared := pointBytes v
                                         kdf := if isInitiator d n then kexKey v own peer 80 else kexKey v peer own 80 })
/-- KEX arrives: the responder answers with its own point and CONFIRM; a point that gives no key fails as a CONFIRM value does.
(DEDUCED, log entry 53) -/
def kex (d : Dev) (n : Nat) (point : BitVec 520) : Dev :=
  if !inHandshake d n 2 then d
  else
    let d := hsAccept d n 3 (.kex point)
    let d := if isInitiator d n then d else kexSend d n
    match kexFinish d n with
    | none => sendAbort d n 7
    | some d => if isInitiator d n then d else confirmSend d n

/-- CONFIRM arrives: its value and signature; the initiator answers with its own, and READY follows. -/
def confirm (d : Dev) (n : Nat) (value : Digest) (sig : BitVec 512) : Dev :=
  if !inHandshake d n 3 then d
  else if value ≠ hsConfirm d n (!isInitiator d n) ∨ !sm2Verify (peerAlias (getPort d n)) (hsDigest d n) (toBytes 64 sig.toNat) then sendAbort d n 7
  else
    let d := hsAccept d n 4 (.confirm value sig)
    hsSend (if isInitiator d n then confirmSend d n else d) n .ready

/-- READY: both directions get key and salt, the initial credits are granted, the port is UP (R137, R343, R347). -/
def handshakeReady (d : Dev) (n : Nat) : Dev :=
  if !inHandshake d n 4 then d
  else match (getPort d n).peerHello with
    | none => d
    | some h =>
      let p := getPort d n
      let k := p.kdf
      let dirKeys (i : Nat) : DirKeys := ⟨BitVec.ofNat 128 (bytesAt k (16 * i) 16), BitVec.ofNat 32 (bytesAt k (32 + 4 * i) 4), 0, 0⟩
      let i := txDir d n
      let credits : Sparse Nat := (List.range 8).foldl (fun m j => sput zeroNat m j (h.pools.getD j 0).toNat) []
      let d := putPort d n { p with tx := some (dirKeys i), rx := some (dirKeys (1 - i)), refresh := (k.drop 40).take 40, eph := 0, shared := []
                                    kdf := [], everReady := true, credits := credits, rxBytes := [] }
      let d := setRegN d (pgOfPort n + 0x844) (h.pkgId.toNat + 65536 * fld h.port.toNat 0 6 + 2 ^ 31)
      let d := setLink d n lsUp
      let d := if ownState d (pgOfPort n) = stStarting then enterRunning d (pgOfPort n) else d
      portFlush d n

/-- ABORT arrives. -/
def abortReceived (d : Dev) (n reason : Nat) : Dev := if linkState d n = 5 then authFail d n reason else d
/-- A message or the whole handshake is late (R135). -/
def handshakeTimeout (d : Dev) (n : Nat) : Dev := if linkState d n = 5 then sendAbort d n 10 else d
/-- The second in AUTH_HOLD is over: the handshake runs again. -/
def authRetry (d : Dev) (n : Nat) : Dev := if linkState d n = 6 then afterTraining d n else d

/-- REKEY: a direction that has counted 2^28 groups switches to the next epoch (R137). -/
def rekey (d : Dev) (n : Nat) (receive : Bool) : Dev :=
  let p := getPort d n
  if receive then putPort d n { p with rx := p.rx.map (fun k => dirStart k p.refresh (1 - txDir d n)) }
  else putPort d n { p with tx := p.tx.map (fun k => dirStart k p.refresh (txDir d n)) }

/-! ## Frames (R334, R338 to R341) -/

/-- One NAK for an event (R341). -/
def portNak (d : Dev) (n : Nat) : Dev :=
  let p := getPort d n
  if p.nakSent then d else portIdle (putPort d n { p with nakSent := true }) n true 0 0

/-- Deliver a verified flit's bytes: a packet that ends goes to the router and its buffer is returned; one that came in clear is for the
port's own handshake and took no credit (R339, R343). -/
def portDeliver (d : Dev) (n : Nat) (h : Nat) (bytes : List Byte) : Dev :=
  let p := getPort d n
  let all := (if tbit h 30 then [] else p.rxBytes) ++ bytes.take (fld h 32 8)
  if !tbit h 31 then putPort d n { p with rxBytes := all }
  else
    let d := putPort d n { p with rxBytes := [] }
    let q := pktOf all
    if linkState d n = lsUp then portIdle (packetRoute d (siteOfPort n) n q) n false (poolOf (fld h 27 2) (tbit h 29)) (pktUnits q)
    else emit d (.eject (siteOfPort n) q)

/-- The plaintext of a received group, flit by flit, where its tag verifies under the key of its group (R137, R339). -/
def groupOpen (d : Dev) (n : Nat) (g : List (W64 × List Byte)) : Option (List (W64 × List Byte)) :=
  let p := getPort d n
  match p.rx, g.getLast? with
  | some k0, some last =>
    let k := dirStart k0 p.refresh (1 - txDir d n)
    let body := (g.flatMap (fun f => f.2)).take (244 * g.length - 16)
    (gcmOpen k.key (groupIv k) (g.flatMap (fun f => toBytes 8 f.1.toNat)) body (last.2.drop 228)).map (fun plain =>
      (List.range g.length).map (fun i => ((g.getD i (0, [])).1, bytesFrom plain (244 * i) 244)))
  | _, _ => none

/-- A GEND flit closes its group: the tag decides (R340, R367). -/
def groupEnd (d : Dev) (n : Nat) : Dev :=
  let a := pgOfPort n
  let i := injectUnit d a 1
  let d := i.2
  let p := getPort d n
  let seq := match p.rxGroup.getLast? with | some f => fld f.1.toNat 0 12 | none => 0
  let first := match p.rxGroup with | f :: _ => fld f.1.toNat 0 12 | [] => 0
  match (if i.1.isSome then none else groupOpen d n p.rxGroup) with
  | some g =>
    let d := putPort d n { p with rxGroup := [], expect := BitVec.ofNat 12 (nextSeq seq true), lastAcc := BitVec.ofNat 12 seq,
                                  rx := p.rx.map (fun k => let k := dirStart k p.refresh (1 - txDir d n); { k with groups := k.groups + 1 }) }
    let d := g.foldl (fun d f => portDeliver d n f.1.toNat f.2) d
    portIdle d n false 0 0
  | none =>
    let d := putPort d n { p with rxGroup := [], expect := BitVec.ofNat 12 first, nakSent := false }
    let r := portRaiseAt (incSat d (a + 0x858)) n first 1 0x101 0 (linkState d n) 0
    if r.1 = 1 then portNak r.2 n else if r.1 = 2 then portRetrain r.2 n else r.2

/-- A data flit whose check holds. -/
def dataFlit (d : Dev) (n : Nat) (header : W64) (body : List Byte) : Dev :=
  let h := header.toNat
  let up := linkState d n == lsUp
  let p := getPort d n
  if !up ∧ fld h 27 2 ≠ 3 then
    (if linkState d n = 5 then sendAbort d n 11 else hsSend (setRfld d (pgOfPort n + 0x840) 16 16 11) n (.abort 11))
  else if fld h 0 12 ≠ p.expect.toNat then portNak d n
  else
    let d := countEvt d (pgOfPort n) 0x1001 0 1
    if up then
      let gend := tbit h 26
      let d := putPort d n { p with nakSent := false, rxGroup := p.rxGroup ++ [(header, body)], expect := BitVec.ofNat 12 (nextSeq (fld h 0 12) gend) }
      if gend then groupEnd d n else d
    else
      let d := putPort d n { p with nakSent := false, expect := p.expect + 1, lastAcc := p.expect }
      portIdle (portDeliver d n h body) n false 0 0

/-- A flit whose check fails: the postmark unit counts it, and one NAK asks for it again (R341, R371). -/
def flitBad (d : Dev) (n : Nat) : Dev := portNak (countEvt (incSat d (pgPortMark n + 0x824)) (pgPortMark n) 0x1001 0 1) n
/-- The postmark unit tests a flit. -/
def flitTested (d : Dev) (n : Nat) : Dev := countEvt (incSat d (pgPortMark n + 0x820)) (pgPortMark n) 0x1000 0 1

/-- FRAME_RECEIVE: error correction, the check, then ACK, NAK, credits and data; an idle flit is no unit of the postmark's counts (R334,
R341, R371, R379; DEDUCED, log entry 49). -/
def frameReceive (d : Dev) (n : Nat) (frame : List Byte) : Dev :=
  let st := linkState d n
  if !carries st then d
  else
    let a := pgOfPort n
    let mark := pgPortMark n
    match frameDecode frame with
    | none => flitBad (flitTested (incSat d (a + 0x854)) n) n
    | some (flit, corrected) =>
      let header : W64 := BitVec.ofNat 64 (bytesAt flit 0 8)
      let body := bytesFrom flit 8 244
      let h := header.toNat
      let idle := tbit h 25
      let d := countEvt (addSat d (a + 0x850) corrected) a 0x1004 0 corrected
      let i := if idle then (none, d) else injectUnit d mark 1
      let d := if i.1.isSome then incSat i.2 (mark + 0x834) else i.2
      let d := if idle then d else flitTested d n
      let good := i.1.isNone && flitCrc header body == bytesAt flit 252 4
      if !good then (if idle then d else flitBad d n)
      else
        let p := getPort d n
        let pool := fld h 40 3
        let credits := if st = lsUp then sput zeroNat p.credits pool (sget zeroNat p.credits pool + fld h 44 11) else p.credits
        let d := putPort d n { p with replay := dropAcked p.replay (fld h 12 12), credits := credits }
        let d := if tbit h 24 then portResendEvent d n else d
        let d := portFlush d n
        if idle then d else dataFlit d n header body

/-! ## Bring-up, light and lasers (R24, R347, R348) -/

def laserGood (d : Dev) (i : Nat) : Bool := bvBit d.board.laserOk i

/-- A port is enabled (step 8 of R75): it waits for light, or starts its rings and looks for its peer. -/
def portEnable (d : Dev) (n : Nat) : Dev :=
  let a := pgOfPort n
  if !dieUp d (siteOfPort n) ∨ ownState d a ≠ stOff ∨ pageFenced d a then d
  else
    let d := setState (setCtrl d a 1) a stStarting
    if laserGood d (laserOf n) ∧ (getPort d n).eligible then setLink d n 2 else setLink d n 1

/-- Light from the peer is seen: step 2 of R347 trains the port. -/
def lightSeen (d : Dev) (n : Nat) : Dev := if linkState d n = 2 then setLink d n 3 else d
/-- The lane test of bring-up ends: the width is set and the port goes on to the record (R336, R347). -/
def trainingDone (d : Dev) (n : Nat) (found : BitVec 4) : Dev :=
  if linkState d n ≠ 3 then d
  else
    let r := applyWidth d n found (if (getPort d n).topo.isSome then 5 else 4)
    if r.1 then afterTraining r.2 n else r.2
/-- A silent peer is tried again every 10 ms: the port starts step 2 anew and waits (R348). -/
def peerRetry (d : Dev) (n : Nat) : Dev := if linkState d n = 2 then setLink d n 2 else d

/-- A laser input falls below the threshold: its ports go down, and the event is counted against the input (R24, R342, R366).
(DEDUCED, log entry 21) -/
def laserLow (d : Dev) (i wave power : Nat) : Dev :=
  let a := pgOpt 12
  let d := setRfld d (a + 0x860 + 4 * i) (8 * wave) 8 power
  if rfld d (a + 0x800) 0 8 ≤ power ∨ !laserGood d i then d
  else
    let d := { d with board := { d.board with laserOk := setBv d.board.laserOk i false } }
    let d := incSat d (a + 0x8A0 + 4 * i)
    let d := wearEvent (raiseErr d a 2 0x101 (256 * i + 4096 * wave) 0) a 2 0x101
    (laserPorts i).foldl (fun d n =>
      let d := putPort d n { getPort d n with eligible := false }
      let st := linkState d n
      if st = 0 ∨ st = 9 ∨ st = 1 then d
      else
        let d := if st = lsUp ∨ st = 8 then (portRaise d n 2 0x104 0 1 0).2 else d
        portDown d n 1) d

/-- Every wavelength of an input has stayed 1.0 dB above the threshold for 100 ms: its ports come up again (R24). -/
def laserRestore (d : Dev) (i : Nat) (powers : W32) : Dev :=
  let a := pgOpt 12
  let d := setReg d (a + 0x860 + 4 * i) powers
  let ok := (List.range 4).all (fun k => decide (rfld d (a + 0x800) 0 8 + 10 ≤ fld powers.toNat (8 * k) 8))
  if !ok then d
  else
    let d := { d with board := { d.board with laserOk := setBv d.board.laserOk i true } }
    (laserPorts i).foldl (fun d n =>
      let d := putPort d n { getPort d n with eligible := true }
      if linkState d n = 1 ∧ d.board.optics then setLink d n 2 else d) d

/-- Fencing a port ends its sessions and loses what it had not delivered; what waits is a dead letter (R342, R479). -/
def portEnd (d : Dev) (n : Nat) : Dev := portDrop (portDown d n 9) n

/-- A lane that fails for good takes its port into a lane test (R336, R479, R522). -/
def laneLost (d : Dev) (engine lane : Nat) : Dev :=
  let n := portOfLane engine lane
  if 50 ≤ n then d
  else
    let p := getPort d n
    portRetrain (putPort d n { p with failedLanes := setBv p.failedLanes (lane % 4) true }) n

/-- RING_HEATER_UPDATE of an engine: lane readings; a ring that lost and regained lock; a ring that reaches its limit (R368). -/
def ringUpdate (d : Dev) (j : Nat) (lanes : List (Fin 16 × W32)) (relocked limited : Option (Fin 16)) : Dev :=
  let a := pgOpt j
  let d := lanes.foldl (fun d x => setRegN d (a + 0x820 + 4 * x.1.val) (x.2.toNat % 2 ^ 20 + 2 ^ 24 * fld x.2.toNat 24 2)) d
  let d := match relocked with
    | some x => let r := raise d a 1 0x100 x.val x.val 0; wearEvent r.2 a r.1 0x100
    | none => d
  match limited with | some x => (raise d a 3 0x102 x.val x.val 0).2 | none => d

/-- A topology record is installed: a port whose entry is unchanged keeps its session, every other erases its keys and goes
back to step 4, one that an earlier record left OFF among them; a port whose entry is not PRESENT is set OFF and keeps what its lane test
found (R348, R351). (DEDUCED, log entry 55) -/
def topologyInstall (d : Dev) (t : Topology) : Dev :=
  (List.range 50).foldl (fun d n =>
    match t.entries[n]? with
    | none => d
    | some e =>
      let p := getPort d n
      let st := linkState d n
      let a := pgOfPort n
      if !e.present then
        let d := putPort d n { p with topo := none }
        if st = 0 ∨ st = 9 then d
        else
          let d := portReset d n 0
          let d := putPort d n { getPort d n with unnamed := decide (4 ≤ st) }
          portDrop (setState (setCtrl d a 0) a stOff) n
      else if p.topo = some e then d
      else
        let d := putPort d n { p with topo := some e, unnamed := false }
        if 4 ≤ st ∧ st ≤ 8 then handshakeStart (portReset d n 4) n
        else if st = 0 ∧ p.unnamed then handshakeStart (setLink (setState (setCtrl d a 1) a stStarting) n 4) n
        else d) d

end Sys2Proof.Machine
end

