-- ==== Sys2Proof/Machine/Fp.lean ====
section
/-!
DEFINITION. Number formats and arithmetic (chapter 8): the values that encodings hold, rounding, conversions, the exact
block sum, stochastic rounding, and the correctly rounded functions of R167. A finite value is a sign, a magnitude and a
power of two; every operation is exact in these and rounds once.
-/
namespace Sys2Proof.Machine.Fp

/-- A value: NaN, an infinity, or (-1)^neg × m × 2^e. -/
inductive FVal where
  | nan
  | inf (neg : Bool)
  | num (neg : Bool) (m : Nat) (e : Int)
  deriving DecidableEq, Repr

/-- The element widths of the datatype codes of R233, in bits. -/
def width (code : Nat) : Nat :=
  match code with
  | 0x1 => 64 | 0x2 => 32 | 0x3 => 16 | 0x4 => 16 | 0x7 => 4 | 0x9 => 32
  | _ => 8

/-- Exponent width, mantissa width and bias of a floating-point code (R233). -/
def layout (code : Nat) : Nat × Nat × Nat :=
  match code with
  | 0x1 => (11, 52, 1023) | 0x2 => (8, 23, 127) | 0x3 => (8, 7, 127) | 0x4 => (5, 10, 15)
  | 0x5 | 0xA => (4, 3, 7) | 0x6 | 0xB => (5, 2, 15) | 0x7 => (2, 1, 1)
  | _ => (0, 0, 0)

def isInt (code : Nat) : Bool := code == 0x8 || code == 0x9
def isMx (code : Nat) : Bool := code == 0x7 || code == 0xA || code == 0xB
def isE4m3 (code : Nat) : Bool := code == 0x5 || code == 0xA
/-- Types with an infinity (R234). -/
def hasInf (code : Nat) : Bool := !isE4m3 code && code != 0x7 && !isInt code

/-- The value of an encoding (R233, R234). -/
def decode (code x : Nat) : FVal :=
  if isInt code then
    let w := width code
    let x := x % 2 ^ w
    if x < 2 ^ (w - 1) then .num false x 0 else .num true (2 ^ w - x) 0
  else
    let (ew, mw, bias) := layout code
    let m := x % 2 ^ mw
    let ex := x / 2 ^ mw % 2 ^ ew
    let neg := decide (x / 2 ^ (mw + ew) % 2 = 1)
    if hasInf code ∧ ex = 2 ^ ew - 1 then (if m = 0 then .inf neg else .nan)
    else if isE4m3 code ∧ ex = 15 ∧ m = 7 then .nan
    else if ex = 0 then .num neg m (1 - (bias : Int) - mw)
    else .num neg (2 ^ mw + m) ((ex : Int) - bias - mw)

/-- The canonical NaN of a type, or the value in its place (R235). -/
def canonNan (code : Nat) : Nat :=
  match code with
  | 0x1 => 0x7FF8000000000000 | 0x2 => 0x7FC00000 | 0x3 => 0x7FC0 | 0x4 => 0x7E00
  | 0x5 | 0x6 | 0xA | 0xB => 0x7F | 0x8 => 0x80 | 0x9 => 0x80000000
  | _ => 0

/-- floor(log2 (n / d)) for positive n and d. -/
def flog2 (n d : Nat) : Int :=
  let k := (n.log2 : Int) - d.log2
  let low := if 0 ≤ k then decide (n < d * 2 ^ k.toNat) else decide (n * 2 ^ (-k).toNat < d)
  if low then k - 1 else k

/-- How a value is rounded: to nearest even, or stochastically with a draw u (R245, R253). -/
inductive Rnd where
  | even
  | stoch (u : Nat)
  deriving DecidableEq, Repr

/-- Round n / d × 2^e to an integer multiple of 2^q: the multiple. -/
def roundAt (n d : Nat) (e q : Int) (r : Rnd) : Nat :=
  let num := if q ≤ e then n * 2 ^ (e - q).toNat else n
  let den := if q ≤ e then d else d * 2 ^ (q - e).toNat
  let i := num / den
  let rem := num % den
  match r with
  | .even => if 2 * rem > den ∨ (2 * rem = den ∧ i % 2 = 1) then i + 1 else i
  | .stoch u => if u < rem * 65536 / den then i + 1 else i

/-- The exponent of the smallest subnormal's place of a floating-point code. -/
def eminOf (code : Nat) : Int := let (_, mw, bias) := layout code; 1 - (bias : Int) - mw

/-- The magnitude code (exponent and mantissa fields) of i × 2^q, with the exponent unbounded above. -/
def magCode (code i : Nat) (q : Int) : Nat :=
  let (_, mw, _) := layout code
  let i' := if i = 2 ^ (mw + 1) then i / 2 else i
  let q' := if i = 2 ^ (mw + 1) then q + 1 else q
  if i' < 2 ^ mw then i' else (q' - eminOf code + 1).toNat * 2 ^ mw + (i' - 2 ^ mw)

/-- The magnitude code of the largest finite value (R233). -/
def maxCode (code : Nat) : Nat :=
  if isE4m3 code then 0x7E
  else if code = 0x7 then 7
  else let (ew, mw, _) := layout code; (2 ^ ew - 1) * 2 ^ mw - 1

def signBit (code : Nat) (neg : Bool) : Nat :=
  let (ew, mw, _) := layout code
  if neg then 2 ^ (ew + mw) else 0

/-- The overflow mode in force: 1 SAT, 2 IEEE, 0 the target's default (R246). -/
def ovfMode (code mode : Nat) : Nat :=
  if mode ≠ 0 then mode
  else if isE4m3 code ∨ code = 0x7 ∨ isInt code then 1 else 2

/-- What an overflowing magnitude becomes (R246). -/
def ovfResult (code : Nat) (neg : Bool) (mode : Nat) : Nat :=
  if isInt code then
    let w := width code
    if ovfMode code mode = 1 then (if neg then 2 ^ w - (2 ^ (w - 1) - 1) else 2 ^ (w - 1) - 1) else canonNan code
  else if ovfMode code mode = 1 then signBit code neg + maxCode code
  else if hasInf code then signBit code neg + maxCode code + 1
  else canonNan code

/-- Round (-1)^neg × n / d × 2^e into a type: the encoding, and whether a finite value overflowed (R245 to R247). -/
def roundTo (code : Nat) (neg : Bool) (n d : Nat) (e : Int) (mode : Nat) (r : Rnd) : Nat × Bool :=
  if isInt code then
    let i := if n = 0 then 0 else roundAt n d e 0 r
    let w := width code
    if 2 ^ (w - 1) - 1 < i then (ovfResult code neg mode, true)
    else (if neg ∧ i ≠ 0 then 2 ^ w - i else i, false)
  else if n = 0 then (signBit code neg, false)
  else
    let (_, mw, _) := layout code
    let q := max (flog2 n d + e - mw) (eminOf code)
    let c := magCode code (roundAt n d e q r) q
    if maxCode code < c then (ovfResult code neg mode, true) else (signBit code neg + c, false)

/-- A conversion of a value to a type other than an MX type (R245 to R247); the second part says the element counts as an
overflow (R255). -/
def convert (code : Nat) (v : FVal) (mode : Nat) (r : Rnd) : Nat × Bool :=
  match v with
  | .nan => (canonNan code, false)
  | .inf neg =>
    if ovfMode code mode = 1 then (ovfResult code neg 1, true)
    else if hasInf code then (ovfResult code neg 2, false) else (canonNan code, false)
  | .num neg m e => roundTo code neg m 1 e mode r

/-- The encoding nearest to a value in a floating-point type, IEEE style (R167, R218). -/
def encode (code : Nat) (v : FVal) : Nat := (convert code v 2 .even).1

/-! ## Exact dyadic arithmetic -/

/-- A finite value as an integer multiple of 2^q, for q at or below its exponent. -/
def toInt (neg : Bool) (m : Nat) (e q : Int) : Int :=
  let k := (m * 2 ^ (e - q).toNat : Nat)
  if neg then -(k : Int) else k

/-- IEEE addition of two values before rounding; an exact zero sum of opposite signs is +0. The flag says infinities of
opposite sign met. -/
def addVal (a b : FVal) : FVal × Bool :=
  match a, b with
  | .nan, _ => (.nan, false)
  | _, .nan => (.nan, false)
  | .inf x, .inf y => if x = y then (.inf x, false) else (.nan, true)
  | .inf x, _ => (.inf x, false)
  | _, .inf y => (.inf y, false)
  | .num na ma ea, .num nb mb eb =>
    let q := min ea eb
    let s := toInt na ma ea q + toInt nb mb eb q
    if s = 0 then (.num (if ma = 0 ∧ mb = 0 then na && nb else false) 0 q, false)
    else (.num (decide (s < 0)) s.natAbs q, false)

/-- IEEE multiplication before rounding; the flag says 0 × ∞. -/
def mulVal (a b : FVal) : FVal × Bool :=
  match a, b with
  | .nan, _ => (.nan, false)
  | _, .nan => (.nan, false)
  | .inf x, .inf y => (.inf (x != y), false)
  | .inf x, .num y m _ => if m = 0 then (.nan, true) else (.inf (x != y), false)
  | .num x m _, .inf y => if m = 0 then (.nan, true) else (.inf (x != y), false)
  | .num x m e, .num y n f => (.num (x != y) (m * n) (e + f), false)

def negVal : FVal → FVal
  | .nan => .nan
  | .inf s => .inf (!s)
  | .num s m e => .num (!s) m e
def isNan : FVal → Bool
  | .nan => true
  | _ => false
def isInfV : FVal → Bool
  | .inf _ => true
  | _ => false
def isZeroV : FVal → Bool
  | .num _ m _ => m == 0
  | _ => false
def isFin : FVal → Bool
  | .num _ _ _ => true
  | _ => false

/-- Numbers compared by value: −0 and +0 are equal. -/
def ltVal (a b : FVal) : Bool :=
  match a, b with
  | .nan, _ | _, .nan => false
  | .inf x, .inf y => x && !y
  | .inf x, _ => x
  | _, .inf y => !y
  | .num na ma ea, .num nb mb eb =>
    let q := min ea eb
    decide (toInt na ma ea q < toInt nb mb eb q)
def eqVal (a b : FVal) : Bool := !isNan a && !isNan b && !ltVal a b && !ltVal b a
def signOf : FVal → Bool
  | .nan => false
  | .inf s => s
  | .num s _ _ => s

/-! ## FP32 and FP64 operations (R167, R218) -/

/-- Addition in a stack type: the sum, whether infinities of opposite sign met, whether finite operands overflowed. -/
def addIn (code a b : Nat) : Nat × Bool × Bool :=
  if code = 0x9 then ((a + b) % 2 ^ 32, false, false)
  else
    let va := decode code a
    let vb := decode code b
    let s := addVal va vb
    let r := convert code s.1 2 .even
    (r.1, s.2, r.2)

def add32 (a b : Nat) : Nat := (addIn 0x2 a b).1
def mul32 (a b : Nat) : Nat := encode 0x2 (mulVal (decode 0x2 a) (decode 0x2 b)).1
def sub32 (a b : Nat) : Nat := encode 0x2 (addVal (decode 0x2 a) (negVal (decode 0x2 b))).1
/-- a × b + c with one rounding. -/
def fma32 (a b c : Nat) : Nat := encode 0x2 (addVal (mulVal (decode 0x2 a) (decode 0x2 b)).1 (decode 0x2 c)).1
def add64 (a b : Nat) : Nat := (addIn 0x1 a b).1
/-- Division with one rounding. -/
def divVal (a b : FVal) (code : Nat) : Nat :=
  match a, b with
  | .nan, _ | _, .nan => canonNan code
  | .inf _, .inf _ => canonNan code
  | .inf x, .num y _ _ => signBit code (x != y) + maxCode code + 1
  | .num x _ _, .inf y => signBit code (x != y)
  | .num x m e, .num y n f =>
    if n = 0 then (if m = 0 then canonNan code else signBit code (x != y) + maxCode code + 1)
    else (roundTo code (x != y) m n (e - f) 2 .even).1
def div32 (a b : Nat) : Nat := divVal (decode 0x2 a) (decode 0x2 b) 0x2

/-- FP32 maximum and minimum: a number wins over a NaN, and −0 lies below +0 (R167). -/
def maxmin32 (isMax : Bool) (a b : Nat) : Nat :=
  let va := decode 0x2 a
  let vb := decode 0x2 b
  if isNan va then (if isNan vb then canonNan 0x2 else b)
  else if isNan vb then a
  else
    let less := ltVal va vb || (eqVal va vb && signOf va && !signOf vb)
    if less == isMax then b else a

/-- The compare conditions of VCMP: 0 EQ, 1 NE, 2 LT, 3 LE, 4 GT, 5 GE (R166, R167). -/
def cmpVal (cond : Nat) (a b : FVal) : Bool :=
  match cond with
  | 0 => eqVal a b
  | 1 => !eqVal a b
  | 2 => ltVal a b
  | 3 => ltVal a b || eqVal a b
  | 4 => ltVal b a
  | _ => ltVal b a || eqVal a b

/-! ## Square roots, powers and logarithms, correctly rounded (R167; DEDUCED, log entry 16) -/

/-- Integer square root by Newton's steps from above; `fuel` bounds them. -/
def sqrtStep : Nat → Nat → Nat → Nat
  | 0, _, x => x
  | k + 1, n, x => let y := (x + n / x) / 2; if y < x then sqrtStep k n y else x
def isqrt (n : Nat) : Nat := if n = 0 then 0 else sqrtStep (n.log2 + 2) n (2 ^ (n.log2 / 2 + 1))

/-- √(m × 2^e) as an encoding of a type; m positive. -/
def sqrtEnc (code m : Nat) (e : Int) : Nat :=
  let k : Int := 128
  let m' := if e % 2 = 0 then m else 2 * m
  let e' := if e % 2 = 0 then e else e - 1
  let n := m' * 2 ^ (2 * k).toNat
  let s := isqrt n
  if s * s = n then (roundTo code false s 1 (e' / 2 - k) 2 .even).1
  else (roundTo code false (2 * s + 1) 1 (e' / 2 - k - 1) 2 .even).1

/-- The square root of an FP32 encoding. -/
def sqrt32 (a : Nat) : Nat :=
  match decode 0x2 a with
  | .nan => canonNan 0x2
  | .inf s => if s then canonNan 0x2 else 0x7F800000
  | .num s m e => if m = 0 then signBit 0x2 s else if s then canonNan 0x2 else sqrtEnc 0x2 m e

def rcp32 (a : Nat) : Nat :=
  match decode 0x2 a with
  | .nan => canonNan 0x2
  | .inf s => signBit 0x2 s
  | .num s m e => if m = 0 then signBit 0x2 s + 0x7F800000 else (roundTo 0x2 s 1 m (-e) 2 .even).1

def rsqrt32 (a : Nat) : Nat :=
  match decode 0x2 a with
  | .nan => canonNan 0x2
  | .inf s => if s then canonNan 0x2 else 0
  | .num s m e =>
    if m = 0 then signBit 0x2 s + 0x7F800000
    else if s then canonNan 0x2
    else
      let m' := if e % 2 = 0 then m else 2 * m
      let e' := if e % 2 = 0 then e else e - 1
      let k : Int := 192
      let r := isqrt (2 ^ (2 * k).toNat / m')
      if r * r * m' = 2 ^ (2 * k).toNat then (roundTo 0x2 false r 1 (-k - e' / 2) 2 .even).1
      else (roundTo 0x2 false (2 * r + 1) 1 (-k - e' / 2 - 1) 2 .even).1

/-- The fraction bits that the logarithm and the power are computed to before the one rounding. (DEDUCED, log entry 16) -/
def fracBits : Nat := 128
/-- 2^f for f = frac / 2^n with n bits left, in 256-bit fixed point; c is 2^(2^-i) for the next bit. (DEDUCED, log entry 16) -/
def powBits : Nat → Nat → Nat → Nat → Nat
  | 0, _, _, acc => acc
  | n + 1, frac, c, acc =>
    let acc' := if frac / 2 ^ n % 2 = 1 then acc * c / 2 ^ 256 else acc
    powBits n frac (isqrt (c * 2 ^ 256)) acc'

def exp2_32 (a : Nat) : Nat :=
  match decode 0x2 a with
  | .nan => canonNan 0x2
  | .inf s => if s then 0 else 0x7F800000
  | .num s m e =>
    if m = 0 then 0x3F800000
    else if 8 ≤ flog2 m 1 + e then (if s then 0 else 0x7F800000)
    else
      let x := toInt s m (e + 400) 0
      let ip := x / 2 ^ 400
      let fp := (x % 2 ^ 400).toNat
      if fp = 0 then (roundTo 0x2 false 1 1 ip 2 .even).1
      else
        let p := powBits fracBits (fp / 2 ^ (400 - fracBits)) (isqrt (2 * 2 ^ 512)) (2 ^ 256)
        (roundTo 0x2 false (2 * p + 1) 1 (ip - 257) 2 .even).1

/-- The next n bits of log2 y for y in [1, 2), in 512-bit fixed point. (DEDUCED, log entry 16) -/
def logBits : Nat → Nat → Nat → Nat
  | 0, _, acc => acc
  | n + 1, y, acc =>
    let y2 := y * y / 2 ^ 512
    if 2 ^ 513 ≤ y2 then logBits n (y2 / 2) (2 * acc + 1) else logBits n y2 (2 * acc)

def log2_32 (a : Nat) : Nat :=
  match decode 0x2 a with
  | .nan => canonNan 0x2
  | .inf s => if s then canonNan 0x2 else 0x7F800000
  | .num s m e =>
    if m = 0 then 0xFF800000
    else if s then canonNan 0x2
    else
      let k := flog2 m 1 + e
      if m = 2 ^ m.log2 then (roundTo 0x2 (decide (k < 0)) k.natAbs 1 0 2 .even).1
      else
        let l := logBits fracBits (m * 2 ^ (512 - m.log2)) 0
        let v : Int := k * 2 ^ (fracBits + 1) + (2 * l + 1 : Nat)
        (roundTo 0x2 (decide (v < 0)) v.natAbs 1 (-(fracBits + 1 : Nat)) 2 .even).1

/-! ## Stochastic rounding source (R251, R252) -/

/-- lfsr_step of R251: the next state and the bit drawn. -/
def lfsrStep (s : Nat) : Nat × Nat :=
  let o := s % 2
  (if o = 1 then s / 2 ^^^ 0xE0000200 else s / 2, o)
def drawBits : Nat → Nat → Nat → Nat → Nat × Nat
  | 0, _, s, u => (s, u)
  | n + 1, i, s, u => let r := lfsrStep s; drawBits n (i + 1) r.1 (u + r.2 * 2 ^ i)
/-- draw16 of R251. -/
def draw16 (s : Nat) : Nat × Nat := drawBits 16 0 s 0
def lfsrRun : Nat → Nat → Nat
  | 0, s => s
  | n + 1, s => lfsrRun n (lfsrStep s).1
/-- seed of R252. -/
def seed (jobSeed tensor tile : Nat) : Nat :=
  let x := jobSeed % 2 ^ 32 ^^^ jobSeed / 2 ^ 32 % 2 ^ 32
  let x := x ^^^ tensor * 0x9E3779B1 % 2 ^ 32
  let x := x ^^^ tile * 0x85EBCA77 % 2 ^ 32
  lfsrRun 64 (if x = 0 then 1 else x)

/-- The rounding of the next element, and the generator after it (R254). -/
def nextRnd (rnd : Bool) (s : Nat) : Rnd × Nat :=
  if rnd then let r := draw16 s; (.stoch r.2, r.1) else (.even, s)

/-! ## Conversions of many elements (R248 to R250, R254) -/

/-- A list of conversions: encodings, overflow count, generator. -/
structure Conv where
  out : List Nat
  ovf : Nat
  lfsr : Nat
  deriving DecidableEq, Repr

/-- Convert values one after another into a type without a scale. `live i` says whether element i counts. -/
def convList (code mode : Nat) (rnd : Bool) (live : Nat → Bool) : Nat → List FVal → Conv → Conv
  | _, [], c => c
  | i, v :: vs, c =>
    let (r, s) := nextRnd rnd c.lfsr
    let x := convert code v mode r
    convList code mode rnd live (i + 1) vs ⟨c.out ++ [x.1], c.ovf + (x.2 && live i).toNat, s⟩

/-- Convert the values of MX elements (R250): an infinity stays one, whatever the mode. -/
def convMxList (code mode : Nat) (rnd : Bool) (live : Nat → Bool) : Nat → List FVal → Conv → Conv
  | _, [], c => c
  | i, v :: vs, c =>
    let (r, s) := nextRnd rnd c.lfsr
    let x := convert code v (if isInfV v then 2 else mode) r
    convMxList code mode rnd live (i + 1) vs ⟨c.out ++ [x.1], c.ovf + (x.2 && live i).toNat, s⟩

/-- A per-tensor scale that scales: finite and above 0 (R248). -/
def goodScale : FVal → Bool
  | .num s m _ => !s && m != 0
  | _ => false

/-- x / s rounded into a per-tensor scaled type (R248). -/
def convScaled (code : Nat) (v s : FVal) (mode : Nat) (r : Rnd) : Nat × Bool :=
  if !goodScale s then (canonNan code, false)
  else match v, s with
    | .num neg m e, .num _ n f => roundTo code neg m n (e - f) mode r
    | v, _ => convert code v mode r
def convScaledList (code mode : Nat) (rnd : Bool) (s : FVal) (live : Nat → Bool) : Nat → List FVal → Conv → Conv
  | _, [], c => c
  | i, v :: vs, c =>
    let (r, g) := nextRnd rnd c.lfsr
    let x := convScaled code v s mode r
    convScaledList code mode rnd s live (i + 1) vs ⟨c.out ++ [x.1], c.ovf + (x.2 && live i).toNat, g⟩

/-- emax of an MX element type (R249). -/
def emaxOf (code : Nat) : Int := if code = 0x7 then 2 else if code = 0xA then 8 else 15

/-- One element of an MX block, its scale being 2^x: the encoding and whether it counts as an overflow (R249 steps 1, 5, 6). -/
def mxElem (code mode : Nat) (x : Int) (v : FVal) (r : Rnd) : Nat × Bool :=
  let sat := ovfMode code mode = 1
  let fin (neg : Bool) (m : Nat) (e : Int) : Nat :=
    let y := roundTo code neg m 1 (e - x) 1 r
    y.1
  match v with
  | .nan => (canonNan code, false)
  | .inf neg =>
    if sat then (fin neg (2 ^ 24 - 1) 104, true)
    else if code = 0xB then (signBit code neg + 0x7C, false) else (canonNan code, false)
  | .num neg m e => (fin neg m e, false)

/-- The elements of an MX block with shared exponent x. -/
def mxElems (code mode : Nat) (x : Int) (rnd zero : Bool) (live : Nat → Bool) : Nat → List FVal → Conv → Conv
  | _, [], c => c
  | i, v :: vs, c =>
    let (r, s) := nextRnd rnd c.lfsr
    let y := if zero then (0, (mxElem code mode x v r).2 && ovfMode code mode == 1) else mxElem code mode x v r
    mxElems code mode x rnd zero live (i + 1) vs ⟨c.out ++ [y.1], c.ovf + (y.2 && live i).toNat, s⟩

/-- Quantise one block of up to 32 values (R249): the scale byte, then the elements. `live` marks the lanes that take part. -/
def mxBlock (code mode : Nat) (rnd : Bool) (live : Nat → Bool) (vs : List FVal) (lfsr : Nat) : Nat × Conv :=
  let sat := ovfMode code mode = 1
  let part := (List.range vs.length).filter live
  let src := part.map (fun i => let v := vs.getD i .nan; if sat ∧ isInfV v then .num (signOf v) (2 ^ 24 - 1) 104 else v)
  let bad := code = 0x7 ∧ (src.any isNan ∨ src.any isInfV)
  let logs := src.filterMap (fun v => match v with | .num _ m e => if m = 0 then none else some (flog2 m 1 + e) | _ => none)
  let x : Int := match logs with
    | [] => -127
    | l :: ls => max (-127) (min 127 (ls.foldl max l - emaxOf code))
  (if bad then 0xFF else (x + 127).toNat, mxElems code mode x rnd bad live 0 vs ⟨[], 0, lfsr⟩)

/-- The value of an MX element under a scale byte (R234, R250). -/
def mxValue (code scale x : Nat) : FVal :=
  if scale = 0xFF then .nan
  else match decode code x with
    | .num s m e => .num s m (e + scale - 127)
    | v => v

/-! ## Products and block sums (R236 to R242) -/

/-- trunc_product of R237: keep the leading bits and add a quarter of the last kept place. -/
def truncMag (m : Nat) (e : Int) (keep : Nat) : Nat × Int :=
  let n := if m = 0 then 0 else m.log2 + 1
  if keep < n then (m / 2 ^ (n - keep) * 4 + 1, e + (n - keep : Nat) - 2) else (m, e)

/-- A product of one A and one B element (R236 to R238); the flag says an invalid product. -/
def product (code : Nat) (a b : FVal) : FVal × Bool :=
  match mulVal a b with
  | (.num s m e, f) =>
    let t := if code = 0x2 then truncMag m e 28 else if code = 0x1 then truncMag m e 56 else (m, e)
    (.num s t.1 t.2, f)
  | r => r

/-- The window W of a type (R240). -/
def windowOf (code : Nat) : Nat := match code with | 0x4 => 48 | 0x2 => 56 | 0x1 => 112 | _ => 40

/-- block_sum of R239: the exact sum of truncated products as an integer and its exponent. -/
def blockSum (prods : List FVal) (w : Nat) : Int × Int :=
  let nz := prods.filterMap (fun p => match p with | .num _ m e => if m = 0 then none else some (flog2 m 1 + e) | _ => none)
  match nz with
  | [] => (0, 0)
  | l :: ls =>
    let q : Int := ls.foldl max l - w
    let term (p : FVal) : Int :=
      match p with
      | .num s m e =>
        let v : Int := if s then -(m : Int) else m
        if q ≤ e then v * 2 ^ (e - q).toNat else v / 2 ^ (q - e).toNat
      | _ => 0
    ((prods.map term).foldl (· + ·) 0, q)

/-- What a block result raises: INV, OVF (R241, R242). -/
structure BlockRes where
  bits : Nat
  inv : Bool
  ovf : Bool
  deriving DecidableEq, Repr

/-- The block result of 32 products in a stack type, scaled by 2^sh (R239 to R242). `invalid` says that some product was
invalid. -/
def blockResult (stack w : Nat) (prods : List FVal) (invalid : Bool) (sh : Int) : BlockRes :=
  let pos := prods.any (fun p => p == .inf false)
  let neg := prods.any (fun p => p == .inf true)
  if invalid then ⟨canonNan stack, true, false⟩
  else if pos && neg then ⟨canonNan stack, true, false⟩
  else if prods.any isNan then ⟨canonNan stack, false, false⟩
  else if pos then ⟨encode stack (.inf false), false, false⟩
  else if neg then ⟨encode stack (.inf true), false, false⟩
  else
    let s := blockSum prods w
    if s.1 = 0 then ⟨0, false, false⟩
    else if stack = 0x9 then ⟨((s.1 * 2 ^ s.2.toNat / 2 ^ (-s.2).toNat) % 2 ^ 32).toNat, false, false⟩
    else
      let r := roundTo stack (decide (s.1 < 0)) s.1.natAbs 1 (s.2 + sh) 2 .even
      ⟨r.1, false, r.2⟩

end Sys2Proof.Machine.Fp
end

