-- ==== Sys2Proof/Machine/Operands.lean ====
section
/-!
DEFINITION. Operand forms of the wide core: the registers of a context (R154), operand B (R162), the conditions of FN
(R163), stream descriptors and the addresses they name (R174 to R176), and the accesses of a core to memory (R153, R155,
R300).
-/
namespace Sys2Proof.Machine

/-! ## Registers of a context (R154) -/

def zeroV (_ : Nat) : VReg := 0
def zeroP (_ : Nat) : PReg := 0

/-- s0 reads 0. -/
def sReg (c : Ctx) (i : Nat) : W64 := if i = 0 then 0 else sget zero64 c.s i
def sN (c : Ctx) (i : Nat) : Nat := (sReg c i).toNat
/-- Writes to s0 are discarded. -/
def setS (c : Ctx) (i : Nat) (v : W64) : Ctx := if i = 0 then c else { c with s := sput zero64 c.s i v }
def vReg (c : Ctx) (i : Nat) : VReg := sget zeroV c.v i
def setV (c : Ctx) (i : Nat) (x : VReg) : Ctx := { c with v := sput zeroV c.v i x }
def pReg (c : Ctx) (i : Nat) : PReg := sget zeroP c.p i
def setP (c : Ctx) (i : Nat) (x : PReg) : Ctx := { c with p := sput zeroP c.p i x }
def cReg (c : Ctx) (i : Nat) : W32 := sget zero32 c.c i
def setC (c : Ctx) (i : Nat) (x : W32) : Ctx := { c with c := sput zero32 c.c i x }
def dReg (c : Ctx) (i : Nat) : Stream := sget streamDefault c.d i
def setD (c : Ctx) (i : Nat) (x : Stream) : Ctx := { c with d := sput streamDefault c.d i x }

/-- Lane i of a vector register as a number (R154). -/
def lane (v : VReg) (i : Nat) : Nat := fld v.toNat (32 * i) 32
/-- A vector register from its lanes. -/
def ofLanes (l : List Nat) : VReg := BitVec.ofNat 4096 (l.foldr (fun x acc => x % 2 ^ 32 + 2 ^ 32 * acc) 0)
def lanes (v : VReg) : List Nat := (List.range 128).map (lane v)
/-- The 512 bytes of a vector register (R165). -/
def vBytes (v : VReg) : List Byte := toBytes 512 v.toNat
def ofVBytes (b : List Byte) : VReg := BitVec.ofNat 4096 (ofBytes b)

/-- Keys of registers in a context's list of pending results: s, v, p and c registers (R172). -/
def kS (i : Nat) : Nat := i
def kV (i : Nat) : Nat := 64 + i
def kP (i : Nat) : Nat := 96 + i
def kC (i : Nat) : Nat := 104 + i
def setBusy (c : Ctx) (k t : Nat) : Ctx := { c with busy := sput zeroNat c.busy k t }

/-- An increment of a completion counter by the hardware (R178). -/
def ctrInc (d : Dev) (key ctr : Nat) : Dev :=
  let c := getCtx d key
  putCtx d key (setC c ctr (cReg c ctr + 1))

/-! ## Operand B and conditions (R162, R163) -/

/-- IMM sign-extended to 64 bits. -/
def imm64 (imm : W32) : W64 := imm.signExtend 64
/-- Operand B: s[SB] plus IMM, modulo 2^64. -/
def operandB (c : Ctx) (f : CtrlF) : W64 := sReg c f.sb.toNat + imm64 f.imm
/-- The address s[SA] + IMM, modulo 2^64. -/
def addrA (c : Ctx) (sa : BitVec 6) (imm : W32) : Nat := (sReg c sa.toNat + imm64 imm).toNat
/-- The conditions 0 EQ, 1 NE, 2 LT, 3 GE, 4 LTU, 5 GEU. -/
def condHolds (fn : Nat) (a b : W64) : Bool :=
  match fn with
  | 0 => a == b
  | 1 => a != b
  | 2 => a.slt b
  | 3 => !a.slt b
  | 4 => decide (a.toNat < b.toNat)
  | _ => !decide (a.toNat < b.toNat)
/-- (x − b) mod 2^32, read as signed 32 bits, is 0 or more (R162). -/
def reached (x b : W32) : Bool := decide ((x - b).toNat < 2 ^ 31)

/-! ## Descriptors (R174) -/

def dfld (x : BitVec 512) (lo w : Nat) : Nat := fld x.toNat lo w
def dscPpa (x : BitVec 512) : Nat := dfld x 0 40
def dscPackage (x : BitVec 512) : Nat := dfld x 40 11
def dscRemote (x : BitVec 512) : Bool := dfld x 51 1 == 1
def dscLen0 (x : BitVec 512) : Nat := dfld x 64 32
def dscCnt1 (x : BitVec 512) : Nat := dfld x 96 32
def dscCnt2 (x : BitVec 512) : Nat := dfld x 128 32
def signed32 (n : Nat) : Int := if n < 2 ^ 31 then n else (n : Int) - 2 ^ 32
def dscStride1 (x : BitVec 512) : Int := signed32 (dfld x 160 32)
def dscStride2 (x : BitVec 512) : Int := signed32 (dfld x 192 32)
def dscKind (x : BitVec 512) : Nat := dfld x 224 4
def dscCtr (x : BitVec 512) : Nat := dfld x 232 4
def dscCtrEn (x : BitVec 512) : Bool := dfld x 236 1 == 1
def dscBox (x : BitVec 512) : Nat := dfld x 240 16
/-- A reserved bit set or a reserved KIND (R175). -/
def dscBad (x : BitVec 512) : Bool :=
  dfld x 52 12 != 0 || dfld x 228 4 != 0 || dfld x 237 3 != 0 || dfld x 256 256 != 0 || decide (3 < dscKind x)
/-- The size of the stream in bytes. -/
def dscSize (x : BitVec 512) : Nat := dscLen0 x * dscCnt1 x * dscCnt2 x

/-- The address offset of byte i of the stream from its PPA. -/
def dscOffset (x : BitVec 512) (i : Nat) : Int :=
  let l := dscLen0 x
  let n1 := dscCnt1 x
  (i / (l * n1) : Nat) * dscStride2 x + (i / l % n1 : Nat) * dscStride1 x + (i % l : Nat)

/-- The runs of contiguous bytes that hold bytes pos to pos + n − 1 of a stream: offset and length of each (R174). A drain of dW through the
stream of R262 fills row m of the four 32 × 32 blocks of its K-block, one run of 64 bytes per array. -/
def dscRuns (x : BitVec 512) (pos n : Nat) : List (Int × Nat) :=
  let l := dscLen0 x
  if n = 0 ∨ l = 0 then []
  else (List.range ((pos + n - 1) / l - pos / l + 1)).map (fun i =>
    let r := pos / l + i
    let lo := max pos (r * l)
    let hi := min (pos + n) (r * l + l)
    (dscOffset x lo, hi - lo))

/-! ## Restante slots (R304 to R307) -/

def slotBase (d : Dev) (site r : Nat) : Nat := rfld d (pgSorter site + 0x900 + 8 * r) 0 24 * 65536
def slotSize (d : Dev) (site r : Nat) : Nat := rfld d (pgSorter site + 0x904 + 8 * r) 0 23 * 65536
def slotStat (site r : Nat) : Nat := pgSorter site + 0xC00 + 4 * r
def slotState (d : Dev) (site r : Nat) : Nat := rfld d (slotStat site r) 0 2
def slotUses (d : Dev) (site r : Nat) : Nat := rfld d (slotStat site r) 16 16
def slFree : Nat := 0
def slFilling : Nat := 1
def slReady : Nat := 2

/-- One use of a slot ends: USES falls by one, and a READY slot with none left is FREE; past 0 is USES_UNDERFLOW (R305,
R307). -/
def slotUseDone (d : Dev) (site r : Nat) : Dev :=
  let u := slotUses d site r
  if u = 0 then raiseErr d (pgSorter site) 2 0x107 0 0
  else
    let d := setRfld d (slotStat site r) 16 16 (u - 1)
    if u = 1 ∧ slotState d site r = slReady then setRfld d (slotStat site r) 0 2 slFree else d

/-- Whether intervals cover bytes a to a + n − 1. -/
def coveredAux : Nat → List (Nat × Nat) → Nat → Nat → Bool
  | 0, _, a, hi => decide (hi ≤ a)
  | k + 1, l, a, hi =>
    if hi ≤ a then true
    else match l.find? (fun iv => decide (iv.1 ≤ a ∧ a < iv.1 + iv.2)) with
      | some iv => coveredAux k l (iv.1 + iv.2) hi
      | none => false
def covered (l : List (Nat × Nat)) (a n : Nat) : Bool := coveredAux l.length l a (a + n)

/-! ## Accesses of a core to memory -/

/-- The codes of R469 for context faults. -/
def fBadBundle : Nat := 0x100
def fFetch : Nat := 0x101
def fAddr : Nat := 0x102
def fBadStream : Nat := 0x103
def fStreamEnd : Nat := 0x104
def fPoison : Nat := 0x105
def fMode : Nat := 0x106
def fPackRange : Nat := 0x107

/-- A fault of a context: code, slot and address (R188). -/
abbrev CoreFault := Nat × Nat × Nat

/-- Whether n bytes from byte i of core memory lie within it and are aligned (R164). -/
def coreOffOk (o n align : Nat) : Bool := o % align == 0 && decide (o + n ≤ coreMemSize)

/-- A range that a wide core may not reach at all: below address 0, or at 0xFF_0000_0000 and above (R155). -/
def outOfReach (a : Int) (n : Nat) : Bool := decide (a < 0) || decide (0xFF00000000 < a + n)

/-- The bytes of runs from a base address: the bytes, whether any was marked poisoned, and the state. -/
def readRuns (d : Dev) (base : Nat) (runs : List (Int × Nat)) : List Byte × Bool × Dev :=
  runs.foldl (fun acc r =>
    let x := memRead acc.2.2 ((base : Int) + r.1).toNat r.2
    (acc.1 ++ x.1, acc.2.1 || x.2.1, x.2.2)) ([], false, d)

/-- Whether a run of a core's write meets an absent byte or the core's own live code range (R153, R300). -/
def writeBlocked (d : Dev) (site k : Nat) (a : Int) (n : Nat) : Bool :=
  outOfReach a n || !presentRange d a.toNat n || codeHitRange d a.toNat n == some (site, k)

/-- Fill counts of the bucket slots that a wide core's write touches (R425); none while MIB is 0. (DEDUCED, log entry 40) -/
def bucketBytes (d : Dev) (site : Nat) : Nat := rfld d (pgSorter site + 0x808) 0 10 * 1048576
def bucketTemplate (d : Dev) (site : Nat) : Nat :=
  (List.range 16).foldl (fun acc w => acc + regN d (pgSorter site + 0x840 + 4 * w) * 2 ^ (32 * w)) 0
def bucketFill (d : Dev) (site a n : Nat) : Dev :=
  let bb := bucketBytes d site
  let t := bucketTemplate d site
  let src := fld t 64 40
  let nb := fld t 360 16
  if bb = 0 ∨ n = 0 then d
  else
    let lo := max a src
    let hi := min (a + n) (src + nb * bb)
    if hi ≤ lo then d
    else (List.range ((hi - 1 - src) / bb - (lo - src) / bb + 1)).foldl (fun d i =>
      let k := (lo - src) / bb + i
      let len := min hi (src + (k + 1) * bb) - max lo (src + k * bb)
      let x := getSorter d site
      putSorter d site { x with fill := sput zeroNat x.fill k (sget zeroNat x.fill k + len) }) d

/-- Write bytes through runs from a base address, by core k of a site; `count` says the write counts toward bucket fill. -/
def writeRuns (d : Dev) (site k base : Nat) (runs : List (Int × Nat)) (bs : List Byte) (count : Bool) : Dev :=
  (runs.foldl (fun acc r =>
    let a := ((base : Int) + r.1).toNat
    let part := acc.2.take r.2
    let d := agentWrite acc.1 (.core site k) a part false
    ((if count then bucketFill d site a r.2 else d), acc.2.drop r.2)) (d, bs)).1

/-- A context fault: class D on the CORE page, the context FAULTED (R187, R188). -/
def coreInfo0 (n slot : Nat) (pc : W64) : Nat := n + 16 * slot + 65536 * (pc.toNat % 2 ^ 15)

end Sys2Proof.Machine
end

