-- ==== Sys2Proof/Machine/Arrays.lean ====
section
/-!
DEFINITION. The mode state and the weight bindings of the matrix arrays (R195, R198, R206, R209), and which descriptor registers the MX
operations of a core have yet to read or write through (R210, R211).
-/
namespace Sys2Proof.Machine

/-- The arrays set in a mask, ascending. -/
def arraysOf (mask : Nat) : List Nat := (List.range 4).filter (tbit mask)
/-- The arrays that hold a column of a tile of n columns (R198). -/
def usedArrays (c : Core) (n : Nat) : List Nat := (arraysOf c.arrays.toNat).take (ceilDiv n 32)

/-- The binding of an array, if it has one. -/
def bindOf (c : Core) (a : Nat) : Option Nat :=
  let v := sget zeroNat c.binds a
  if v = 0 then none else some (v - 1)
/-- The registers bound to the used arrays, each once, in array order. -/
def boundRegs (c : Core) (used : List Nat) : List Nat := (used.filterMap (bindOf c)).eraseDups
/-- The arrays of a register's binding, ascending (R206). -/
def boundArrays (c : Core) (r : Nat) : List Nat := (List.range 4).filter (fun a => bindOf c a == some r)

/-- MX.WLOAD: the arrays named leave their bindings, the register leaves its own (R209). -/
def bindArrays (c : Core) (f : MxWloadF) (sparse : BitVec 2) : Core :=
  let named := arraysOf f.arrays.toNat
  if named = [] then c
  else
    let kept := c.binds.filter (fun e => e.2 != f.ds.toNat + 1)
    { c with binds := named.foldl (fun b a => sput zeroNat b a (f.ds.toNat + 1)) kept
             sparsity := named.foldl (fun b a => sput zeroNat b a sparse.toNat) c.sparsity }
/-- MX.MODE: the mode state is set, every binding ends, every array is dense (R195). A block read ahead is dropped. -/
def setMode (c : Core) (f : MxModeF) : Core :=
  { c with flow := f.flow, atype := f.atype, btype := f.btype, arrays := f.arrays, binds := [], sparsity := [], back := [] }
/-- The mode state and bindings that the operations behind an operation of the queue find. -/
def modeAfter (c : Core) : MxOp → Core
  | .mode f _ _ => setMode c f
  | .wload f sp _ _ => bindArrays c f sp
  | _ => c

/-- Whether a run reads weight blocks through bindings (R183, R200, R201). -/
def takesWeights (c : Core) (f : MxRunF) (k : Nat) (skipped : Bool) : Bool :=
  c.flow == 0 && !skipped && f.m != 0 && f.n != 0 && k != 0
/-- The descriptor registers that a run has yet to read or move, `done` of its blocks having entered; `ahead` says that the back buffers
hold its next block (R183, R200, R205, R210). -/
def runRegs (c : Core) (f : MxRunF) (k : Nat) (skipped : Bool) (done : Nat) (ahead : Bool) : List Nat :=
  if f.m = 0 ∨ f.n = 0 ∨ ceilDiv k 32 ≤ done then []
  else f.da.toNat ::
    (if c.flow ≠ 0 then [f.db.toNat]
     else if takesWeights c f k skipped ∧ done + ahead.toNat < ceilDiv k 32 then boundRegs c (usedArrays c f.n.toNat) else [])
/-- The descriptor registers that the operations of a queue have yet to use, each under the mode and bindings that it will find. -/
def queueRegs : List MxOp → Core → Bool → List Nat
  | [], _, _ => []
  | .run f k _ _ sk _ _ _ :: l, c, ahead => runRegs c f k sk 0 ahead ++ queueRegs l c (ahead && !takesWeights c f k sk)
  | .drain f _ _ _ :: l, c, ahead => f.dst.toNat :: queueRegs l c ahead
  | o :: l, c, ahead => queueRegs l (modeAfter c o) ahead
/-- The run in progress waits for weight blocks, so that a block in the back buffers is its own. -/
def curWeights (c : Core) : Bool :=
  match c.cur with
  | some r => takesWeights c r.f r.k r.skipped && decide (r.done < ceilDiv r.k 32)
  | none => false
/-- Whether an issued MX operation has yet to read or write through descriptor register i of the owner context (R211). -/
def mxUses (c : Core) (i : Nat) : Bool :=
  let ahead := !c.back.isEmpty
  (match c.cur with | some r => (runRegs c r.f r.k r.skipped r.done ahead).contains i | none => false)
  || (match c.drain with | some (f, _, _, _) => f.dst.toNat == i | none => false)
  || (queueRegs c.queue c (ahead && !curWeights c)).contains i

end Sys2Proof.Machine
end

