-- ==== Sys2Proof/Machine/Group.lean ====
section
/-!
DEFINITION. The address book as a Sorter reads it (R384, R386), the tree of a group (R387), the fields of a docket (R391), and
the plan of the transfers that a collective makes between its members (R395 to R403).
-/
namespace Sys2Proof.Machine

/-! ## The address book (R384) -/

def noWord512 (_ : Nat) : BitVec 512 := 0
def grp (d : Dev) (g : Nat) : Nat := (sget noWord512 d.book.liveG g).toNat
def gEnable (e : Nat) : Bool := tbit e 0
def gTree (e : Nat) : Bool := tbit e 1
def gPoly (e : Nat) : Nat := fld e 2 2
def gClass (e : Nat) : Nat := fld e 8 4
def gLanes (e : Nat) : Nat := fld e 12 4
def gBase (e : Nat) : Nat := fld e 16 16
def gCount (e : Nat) : Nat := fld e 32 16
def gChunk (e : Nat) : Nat := fld e 48 16
def gRing (e : Nat) : Nat := fld e 64 8
def gRadix (e i : Nat) : Nat := fld e (80 + 8 * i) 8
def gRadices (e : Nat) : List Nat := ([0, 1, 2, 3].map (gRadix e)).filter (· ≠ 0)
/-- A member slot: package ID and site. -/
def slotWord (d : Dev) (i : Nat) : Nat := fld (sget zero32 d.book.liveM i).toNat 0 13
def gMember (d : Dev) (e j : Nat) : Nat := slotWord d (gBase e + j)
def gMembers (d : Dev) (e : Nat) : List Nat := (List.range (gCount e)).map (gMember d e)
/-- A Sorter's own member word (R386). -/
def selfWord (d : Dev) (s : Nat) : Nat := selfId d s + 2048 * s
/-- A Sorter's member index in a group, when the group is enabled and holds it. (DEDUCED, log entry 50) -/
def memberIndex (d : Dev) (s g : Nat) : Option Nat :=
  let e := grp d g
  if !gEnable e then none
  else
    let i := (gMembers d e).idxOf (selfWord d s)
    if i < gCount e then some i else none
/-- The lanes set in LANES, lowest first. -/
def gLaneList (e : Nat) : List Nat := [0, 1, 2, 3].filter (tbit (gLanes e))
/-- The lane of chunk c of a pair (R406). -/
def laneOfChunk (e c : Nat) : Nat :=
  let l := gLaneList e
  l.getD (c % l.length) 0

/-! ## The tree (R387) -/

/-- How many members a node of level L covers. -/
def spanAt (radices : List Nat) (l : Nat) : Nat := (radices.take l).foldl (· * ·) 1

/-- The edges of the tree at a member: level, child's leader, parent's leader. -/
def treeEdges (radices : List Nat) (n me : Nat) : List (Nat × Nat × Nat) :=
  (List.range radices.length).flatMap (fun l =>
    let sp := spanAt radices l
    let up := spanAt radices (l + 1)
    if me % sp ≠ 0 then []
    else if me % up ≠ 0 then [(l, me, me - me % up)]
    else ((List.range (radices.getD l 1)).filter (fun j => decide (0 < j ∧ me + j * sp < n))).map (fun j => (l, me + j * sp, me)))

/-- The members below a child's leader at level L: first, and one past the last. -/
def subtree (radices : List Nat) (n l ch : Nat) : Nat × Nat := (ch, min n (ch + spanAt radices l))

/-! ## Dockets (R391) -/

def dkF (w : DocketWord) (lo n : Nat) : Nat := fld w.toNat lo n
def dkOp (w : DocketWord) : Nat := dkF w 0 6
def dkGroup (w : DocketWord) : Nat := dkF w 8 8
def dkItype (w : DocketWord) : Nat := dkF w 16 4
def dkOtype (w : DocketWord) : Nat := dkF w 20 4
def dkOvf (w : DocketWord) : Nat := dkF w 24 2
def dkAcc (w : DocketWord) : Bool := dkF w 26 1 == 1
def dkNormAcc (w : DocketWord) : Bool := dkF w 27 1 == 1
def dkNormSrc (w : DocketWord) : Bool := dkF w 28 1 == 1
def dkNoise (w : DocketWord) : Bool := dkF w 29 1 == 1
def dkCount (w : DocketWord) : Nat := dkF w 32 32
def dkSrc (w : DocketWord) : Nat := dkF w 64 40
def dkDst (w : DocketWord) : Nat := dkF w 128 40
def dkAux (w : DocketWord) : Nat := dkF w 192 40
def dkStat (w : DocketWord) : Nat := dkF w 256 40
def dkPeer (w : DocketWord) : Nat := dkF w 320 16
def dkRegion (w : DocketWord) : Nat := dkF w 336 6
def dkUses (w : DocketWord) : Nat := dkF w 344 16
/-- The reserved fields: first bit and width. -/
def dkReservedAt : List (Nat × Nat) := [(6, 2), (30, 2), (104, 24), (168, 24), (232, 24), (296, 24), (342, 2), (360, 152)]

/-- The operation codes of R392. -/
def opAllreduce : Nat := 1
def opReduceScatter : Nat := 2
def opAllgather : Nat := 3
def opBroadcast : Nat := 4
def opReduce : Nat := 5
def opAlltoall : Nat := 6
def opAlltoallv : Nat := 7
def opBarrier : Nat := 8
def opSend : Nat := 9
def opRecv : Nat := 10
def opNorm : Nat := 11
def opGather : Nat := 12
def opOptstep : Nat := 13
/-- ALLREDUCE, REDUCE_SCATTER and REDUCE. -/
def isRed (op : Nat) : Bool := op == opAllreduce || op == opReduceScatter || op == opReduce

/-- The bytes of `c` elements of a datatype. (DEDUCED, log entry 52) -/
def elemBytes (code c : Nat) : Nat := ceilDiv (c * Fp.width code) 8
/-- The bytes of a result element: FP32 with ACC, else OTYPE (R397). -/
def outBytes (w : DocketWord) : Nat := if dkAcc w then 4 else Fp.width (dkOtype w) / 8
/-- The type a result is written in. -/
def outType (w : DocketWord) : Nat := if dkAcc w then 0x2 else dkOtype w
/-- The type that sums are held in: FP64 for NORM, INT32, else FP32. -/
def sumType (w : DocketWord) : Nat :=
  if dkOp w = opNorm then 0x1 else if dkItype w = 0x9 then 0x9 else 0x2

/-! ## The plan of transfers -/

/-- What a transfer carries: a shard's partial sum or result, the sum of a subtree, sums or results of an element range on their
way down, blocks of bytes, one member's data, or no payload (an exchange step, SEND's answer, the closing exchange). -/
inductive Item where
  | part (s : Nat)
  | y (s : Nat)
  | node
  | sum (lo hi : Nat)
  | yd (lo hi : Nat)
  | ya (lo hi : Nat)
  | raw (lo hi : Nat)
  | direct
  | p2p
  | hdr
  | ack
  | nan
  deriving DecidableEq, Repr

/-- A transfer of a phase from one member to another. -/
structure Xfer where
  ph : Nat
  snd : Nat
  rcv : Nat
  item : Item
  deriving DecidableEq, Repr

/-- What the plan of a docket depends on: operation, members, self, root, COUNT, the byte size of a block, ACC, ORDER, radices. -/
structure PlanIn where
  op : Nat
  n : Nat
  me : Nat
  root : Nat
  count : Nat
  blk : Nat
  acc : Bool
  tree : Bool
  radices : List Nat
  deriving DecidableEq, Repr

/-- The elements of shard s: first, and one past the last (R395). -/
def shardOf (op n c s : Nat) : Nat × Nat :=
  if op = opAllreduce then let k := ceilDiv c n; (min (s * k) c, min ((s + 1) * k) c)
  else if op = opReduceScatter then (s * c, (s + 1) * c)
  else (0, c)

def hasPhase (l : List Xfer) : Nat := l.foldl (fun m x => max m (x.ph + 1)) 0

/-- The number of phases of one trip up and down the tree. -/
def treePhases (p : PlanIn) : Nat := 2 * p.radices.length

/-- A trip up the tree and down the same edges from phase `base` on: `up` and `dn` say what an edge carries, if anything. -/
def treeTrip (p : PlanIn) (base : Nat) (up dn : Nat → Nat → Option Item) : List Xfer :=
  (treeEdges p.radices p.n p.me).flatMap (fun e =>
    let (l, ch, pa) := e
    (match up l ch with | some i => [⟨base + l, ch, pa, i⟩] | none => [])
    ++ (match dn l ch with | some i => [⟨base + treePhases p - 1 - l, pa, ch, i⟩] | none => []))

/-- Every step of a ring at a member: for each phase, what the member sends to the next one and what it gets from the one before. -/
def ringTrip (p : PlanIn) (base steps : Nat) (what : Nat → Nat → Option Item) : List Xfer :=
  (List.range steps).flatMap (fun q =>
    let nx := (p.me + 1) % p.n
    let pv := (p.me + p.n - 1) % p.n
    (match what q p.me with | some i => [⟨base + q, p.me, nx, i⟩] | none => [])
    ++ (match what q pv with | some i => [⟨base + q, pv, p.me, i⟩] | none => []))

/-- The closing exchange of REDUCE_SCATTER and REDUCE (R403). -/
def closing (p : PlanIn) (base : Nat) : List Xfer :=
  treeTrip p base (fun _ _ => some .nan) (fun _ _ => some .nan)

/-- Reductions around the ring (R395, R397). -/
def ringReduce (p : PlanIn) : List Xfer :=
  let n := p.n
  if p.op = opReduce then
    -- REDUCE: from the member after the root around to the root
    let red := ringTrip p 0 (n - 1) (fun q i => if i = (p.root + 1 + q) % n then some (.part 0) else none)
    red ++ closing p (n - 1)
  else
    let red := ringTrip p 0 (n - 1) (fun q i => some (.part ((i + n - 1 - q % n) % n)))
    if p.op = opAllreduce then red ++ ringTrip p (n - 1) (n - 1) (fun q i => some (.y ((i + n - q % n) % n)))
    else red ++ closing p (n - 1)

/-- The elements of the shards below an edge (R397). -/
def shardsBelow (p : PlanIn) (l ch : Nat) : Nat × Nat :=
  let s := subtree p.radices p.n l ch
  ((shardOf p.op p.n p.count s.1).1, (shardOf p.op p.n p.count (s.2 - 1)).2)
def rootBelow (p : PlanIn) (l ch : Nat) : Bool :=
  let s := subtree p.radices p.n l ch
  decide (s.1 ≤ p.root ∧ p.root < s.2)

/-- Reductions up the tree and their results down it (R396 to R398). -/
def treeReduce (p : PlanIn) : List Xfer :=
  let e := if p.op = opNorm then 1 else if p.op = opReduceScatter then p.n * p.count else p.count
  let dn (l ch : Nat) : Option Item :=
    let b := shardsBelow p l ch
    if p.op = opNorm then some (.sum 0 1)
    else if p.op = opReduce then (if rootBelow p l ch then some (.yd 0 e) else none)
    else if p.op = opReduceScatter then some (if p.acc then .sum b.1 b.2 else .yd b.1 b.2)
    else some (if p.acc then .sum b.1 b.2 else .yd 0 e)
  let red := treeTrip p 0 (fun _ _ => some .node) dn
  if p.op = opAllreduce ∧ p.acc then
    red ++ treeTrip p (treePhases p)
      (fun l ch => let b := shardsBelow p l ch; some (.ya b.1 b.2)) (fun _ _ => some (.ya 0 e))
  else if p.op = opReduceScatter ∨ p.op = opReduce then red ++ closing p (treePhases p)
  else red

/-- BROADCAST and ALLGATHER (R401). -/
def copyPlan (p : PlanIn) : List Xfer :=
  let n := p.n
  let b := p.blk
  if p.tree then
    if p.op = opBroadcast then
      treeTrip p 0 (fun l ch => if rootBelow p l ch then some (.raw 0 b) else none) (fun _ _ => some (.raw 0 b))
    else
      treeTrip p 0 (fun l ch => let s := subtree p.radices n l ch; some (.raw (s.1 * b) (s.2 * b)))
        (fun _ _ => some (.raw 0 (n * b)))
  else if p.op = opBroadcast then
    ringTrip p 0 (n - 1) (fun q i => if i = (p.root + q) % n then some (.raw 0 b) else none)
  else
    ringTrip p 0 (n - 1) (fun q i => let j := (i + n - q % n) % n; some (.raw (j * b) ((j + 1) * b)))

/-- The transfers of a docket in which the member takes part, in the order of the phases. -/
def planOf (p : PlanIn) : List Xfer :=
  let n := p.n
  let hdrs := treeTrip p 0 (fun _ _ => some .hdr) (fun _ _ => some .hdr)
  if p.op = opBarrier then hdrs
  else if p.op = opAlltoall ∨ p.op = opAlltoallv ∨ p.op = opGather then
    ((List.range n).filter (· ≠ p.me)).flatMap (fun j => [⟨0, p.me, j, .direct⟩, ⟨0, j, p.me, .direct⟩])
  else if p.op = opSend then [⟨0, p.me, p.root, .p2p⟩, ⟨1, p.root, p.me, .ack⟩]
  else if p.op = opRecv then [⟨0, p.root, p.me, .p2p⟩, ⟨1, p.me, p.root, .ack⟩]
  else if p.op = opNorm then treeReduce p
  else if p.count = 0 then hdrs
  else if isRed p.op then (if p.tree then treeReduce p else ringReduce p)
  else copyPlan p

def sendsAt (p : PlanIn) (ph : Nat) : List Xfer := (planOf p).filter (fun x => x.ph == ph && x.snd == p.me)
def expects (p : PlanIn) : List Xfer := (planOf p).filter (fun x => x.rcv == p.me)
/-- The members a docket exchanges chunks with. -/
def exchanged (p : PlanIn) : List Nat :=
  ((planOf p).map (fun x => if x.snd = p.me then x.rcv else x.snd)).eraseDups

end Sys2Proof.Machine
end

