-- ==== Sys2Proof/Machine/CoreOps.lean ====
section
/-!
DEFINITION. What happens to contexts and streams of a wide core outside a single slot: faults (R187, R188), abandoned
uses (R176, R305), starting and stopping (R152, R192), the checks that start a stream use (R175, R305, R432) and barriers (R291).
-/
namespace Sys2Proof.Machine

/-! ## Core-wide facts -/

def mxOwner (d : Dev) (s k : Nat) : Nat := rfld d (pgCore s k + 0x804) 0 4
def mxEnabled (d : Dev) (s k : Nat) : Bool := rfld d (pgCore s k + 0x804) 4 1 == 1
def jobSeed (d : Dev) (s k : Nat) : Nat := reg64 d (pgCore s k + 0x810)

/-! ## Post box configuration (R432, R440) -/

def boxReg (d : Dev) (site b off : Nat) : Nat := regN d (pgSorter site + off + 0x10 * b)
def boxEnabled (d : Dev) (site b : Nat) : Bool := tbit (boxReg d site b 0xD40) 31
def boxOwner (d : Dev) (site b : Nat) : Nat × Nat := (fld (boxReg d site b 0xD44) 0 7, fld (boxReg d site b 0xD44) 7 4)
def boxReceives (d : Dev) (site b : Nat) : Bool := tbit (boxReg d site b 0xD44) 16
def boxBase (d : Dev) (site b : Nat) : Nat := fld (boxReg d site b 0xD48) 0 24 * 65536
def boxSlots (d : Dev) (site b : Nat) : Nat := fld (boxReg d site b 0xD4C) 0 7
def boxSize (d : Dev) (site b : Nat) : Nat := fld (boxReg d site b 0xD4C) 16 12 * 65536
def boxDefault (_ : Nat) : Box := ⟨0, 0, 0, 0, []⟩
def getBox (d : Dev) (site b : Nat) : Box := sget boxDefault (getSorter d site).boxes b
def putBox (d : Dev) (site b : Nat) (x : Box) : Dev :=
  let s := getSorter d site
  putSorter d site { s with boxes := sput boxDefault s.boxes b x }

/-! ## Faults and abandoned uses -/

/-- Abandon the uses that some registers of a context hold: they do not complete, and a KIND 3 one counts toward USES (R176,
R305). -/
def abandonRegs (d : Dev) (site key : Nat) (regs : List Nat) : Dev :=
  regs.foldl (fun d r =>
    let c := getCtx d key
    let s := dReg c r
    let d := putCtx d key (setD c r { s with active := false })
    if dscKind s.desc = 3 then slotUseDone d site (dscBox s.desc) else d) d

/-- The registers of a context that hold a use, those apart that an array operation has yet to read or write (R305). -/
def activeRegs (d : Dev) (site k n : Nat) (all : Bool) : List Nat :=
  ((getCtx d (ctxKey site k n)).d.filter (fun e =>
    e.2.active && (all || !(mxOwner d site k == n && mxUses (getCore d (coreKey site k)) e.1)))).map (·.1)
def abandonUses (d : Dev) (site k n : Nat) (all : Bool) : Dev :=
  abandonRegs d site (ctxKey site k n) (activeRegs d site k n all)

/-- A context becomes FAULTED with a class D error on its CORE page; `pc` is the bundle that held the operation (R187, R188). -/
def faultCtx (d : Dev) (site k n : Nat) (pc : W64) (f : CoreFault) : Dev :=
  let key := ctxKey site k n
  let d := raiseErr d (pgCore site k) 2 f.1 (coreInfo0 n f.2.1 pc) (f.2.2 % 2 ^ 32)
  let d := putCtx d key { getCtx d key with cstate := .faulted, wait := .none, stopping := false }
  abandonUses d site k n false

/-- A context becomes HALTED (R150, R162, R192). -/
def haltCtx (d : Dev) (site k n : Nat) : Dev :=
  let key := ctxKey site k n
  abandonUses (putCtx d key { getCtx d key with cstate := .halted, wait := .none, stopping := false }) site k n false

/-- The uses of an owner context that ended while array operations still used their registers (R305). -/
def abandonLate (d : Dev) (site k : Nat) : Dev :=
  let n := mxOwner d site k
  let st := (getCtx d (ctxKey site k n)).cstate
  if st = .halted ∨ st = .faulted then abandonUses d site k n false else d

/-- Start a context at its entry bundle with everything of it at zero (R152). Uses that its registers held are abandoned
first; operations it had issued run on (R187), so the numbers of uses go on. -/
def startCtx (d : Dev) (site k n : Nat) : Dev :=
  let key := ctxKey site k n
  let d := abandonUses d site k n true
  let entry := rfld d (pgCore site k + 0x840 + 4 * n) 0 15
  let old := getCtx d key
  putCtx d key { ctxDefault 0 with cstate := .running, pc := BitVec.ofNat 64 entry, packs := old.packs, uses := old.uses }

/-- CTX_GO for one context: it starts when it is IDLE, HALTED or FAULTED and the core is RUNNING (R192). -/
def ctxGo (d : Dev) (site k n : Nat) : Dev :=
  let st := (getCtx d (ctxKey site k n)).cstate
  if (st = .idle ∨ st = .halted ∨ st = .faulted) ∧ running d (pgCore site k) then startCtx d site k n else d

/-! ## Starting a stream use (R175, R305, R432) -/

/-- The lowest and the highest offset, the latter one past the end, that a stream names. -/
def dscSpan (x : BitVec 512) : Int × Int :=
  let a := (dscCnt1 x - 1 : Nat) * dscStride1 x
  let b := (dscCnt2 x - 1 : Nat) * dscStride2 x
  (min 0 a + min 0 b, max 0 a + max 0 b + dscLen0 x)

/-- What is wrong with a descriptor at the DLD, FETCH or PUT that starts a use of it. -/
def useBad (d : Dev) (site k n : Nat) (x : BitVec 512) : Bool :=
  let b := dscBox x
  dscBad x || (dscRemote x && dscKind x != 0) ||
  match dscKind x with
  | 1 => decide (15 < b) || !boxEnabled d site b || boxOwner d site b != (k, n) || boxReceives d site b
  | 2 => decide (15 < b) || !boxEnabled d site b || boxOwner d site b != (k, n) || !boxReceives d site b
  | 3 => decide (63 < b) || slotState d site b == slFree ||
         (dscSize x != 0 && (decide ((dscPpa x : Int) + (dscSpan x).1 < 0) ||
           decide ((slotSize d site b : Int) < dscPpa x + (dscSpan x).2)))
  | _ => false

/-- The address that stream offsets count from. A post box message lies whole at `base` (R435). -/
def useBase (d : Dev) (site : Nat) (x : BitVec 512) (base : Nat) : Nat :=
  match dscKind x with
  | 3 => slotBase d site (dscBox x) + dscPpa x
  | 2 => base
  | _ => dscPpa x
/-- Whether runs from a base address touch the HBM of a die that awaits or runs a poison fill (R303). -/
def runsBlocked (d : Dev) (base : Nat) (runs : List (Int × Nat)) : Bool :=
  runs.any (fun r => fillBlocked d ((base : Int) + r.1).toNat r.2)
/-- The runs of a use: a post box message is one run. -/
def useRuns (x : BitVec 512) (pos n : Nat) : List (Int × Nat) :=
  if dscKind x = 1 ∨ dscKind x = 2 then (if n = 0 then [] else [((pos : Int), n)]) else dscRuns x pos n

/-- A stream of KIND 0 lies wholly in the core's own memory. -/
def inOwnMemory (site k : Nat) (x : BitVec 512) : Bool :=
  let b : Int := dscPpa x
  let lo : Int := coreMemBase site k
  decide (dscKind x = 0 ∧ lo ≤ b + (dscSpan x).1 ∧ b + (dscSpan x).2 ≤ lo + coreMemSize) && !dscRemote x
/-- The bytes of a stream that lies wholly in the core's own memory are present at once; others arrive (R176, R208). -/
def arrivedAtStart (site k : Nat) (x : BitVec 512) : Nat := if inOwnMemory site k x then dscSize x else 0
/-- The transfers of a core that the cluster controller serves: the copies whose bytes lie outside its own memory (R289, R292). -/
def coreTransfers (d : Dev) (site k : Nat) : Nat :=
  ((getCore d (coreKey site k)).copies.filter (fun e => match e.2 with
    | some o => !inOwnMemory site k o.desc | none => false)).length

/-- A use of zero size completes when it starts, post box uses apart: those wait for their credit or message (R176, R434,
R435). -/
def doneAtStart (x : BitVec 512) : Bool := dscSize x == 0 && dscKind x != 1 && dscKind x != 2

/-- The completion of one use: the counter, and for KIND 3 the slot (R176, R305). -/
def useDone (d : Dev) (site key : Nat) (x : BitVec 512) : Dev :=
  let d := if dscCtrEn x then ctrInc d key (dscCtr x) else d
  if dscKind x = 3 then slotUseDone d site (dscBox x) else d

/-- DLD: the register holds the descriptor with position 0 and starts a use; a use it held is abandoned (R162, R176). -/
def startUse (d : Dev) (site k n r : Nat) (pc : W64) (x : BitVec 512) : Dev :=
  let key := ctxKey site k n
  let old := dReg (getCtx d key) r
  let d := if old.active ∧ dscKind old.desc = 3 then slotUseDone d site (dscBox old.desc) else d
  let c := getCtx d key
  let st : Stream := ⟨x, 0, !doneAtStart x, arrivedAtStart site k x, false, 0, [], c.uses, pc⟩
  let d := putCtx d key { setD c r st with uses := c.uses + 1 }
  if doneAtStart x then useDone d site key x else d

/-! ## Post box uses of a context: order and credit (R432, R434) -/

/-- The post box uses of a context on box b that have not begun, by issue number: register streams and copies. -/
def boxWaiting (d : Dev) (site k n b : Nat) : List Nat :=
  let c := getCtx d (ctxKey site k n)
  let isBox (x : BitVec 512) : Bool := (dscKind x == 1 || dscKind x == 2) && dscBox x == b
  (c.d.filter (fun e => e.2.active && !e.2.begun && isBox e.2.desc)).map (fun e => e.2.useNo)
  ++ (getCore d (coreKey site k)).copies.filterMap (fun e => match e.2 with
      | some o => if o.ctx.val = n ∧ !o.begun ∧ isBox o.desc then some o.useNo else none
      | none => none)
/-- Whether a use is the oldest of its box that has not begun. -/
def boxTurn (d : Dev) (site k n b useNo : Nat) : Bool := (boxWaiting d site k n b).all (fun u => decide (useNo ≤ u))

/-! ## Barriers (R291) -/

def barCount (d : Dev) (site c b : Nat) : Nat := rfld d (pgCluster site c + 0x800 + 4 * b) 0 8
def barStat (site c b : Nat) : Nat := pgCluster site c + 0x820 + 4 * b

/-- Release every context of the cluster that waits on barrier b: each is RUNNING in the next array cycle. -/
def barRelease (d : Dev) (site c b : Nat) : Dev :=
  let lo := ctxKey site (8 * c) 0
  let keys := (d.ctxs.filter (fun e => decide (lo ≤ e.1 ∧ e.1 < lo + 128) && e.2.cstate == .waiting && e.2.wait == .barrier b)).map (·.1)
  keys.foldl (fun d k => putCtx d k { getCtx d k with cstate := .running, wait := .none }) d

/-- One arrival at barrier b of a cluster: the answer says whether the arriving context must wait. -/
def barArrive (d : Dev) (site c b : Nat) : Bool × Dev :=
  let cnt := barCount d site c b
  if cnt = 0 then (false, d)
  else
    let a := barStat site c b
    let n := rfld d a 0 8 + 1
    if n = cnt then
      let d := setRegN d a ((rfld d a 16 16 + 1) % 65536 * 65536)
      (false, countEvt (barRelease d site c b) (pgCluster site c) 0x1001 b 1)
    else (true, setRfld d a 0 8 n)

end Sys2Proof.Machine
end

