-- ==== Sys2Proof/Machine/Bundle.lean ====
section
/-!
DEFINITION. The bundle of a wide core: its slots and their opcodes (R156, R162, R165, R166, R169), the decoder of the
64 bytes, what makes a bundle bad (R160, R163, R166, R168 to R170, R181, R184, R185), and the registers a slot reads and
writes with their latencies (R172).
-/
namespace Sys2Proof.Machine

/-! ## Opcodes -/

/-- The operations of the CTRL slot (R162). -/
inductive CtrlOp where
  | add | sub | mul | mulhu | and | or | xor | shl | shr | sra | min | max | minu | maxu | cmp | lui
  | br | jal | jr | halt | sld | slw | sst | ssw | s2v | v2s | cset | cadd | crd | flgrd | flgclr | rseed
  | waitc | waitd | barc | dbrd | note | dld | fetch | put | dpos | dskip | post | pack
  deriving DecidableEq, Repr

/-- The operations of the LD slot (R165). -/
inductive LdOp where
  | ldv | ldm | ldp | ldps
  deriving DecidableEq, Repr

/-- The operations of the ST slot (R165). -/
inductive StOp where
  | stv | stm | stp
  deriving DecidableEq, Repr

/-- The operations of the VEC slot (R166). -/
inductive VecOp where
  | vadd | vsub | vmul | vfma | vmax | vmin | vand | vor | vxor | vshl | vshr | vsra | vcmp | vsel | vbcast
  | pand | por | pxor | pnot | vcvt | vexp2 | vrcp | vrsqrt | vlog2 | vrsum | vrmax | vperm | route | routeM
  deriving DecidableEq, Repr

/-- The operations of the MX slot with their fields (R169). -/
inductive MxSlot where
  | mode (f : MxModeF)
  | wload (f : MxWloadF)
  | run (f : MxRunF)
  | drain (f : MxDrainF)
  deriving DecidableEq, Repr

/-- A bundle: its header and the operations of its enabled slots; `junk` is the slot of a reserved bit or opcode. -/
structure Bundle where
  h    : Hdr
  ctrl : Option (CtrlOp × CtrlF)
  ld   : Option (LdOp × MemF)
  st   : Option (StOp × MemF)
  vec  : Option (VecOp × VecF)
  mx   : Option MxSlot
  junk : Option Nat
  deriving DecidableEq, Repr

/-- The code of each CTRL operation (R162). -/
def ctrlOfCode (x : Nat) : Option CtrlOp :=
  match x with
  | 0x01 => some .add | 0x02 => some .sub | 0x03 => some .mul | 0x04 => some .mulhu
  | 0x05 => some .and | 0x06 => some .or | 0x07 => some .xor | 0x08 => some .shl
  | 0x09 => some .shr | 0x0A => some .sra | 0x0B => some .min | 0x0C => some .max
  | 0x0D => some .minu | 0x0E => some .maxu | 0x0F => some .cmp | 0x10 => some .lui
  | 0x20 => some .br | 0x21 => some .jal | 0x22 => some .jr | 0x23 => some .halt
  | 0x28 => some .sld | 0x29 => some .slw | 0x2A => some .sst | 0x2B => some .ssw
  | 0x2C => some .s2v | 0x2D => some .v2s | 0x30 => some .cset | 0x31 => some .cadd | 0x32 => some .crd
  | 0x34 => some .flgrd | 0x35 => some .flgclr | 0x36 => some .rseed | 0x38 => some .waitc | 0x39 => some .waitd
  | 0x3A => some .barc | 0x3B => some .dbrd | 0x3C => some .note | 0x40 => some .dld | 0x41 => some .fetch
  | 0x42 => some .put | 0x43 => some .dpos | 0x44 => some .dskip | 0x48 => some .post | 0x4C => some .pack
  | _ => none
/-- The code of each LD operation (R165). -/
def ldOfCode (x : Nat) : Option LdOp :=
  match x with
  | 1 => some .ldv | 2 => some .ldm | 3 => some .ldp | 4 => some .ldps | _ => none
/-- The code of each ST operation (R165). -/
def stOfCode (x : Nat) : Option StOp :=
  match x with
  | 1 => some .stv | 2 => some .stm | 3 => some .stp | _ => none
/-- The code of each VEC operation (R166). -/
def vecOfCode (x : Nat) : Option VecOp :=
  match x with
  | 0x01 => some .vadd | 0x02 => some .vsub | 0x03 => some .vmul | 0x04 => some .vfma
  | 0x05 => some .vmax | 0x06 => some .vmin | 0x08 => some .vand | 0x09 => some .vor | 0x0A => some .vxor
  | 0x0B => some .vshl | 0x0C => some .vshr | 0x0D => some .vsra | 0x10 => some .vcmp | 0x11 => some .vsel
  | 0x12 => some .vbcast | 0x14 => some .pand | 0x15 => some .por | 0x16 => some .pxor | 0x17 => some .pnot
  | 0x18 => some .vcvt | 0x20 => some .vexp2 | 0x21 => some .vrcp | 0x22 => some .vrsqrt | 0x23 => some .vlog2
  | 0x28 => some .vrsum | 0x29 => some .vrmax | 0x2A => some .vperm | 0x30 => some .route | 0x31 => some .routeM
  | _ => none

/-! ## The decoder of a bundle word -/

/-- The fields of a CTRL slot (R162). -/
def ctrlFields (w : Nat) : CtrlF :=
  ⟨BitVec.ofNat 6 (fld w 8 6), BitVec.ofNat 6 (fld w 14 6), BitVec.ofNat 6 (fld w 20 6), BitVec.ofNat 6 (fld w 26 6),
   BitVec.ofNat 32 (fld w 32 32)⟩
/-- The fields of an LD or ST slot (R165). -/
def memFields (w : Nat) : MemF :=
  ⟨BitVec.ofNat 5 (fld w 8 5), BitVec.ofNat 4 (fld w 13 4), BitVec.ofNat 6 (fld w 17 6), BitVec.ofNat 3 (fld w 23 3),
   BitVec.ofNat 32 (fld w 32 32)⟩
/-- The fields of a VEC slot (R166). -/
def vecFields (w : Nat) : VecF :=
  ⟨BitVec.ofNat 5 (fld w 8 5), BitVec.ofNat 5 (fld w 13 5), BitVec.ofNat 5 (fld w 18 5), BitVec.ofNat 5 (fld w 23 5),
   BitVec.ofNat 3 (fld w 28 3), BitVec.ofNat 4 (fld w 32 4), BitVec.ofNat 32 (fld w 64 32)⟩
/-- The operation of an MX slot (R169), or none where a bit not named is set or the opcode is reserved. -/
def mxFields (w : Nat) : Option MxSlot :=
  let b (n lo : Nat) : BitVec n := BitVec.ofNat n (fld w lo n)
  match fld w 0 8 with
  | 1 => if w / 2 ^ 22 = 0 then some (.mode ⟨b 2 8, b 4 10, b 4 14, b 4 18⟩) else none
  | 2 => if w / 2 ^ 16 = 0 then some (.wload ⟨b 4 8, b 4 12⟩) else none
  | 3 => if w / 2 ^ 47 = 0 then
      some (.run ⟨b 4 8, b 4 12, b 6 16, b 8 22, b 6 30, b 6 36, b 3 42, tbit w 45, tbit w 46⟩) else none
  | 4 => if w / 2 ^ 30 = 0 then some (.drain ⟨b 4 8, b 4 12, tbit w 16, b 4 17, b 2 21, tbit w 23, b 6 24⟩) else none
  | _ => none
/-- The header fields (R156), the slot enables apart. -/
def hdrFields (w : Nat) : Hdr :=
  ⟨BitVec.ofNat 3 (fld w 0 3), tbit w 3, tbit w 4, tbit w 5, BitVec.ofNat 2 (fld w 11 2), tbit w 13, tbit w 14⟩

/-- A bundle from its 512 bits (R156, R157, R161). (DEDUCED, log entry 33) -/
def decodeBundle (w : Nat) : Bundle :=
  let hw := fld w 480 32
  let slot (en lo n : Nat) : Nat := if tbit hw en then fld w lo n else 0
  let c := slot 6 416 64
  let l := slot 7 320 96
  let s := slot 8 224 96
  let v := slot 9 128 96
  let m := slot 10 0 128
  let co := ctrlOfCode (fld c 0 8)
  let lo := ldOfCode (fld l 0 8)
  let so := stOfCode (fld s 0 8)
  let vo := vecOfCode (fld v 0 8)
  let mo := mxFields m
  let memBad (x : Nat) : Bool := fld x 26 6 != 0 || fld x 64 32 != 0
  let junk : Option Nat :=
    if fld hw 15 17 ≠ 0 then some 0
    else if fld c 0 8 ≠ 0 ∧ co.isNone then some 1
    else if l ≠ 0 ∧ (lo.isNone ∨ memBad l) then some 2
    else if s ≠ 0 ∧ (so.isNone ∨ memBad s) then some 3
    else if v ≠ 0 ∧ (vo.isNone ∨ tbit v 31 ∨ fld v 36 28 ≠ 0) then some 4
    else if m ≠ 0 ∧ mo.isNone then some 5
    else none
  { h := hdrFields hw
    ctrl := co.map (fun o => (o, ctrlFields c))
    ld := lo.map (fun o => (o, memFields l))
    st := so.map (fun o => (o, memFields s))
    vec := vo.map (fun o => (o, vecFields v))
    mx := mo
    junk := junk }

/-- A bundle of one slot. (DEDUCED, log entry 33) -/
def oneSlot (h : Hdr) : Bundle := ⟨h, none, none, none, none, none, none⟩

/-! ## Registers and latencies (R172) -/

/-- Keys of descriptor registers, for the check of R160 on destinations. -/
def kD (i : Nat) : Nat := 120 + i

/-- Registers that a CTRL operation reads; d registers carry no pending result. -/
def ctrlReads (o : CtrlOp) (f : CtrlF) : List Nat :=
  let a := kS f.sa.toNat
  let b := kS f.sb.toNat
  match o with
  | .lui | .jr | .sld | .slw | .s2v | .dld | .post | .pack => [a]
  | .jal | .halt | .flgrd | .barc | .dbrd | .dpos => []
  | .v2s => [kV f.sa.toNat]
  | .cset | .flgclr | .waitd | .note | .fetch | .put | .dskip => [b]
  | .cadd => [b, kC f.sd.toNat]
  | .crd => [kC f.sa.toNat]
  | .waitc => [b, kC f.sa.toNat]
  | _ => [a, b]

/-- The register a CTRL operation writes and its latency; 0 leaves no pending result. -/
def ctrlWrites (o : CtrlOp) (f : CtrlF) : List (Nat × Nat) :=
  let s := kS f.sd.toNat
  match o with
  | .mul | .mulhu | .crd | .dbrd | .dpos | .flgrd | .v2s => [(s, 4)]
  | .sld | .slw => [(s, 6)]
  | .s2v => [(kV f.sd.toNat, 4)]
  | .cset | .cadd => [(kC f.sd.toNat, 2)]
  | .br | .jr | .halt | .sst | .ssw | .flgclr | .rseed | .waitc | .waitd | .barc | .note | .fetch | .put | .post
  | .pack => []
  | .dld => [(kD f.sd.toNat, 0)]
  | .dskip => [(kD f.sa.toNat, 0)]
  | _ => [(s, 2)]

def ldReads (o : LdOp) (f : MemF) : List Nat :=
  match o with
  | .ldm | .ldp => [kS f.sa.toNat]
  | .ldv | .ldps => []
def ldWrites (o : LdOp) (f : MemF) : List (Nat × Nat) :=
  match o with
  | .ldv | .ldm => [(kV f.vr.toNat, 6)]
  | .ldp | .ldps => [(kP f.pd.toNat, 6)]
def stReads (o : StOp) (f : MemF) : List Nat :=
  match o with
  | .stv => [kV f.vr.toNat]
  | .stm => [kV f.vr.toNat, kS f.sa.toNat]
  | .stp => [kP f.pd.toNat, kS f.sa.toNat]

def cvtSrc (imm : W32) : Nat := fld imm.toNat 0 4
def cvtDst (imm : W32) : Nat := fld imm.toNat 4 4
def cvtOvf (imm : W32) : Nat := fld imm.toNat 8 2
def cvtRnd (imm : W32) : Bool := tbit imm.toNat 10
def cvtPart (imm : W32) : Nat := fld imm.toNat 11 3
/-- A VCVT with a scale in v[VC] (R168). -/
def cvtScaled (imm : W32) : Bool :=
  let sc (t : Nat) : Bool := Fp.isMx t || t == 5 || t == 6
  sc (cvtSrc imm) || sc (cvtDst imm)

def vecReads (o : VecOp) (f : VecF) : List Nat :=
  let a := kV f.va.toNat
  let b := kV f.vb.toNat
  let c := kV f.vc.toNat
  match o with
  | .vfma => [a, b, c]
  | .vsel => [a, b, kP f.pd.toNat]
  | .vbcast => []
  | .pand | .por | .pxor => [kP f.va.toNat, kP f.vb.toNat]
  | .pnot => [kP f.va.toNat]
  | .vcvt => if cvtScaled f.imm then [a, c, kV f.vd.toNat] else [a, kV f.vd.toNat]
  | .vexp2 | .vrcp | .vrsqrt | .vlog2 | .vrsum | .vrmax => [a]
  | .route => [a]
  | .routeM => [a, kV f.vd.toNat, kV (f.vd.toNat + 1)]
  | _ => [a, b]

def vecWrites (o : VecOp) (f : VecF) : List (Nat × Nat) :=
  let v := kV f.vd.toNat
  match o with
  | .vadd | .vsub | .vmul | .vmax | .vmin => [(v, if f.typ = 2 then 6 else 4)]
  | .vfma | .vperm => [(v, 6)]
  | .vcmp => [(kP f.pd.toNat, 6)]
  | .pand | .por | .pxor | .pnot => [(kP f.pd.toNat, 4)]
  | .vcvt => if Fp.isMx (cvtDst f.imm) ∧ f.vc ≠ f.vd then [(v, 6), (kV f.vc.toNat, 6)] else [(v, 6)]
  | .vexp2 | .vrcp | .vrsqrt | .vlog2 => [(v, 12)]
  | .vrsum | .vrmax => [(v, 14)]
  | .route | .routeM => [(v, 16), (kV (f.vd.toNat + 1), 16)]
  | _ => [(v, 4)]

def mxReads (h : Hdr) : MxSlot → List Nat
  | .run f => [kS f.sk.toNat, kS f.stidx.toNat] ++ (if h.tmap then [kP f.tsel.toNat] else [])
  | .drain f => [kS f.stidx.toNat]
  | _ => []

/-- Every register a bundle writes, with its latency. -/
def bundleWrites (b : Bundle) : List (Nat × Nat) :=
  (match b.ctrl with | some (o, f) => ctrlWrites o f | none => [])
  ++ (match b.ld with | some (o, f) => ldWrites o f | none => [])
  ++ (match b.vec with | some (o, f) => vecWrites o f | none => [])
/-- Every register a bundle reads. -/
def bundleReads (b : Bundle) : List Nat :=
  (if b.h.pen then [kP b.h.psel.toNat] else [])
  ++ (match b.ctrl with | some (o, f) => ctrlReads o f | none => [])
  ++ (match b.ld with | some (o, f) => ldReads o f | none => [])
  ++ (match b.st with | some (o, f) => stReads o f | none => [])
  ++ (match b.vec with | some (o, f) => vecReads o f | none => [])
  ++ (match b.mx with | some m => mxReads b.h m | none => [])

/-- The first array cycle in which every register of a bundle is free of pending results and no branch holds it (R151,
R172). -/
def readyAt (c : Ctx) (b : Bundle) : Nat :=
  (bundleReads b ++ (bundleWrites b).map (·.1)).foldl (fun t k => max t (sget zeroNat c.busy k)) c.notBefore

/-! ## Bad bundles -/

/-- The type pairs of R196: 0 where the pair is not listed, else the stack type. -/
def stackType (a b : Nat) : Nat :=
  if a = 1 ∧ b = 1 then 1
  else if (a = 2 ∨ a = 3 ∨ a = 4 ∨ a = 7) ∧ a = b then 2
  else if (a = 5 ∨ a = 6) ∧ (b = 5 ∨ b = 6) then 2
  else if (a = 0xA ∨ a = 0xB) ∧ (b = 0xA ∨ b = 0xB) then 2
  else if a = 8 ∧ b = 8 then 9
  else 0

/-- The conversions VCVT accepts (R244). -/
def cvtPair (s t : Nat) : Bool :=
  if s = 2 then t == 2 || t == 3 || t == 4 || t == 5 || t == 6 || t == 7 || t == 8 || t == 9 || t == 0xA || t == 0xB
  else if s = 9 then t == 2 || t == 8 || t == 9
  else if s = 8 then t == 2 || t == 9
  else (s == 3 || s == 4 || s == 5 || s == 6 || s == 7 || s == 0xA || s == 0xB) && t == 2

/-- A CTRL slot that R160, R162, R163, R179, R181 or R184 forbids. -/
def ctrlBad (routeOk : Bool) (o : CtrlOp) (f : CtrlF) : Bool :=
  let sd := f.sd.toNat
  let sa := f.sa.toNat
  let fn := f.fn.toNat
  match o with
  | .cmp | .br => decide (5 < fn)
  | .s2v => decide (31 < sd)
  | .v2s => decide (31 < sa)
  | .cset | .cadd | .note | .dld => decide (15 < sd)
  | .crd | .waitd | .dbrd | .fetch | .put | .dpos | .dskip => decide (15 < sa)
  | .waitc => decide (15 < sa) || !(fn == 1 || fn == 3 || fn == 4 || fn == 5 || fn == 6 || fn == 7 || fn == 8 || fn == 9)
  | .barc => decide (7 < sa)
  | .post => tbit fn 5
  | .pack => !routeOk
  | _ => false

/-- A VEC slot that R160, R166, R168, R184, R185 or R244 forbids. -/
def vecBad (routeOk : Bool) (o : VecOp) (f : VecF) : Bool :=
  let typ := f.typ.toNat
  match o with
  | .vadd | .vsub | .vmul | .vmax | .vmin | .vrsum | .vrmax => !(typ == 2 || typ == 9)
  | .vcmp => !(typ == 2 || typ == 9) || decide (5 < fld f.imm.toNat 0 3)
  | .vfma | .vexp2 | .vrcp | .vrsqrt | .vlog2 => typ != 2
  | .pand | .por | .pxor => decide (7 < f.va.toNat) || decide (7 < f.vb.toNat)
  | .pnot => decide (7 < f.va.toNat)
  | .vcvt =>
    fld f.imm.toNat 14 18 != 0 || cvtOvf f.imm == 3 || !cvtPair (cvtSrc f.imm) (cvtDst f.imm)
    || decide (32 / min (Fp.width (cvtSrc f.imm)) (Fp.width (cvtDst f.imm)) ≤ cvtPart f.imm)
  | .route | .routeM =>
    !routeOk || decide (8 < fld f.imm.toNat 0 4) || decide (128 < fld f.imm.toNat 8 8) || f.vd.toNat % 2 == 1
  | _ => false

/-- The pair of types in force once every queued MX.MODE has acted (R170, R195). -/
def modePair (c : Core) : Nat × Nat :=
  c.queue.foldl (fun p o => match o with | .mode f _ _ => (f.atype.toNat, f.btype.toNat) | _ => p) (c.atype.toNat, c.btype.toNat)

/-- An MX slot that R169, R170 or R196 forbids; `k` is the value of s[SK]. -/
def mxBad (owner : Bool) (sk : Nat) (pair : Nat × Nat) : MxSlot → Bool
  | .mode f => !owner || f.flow == 3 || stackType f.atype.toNat f.btype.toNat == 0
  | .wload _ => !owner
  | .run f => !owner || decide (32 < f.m.toNat) || decide (128 < f.n.toNat) || decide (2 ^ 32 ≤ sk)
    || stackType pair.1 pair.2 == 0
  | .drain f => !owner || f.ovf == 3

/-- The header rules of R160 and R184, and two slots with one destination. -/
def headerBad (sparseOk tmapOk : Bool) (b : Bundle) : Bool :=
  let h := b.h
  let uses := match b.mx with | some (.wload _) => true | some (.run _) => true | _ => false
  let dst := (bundleWrites b).map (·.1)
  (h.pgate && !h.pen) || h.sparse == 3
  || ((h.sparse != 0 || h.zskip || h.tmap) && !uses)
  || (h.sparse != 0 && !sparseOk) || (h.tmap && !tmapOk)
  || decide (dst.eraseDups.length < dst.length)

/-- The slot on account of which a bundle is bad, in the order of the slots (R160, R188). -/
def bundleBad (d : Dev) (site k n : Nat) (b : Bundle) : Option Nat :=
  let route := hasFeature d site .route
  let owner := mxEnabled d site k && mxOwner d site k == n
  let c := getCtx d (ctxKey site k n)
  match b.junk with
  | some s => some s
  | none =>
    if headerBad (hasFeature d site .sparse) (hasFeature d site .tmap) b then some 0
    else if (match b.ctrl with | some (o, f) => ctrlBad route o f | none => false) then some 1
    else if (match b.vec with | some (o, f) => vecBad route o f | none => false) then some 4
    else if (match b.mx with
      | some m => mxBad owner (match m with | .run f => sN c f.sk.toNat | _ => 0) (modePair (getCore d (coreKey site k))) m
      | none => false) then some 5
    else none

/-- Whether the gate of R159 lets the bundle execute. -/
def gateOpen (c : Ctx) (h : Hdr) : Bool :=
  !(h.pen && h.pgate) || (bvBit (pReg c h.psel.toNat) 0 != h.psense)
/-- Whether a lane is written: the predicate of R158. -/
def laneOn (c : Ctx) (h : Hdr) (i : Nat) : Bool :=
  !(h.pen && !h.pgate) || (bvBit (pReg c h.psel.toNat) i != h.psense)

end Sys2Proof.Machine
end

