-- ==== Sys2Proof/Machine/Causes.lean ====
section
/-!
DEFINITION. What an array operation is withheld by (R80, R85), the cause to which a context's array cycle is counted (R180, R512), and the
passing of array cycles (R505, R511).
-/
namespace Sys2Proof.Machine

def held (d : Dev) (site k n : Nat) : Bool := tbit (regN d (pgCore site k + 0xF08)) n

/-- The overlap class of a docket that waits to be accepted (R384, R388). -/
def postClass (d : Dev) (p : Posted) : Nat := gClass (grp d (dkGroup p.word))
/-- A docket of the context that will increment counter ctr waits unstarted behind an earlier one of its class (R180 row 4): the dockets
accepted, and after them those that the Sorter holds and has yet to accept. -/
def orderStall (d : Dev) (site k n : Nat) (ctr : Nat) : Bool :=
  let s := getSorter d site
  let mine (p : Posted) : Bool := p.ctrEn && p.core.val == k && p.ctx.val == n && p.ctr.toNat == ctr
  s.dockets.any (fun x => !x.started && mine x.post && s.dockets.any (fun y => y.klass == x.klass && decide (y.id < x.id)))
  || (List.range s.waiting.length).any (fun i =>
    match s.waiting[i]? with
    | some p => mine p && (s.dockets.any (fun y => y.klass == postClass d p)
        || (s.waiting.take i).any (fun q => postClass d q == postClass d p))
    | none => false)

/-- Whether a duty of `duty` sixteenths leaves an array cycle to array operations: `duty` cycles of each 16 (R85). (DESIGN CHOICE, log
entry 13) -/
def dutyIssues (cycle duty : Nat) : Bool :=
  let slot := Config.dutySlot (cycle / 16)
  let before (t : Nat) : Bool := decide (slot t < slot (cycle % 16)) || (slot t == slot (cycle % 16) && decide (t < cycle % 16))
  decide (16 ≤ duty) || decide (((List.range 16).filter before).length < duty)
/-- The duty in force of a die (R85). -/
def dutyOf (d : Dev) (site : Nat) : Nat := rfld d (pgPmc site + 0x824) 0 5
/-- The arrays withhold an array operation now: the duty throttle, or a filler ramp-up (R80, R85, R151). -/
def mxWithheld (d : Dev) (site k : Nat) : Bool :=
  let c := getCore d (coreKey site k)
  !dutyIssues c.cycle (dutyOf d site) || c.filler.any (fun e => e.2 == .rampUp)

/-- The next bundle of a context as it stands in core memory. -/
def peekBundle (d : Dev) (site k n : Nat) : Nat :=
  let c := getCtx d (ctxKey site k n)
  ofBytes (memGet d (coreMemBase site k + (rfld d (pgCore site k + 0x808) 0 15 + c.pc.toNat % 2 ^ 15) * 64) 64)
/-- A bundle with an array operation. -/
def hasMx (w : Nat) : Bool := tbit w 490 && fld w 0 8 != 0

/-- The next bundle of a context is an array operation of the MX owner that finds the array queue full (R180 row 1). -/
def mxQueueStall (d : Dev) (site k n : Nat) : Bool :=
  n == mxOwner d site k && decide (8 ≤ (getCore d (coreKey site k)).queue.length) && hasMx (peekBundle d site k n)
/-- A RUNNING context whose next bundle waits for results still pending, or for a branch taken (R172). -/
def resultsPending (d : Dev) (site k n : Nat) : Bool :=
  let c := getCtx d (ctxKey site k n)
  let now := (getCore d (coreKey site k)).cycle
  decide (now < c.notBefore) || decide (now < readyAt c (decodeBundle (peekBundle d site k n)))

/-- The cause of a context in this array cycle, when another context issues or none (R180). A held context with results pending waits for
more than those. (DEDUCED, log entry 34) -/
def causeOf (d : Dev) (site k n : Nat) : Nat :=
  let c := getCtx d (ctxKey site k n)
  if c.cstate == .running && mxQueueStall d site k n then 0
  else if held d site k n then 11
  else match c.cstate with
    | .running => if mxWithheld d site k && hasMx (peekBundle d site k n) && !resultsPending d site k n then 10 else 0
    | _ => match c.wait with
      | .none => 0
      | .counter ctr _ cause => if cause = 4 ∧ orderStall d site k n ctr.toNat then 12 else cause
      | .doorbell _ _ => 9
      | .barrier _ => 7
      | .stream _ cause _ => cause
      | .fetchSlots cause => cause
      | .postQueue => 4

/-- A cause's total of a CORE page and its counter source gain `m` cycles of context n (R512). -/
def idleAdd (d : Dev) (site k n cause m : Nat) : Dev :=
  let a := pgCore site k + 0xB00 + 8 * cause
  let d := setReg64 d a ((reg64 d a + m) % 2 ^ 48)
  let key := ctxKey site k n
  countEvt (putCtx d key { getCtx d key with cause := cause }) (pgCore site k) (0x2000 + cause) n m
/-- Context n of a core, RUNNING or WAITING, adds `m` cycles to its cause, 0 to 12; `who` issued (R180). (DEDUCED, log entry 34) -/
def countCause (d : Dev) (site k m : Nat) (who : Option Nat) (n : Nat) : Dev :=
  let st := (getCtx d (ctxKey site k n)).cstate
  if st = .running ∨ st = .waiting then idleAdd d site k n (if who = some n then 0 else min 12 (causeOf d site k n)) m else d
/-- `m` array cycles of a core pass (R505, R511). (DEDUCED, log entry 34) -/
def passCycles (d : Dev) (site k m : Nat) : Dev :=
  let c := getCore d (coreKey site k)
  let d := putCore d (coreKey site k) { c with cycle := c.cycle + m }
  let d := countEvt (countEvt d (pgCore site k) 0x0000 0 m) (pgCore site k) 0x0002 0 m
  if running d (pgCore site k) then countEvt d (pgCore site k) 0x0001 0 m else d
/-- Count `m` array cycles of a core, those of its contexts first. (DEDUCED, log entry 34) -/
def account (d : Dev) (site k m : Nat) (who : Option Nat) : Dev :=
  passCycles ((List.range 16).foldl (fun d n => countCause d site k m who n) d) site k m

end Sys2Proof.Machine
end

