-- ==== Sys2Proof/Machine/Flags.lean ====
section
/-!
DEFINITION. The flags of a context (R154, R255 to R258): OVF, INV, the overflow count, and the record of the first INV
event.
-/
namespace Sys2Proof.Machine

/-- n elements overflow in a conversion: OVF sets and the saturating count rises by n (R255). -/
def ovfElems (c : Ctx) (n : Nat) : Ctx :=
  if n = 0 then c else { c with ovf := true, ovfCount := BitVec.ofNat 32 (min m32 (c.ovfCount.toNat + n)) }

/-- A block result, a stack addition or a combine rounds a finite value to an infinity: OVF alone (R255). -/
def ovfArray (c : Ctx) (b : Bool) : Ctx := if b then { c with ovf := true } else c

/-- Whether event (op, block) comes before the recorded one in issue order of MX operations (R257). -/
def invEarlier (c : Ctx) (op kblk : Nat) : Bool :=
  !c.inv || decide (op < c.invOp) || (op == c.invOp && decide (kblk < c.invKblk.toNat))

/-- An INV event of MX operation `op`: the flag sets, and the record keeps the earliest event (R256, R257). -/
def invEvent (c : Ctx) (op : Nat) (tile : W32) (kblk : Nat) : Ctx :=
  if invEarlier c op kblk then { c with inv := true, invOp := op, invTile := tile, invKblk := BitVec.ofNat 32 kblk }
  else { c with inv := true }

/-- FLGRD: OVF in bit 0, INV in bit 1, the overflow count in bits 63:32 (R162). -/
def flagsWord (c : Ctx) : W64 :=
  BitVec.ofNat 64 (c.ovf.toNat + 2 * c.inv.toNat + 2 ^ 32 * c.ovfCount.toNat)

/-- FLGCLR: clears the flags set in B; bit 63 clears the count; the record stays (R162, R258). -/
def flagsClear (c : Ctx) (b : W64) : Ctx :=
  { c with ovf := c.ovf && !bvBit b 0, inv := c.inv && !bvBit b 1,
           ovfCount := if bvBit b 63 then 0 else c.ovfCount }

end Sys2Proof.Machine
end

