-- ==== Sys2Proof/Machine/Streams.lean ====
section
/-!
DEFINITION. The LD and ST slots and the reads and writes of core memory by a context (R158, R164, R165, R173, R175 to R177,
R300, R306, R434, R435): whether a slot can be served, what it reads, what it writes.
-/
namespace Sys2Proof.Machine

/-- Whether a slot can be served in this array cycle: it can, the context waits, the array queue is full and the context
stays RUNNING, or the context faults. -/
inductive Verdict where
  | ok
  | wait (w : Wait)
  | full
  | fault (f : CoreFault)
  deriving DecidableEq, Repr

/-- The idle cause of a stall on a stream of a KIND (R175). -/
def kindCause (kind : Nat) : Nat := match kind with | 1 => 6 | 2 => 5 | 3 => 3 | _ => 2

/-! ## Core memory -/

/-- Whether a core's own write of n bytes at offset o meets its live code range (R153). -/
def hitsCode (d : Dev) (site k o n : Nat) : Bool :=
  let r := codeRange d site k
  decide (0 < n) && decide (o < r.2) && decide (r.1 < o + n) && decide (r.1 < r.2) && coreActive d site k

/-- The check of a core-memory read of n bytes at offset o (R164). -/
def cmemReadOk (slot o n align : Nat) : Verdict :=
  if coreOffOk o n align then .ok else .fault (fAddr, slot, o % 2 ^ 32)
/-- The check of a core-memory write (R153, R164). -/
def cmemWriteOk (d : Dev) (site k slot o n align : Nat) : Verdict :=
  if !coreOffOk o n align || hitsCode d site k o n then .fault (fAddr, slot, o % 2 ^ 32) else .ok

/-- Read core memory: bytes, poison, state (R164). -/
def cmemRead (d : Dev) (site k o n : Nat) : List Byte × Bool × Dev := memRead d (coreMemBase site k + o) n
/-- Write core memory. -/
def cmemWrite (d : Dev) (site k o : Nat) (bs : List Byte) : Dev :=
  agentWrite d (.core site k) (coreMemBase site k + o) bs false

/-! ## Stream accesses -/

/-- The bytes an access of n bytes takes from the position of a use (R176). -/
def takeN (s : Stream) (n : Nat) : Nat := min n (dscSize s.desc - s.pos)

/-- Whether runs of a use at a base address pass the reach of a wide core (R155): the first address that does. -/
def firstOut (base : Nat) (runs : List (Int × Nat)) : Option Nat :=
  (runs.find? (fun r => outOfReach ((base : Int) + r.1) r.2)).map (fun r => (((base : Int) + r.1) % 2 ^ 32).toNat)

/-- Whether the bytes of a read stream from its position are there (R176, R208, R306, R435), and no poison fill holds them up (R303). -/
def readServed (d : Dev) (site : Nat) (s : Stream) (n : Nat) : Bool :=
  !runsBlocked d (useBase d site s.desc s.base) (useRuns s.desc s.pos n) &&
  match dscKind s.desc with
  | 2 => s.begun
  | 3 =>
    let x := getSorter d site
    let off := dscPpa s.desc
    (dscRuns s.desc s.pos n).all (fun r =>
      covered (sget (fun _ => []) x.written (dscBox s.desc)) ((off : Int) + r.1).toNat r.2)
  | _ => decide (s.pos + n ≤ s.arrived)

/-- An LDV or LDPS of n bytes on descriptor register r of a context (R175, R176). -/
def ldStreamOk (d : Dev) (site k n r bytes : Nat) : Verdict :=
  let c := getCtx d (ctxKey site k n)
  let s := dReg c r
  let kind := dscKind s.desc
  let m := takeN s bytes
  if mxOwner d site k = n ∧ mxUses (getCore d (coreKey site k)) r then .wait (.stream (BitVec.ofNat 4 r) (kindCause kind) 0)
  else if kind = 1 ∨ dscRemote s.desc then .fault (fBadStream, 2, 0)
  else if dscSize s.desc ≤ s.pos ∧ (kind ≠ 2 ∨ s.begun ∨ !s.active) then .fault (fStreamEnd, 2, 0)
  else match firstOut (useBase d site s.desc s.base) (useRuns s.desc s.pos m) with
    | some a => .fault (fAddr, 2, a)
    | none => if readServed d site s m then .ok else .wait (.stream (BitVec.ofNat 4 r) (kindCause kind) (max 1 m))

/-- The byte ranges of a 512-byte access that the predicate writes, cut to m bytes: first byte and length (R158). -/
def laneSpans (on : Nat → Bool) (m : Nat) : List (Nat × Nat) :=
  if (List.range 128).all on then (if m = 0 then [] else [(0, m)])
  else (((List.range 128).filter on).filter (fun i => decide (4 * i < m))).map (fun i => (4 * i, min 4 (m - 4 * i)))

/-- The runs of memory that the written spans of an STV fall in, with the bytes of each. -/
def spanRuns (x : BitVec 512) (pos : Nat) (bs : List Byte) (spans : List (Nat × Nat)) : List ((Int × Nat) × List Byte) :=
  spans.flatMap (fun sp =>
    (useRuns x (pos + sp.1) sp.2).foldl
      (fun (acc : List ((Int × Nat) × List Byte) × List Byte) r => (acc.1 ++ [(r, acc.2.take r.2)], acc.2.drop r.2))
      ([], (bs.drop sp.1).take sp.2) |>.1)

/-- An STV on descriptor register r: `pos` is the position it starts from (R155, R175, R176, R300, R434). One that
meets the live code range writes nothing at all (R153; DESIGN CHOICE, log entry 57). -/
def stStreamOk (d : Dev) (site k n r pos : Nat) (on : Nat → Bool) : Verdict :=
  let c := getCtx d (ctxKey site k n)
  let s := { dReg c r with pos := pos }
  let kind := dscKind s.desc
  let m := takeN s 512
  let stall (need : Nat) : Verdict := .wait (.stream (BitVec.ofNat 4 r) (kindCause kind) need)
  if mxOwner d site k = n ∧ mxUses (getCore d (coreKey site k)) r then stall 0
  else if kind ≠ 0 ∧ kind ≠ 1 then .fault (fBadStream, 3, 0)
  else if dscSize s.desc ≤ s.pos then .fault (fStreamEnd, 3, 0)
  else if kind = 1 then (if s.begun then .ok else stall m)
  else
    let runs := (spanRuns s.desc s.pos [] (laneSpans on m)).map (·.1)
    let base : Int := dscPpa s.desc
    if !dscRemote s.desc && runsBlocked d (dscPpa s.desc) runs then stall 0
    else match runs.find? (fun r => if dscRemote s.desc then outOfReach (base + r.1) r.2 else writeBlocked d site k (base + r.1) r.2) with
    | some r => .fault (fAddr, 3, ((base + r.1) % 2 ^ 32).toNat)
    | none => .ok

/-- Bytes of free values, for what a write leaves unsaid (DESIGN CHOICE, log entry 4). -/
def freeBytes (d : Dev) (n : Nat) : List Byte × Dev :=
  ((List.range n).map (fun i => BitVec.ofNat 8 (Config.freeWord (d.free + i)).toNat), { d with free := d.free + n })

/-- The read of an LDV or LDPS: the bytes padded with zeros, poison, the state; the position moves (R176, R177). -/
def ldStream (d : Dev) (site k n r bytes : Nat) : List Byte × Bool × Dev :=
  let key := ctxKey site k n
  let s := dReg (getCtx d key) r
  let m := takeN s bytes
  let x := readRuns d (useBase d site s.desc s.base) (useRuns s.desc s.pos m)
  let d := x.2.2
  let c := getCtx d key
  (x.1 ++ List.replicate (bytes - m) 0, x.2.1, putCtx d key (setD c r { dReg c r with pos := s.pos + m }))

/-- The write of an STV (R158, R174, R176, R434): memory, a message, or a package elsewhere. -/
def stStream (d : Dev) (site k n r : Nat) (bs : List Byte) (on : Nat → Bool) : Dev :=
  let key := ctxKey site k n
  let s := dReg (getCtx d key) r
  let m := takeN s 512
  let spans := laneSpans on m
  let move (d : Dev) : Dev :=
    let c := getCtx d key
    putCtx d key (setD c r { dReg c r with pos := s.pos + m })
  if dscKind s.desc = 1 then
    let (free, d) := freeBytes d (if (List.range 128).all on then 0 else m)
    let msg := (List.range m).map (fun i => if on (i / 4) then bs.getD i 0 else free.getD i 0)
    let (gap, d) := freeBytes d (s.pos - s.outBytes.length)
    let c := getCtx d key
    move (putCtx d key (setD c r { dReg c r with outBytes := s.outBytes ++ gap ++ msg }))
  else
    let parts := spanRuns s.desc s.pos bs spans
    let base : Int := dscPpa s.desc
    move (parts.foldl (fun d p =>
      let a := (base + p.1.1).toNat
      if dscRemote s.desc then
        emit d (.remoteWrite (BitVec.ofNat 11 (dscPackage s.desc)) (BitVec.ofNat 40 a) p.2)
      else agentWrite (bucketFill d site a p.1.2) (.core site k) a p.2 false) d)

/-! ## Slot checks -/

/-- The LD slot's verdict (R164, R165, R175, R176). -/
def ldOk (d : Dev) (site k n : Nat) (o : LdOp) (f : MemF) : Verdict :=
  let a := addrA (getCtx d (ctxKey site k n)) f.sa f.imm
  match o with
  | .ldv => ldStreamOk d site k n f.ds.toNat 512
  | .ldps => ldStreamOk d site k n f.ds.toNat 16
  | .ldm => cmemReadOk 2 a 512 64
  | .ldp => cmemReadOk 2 a 16 16

/-- The LD slot's read: its bytes, or the fault of a poisoned read (R164, R177). The address at fault is the first one of the access,
whichever of its granules is poisoned. (DESIGN CHOICE, log entry 57) -/
def ldRead (d : Dev) (site k n : Nat) (o : LdOp) (f : MemF) : Dev × (CoreFault ⊕ List Byte) :=
  let c := getCtx d (ctxKey site k n)
  let a := addrA c f.sa f.imm
  let s := dReg c f.ds.toNat
  let strA := ((useBase d site s.desc s.base : Int) + (match useRuns s.desc s.pos 1 with | r :: _ => r.1 | [] => 0)).toNat
  let fin (x : List Byte × Bool × Dev) (addr : Nat) : Dev × (CoreFault ⊕ List Byte) :=
    if x.2.1 then (x.2.2, .inl (fPoison, 2, addr % 2 ^ 32)) else (x.2.2, .inr x.1)
  match o with
  | .ldm => fin (cmemRead d site k a 512) a
  | .ldp => fin (cmemRead d site k a 16) a
  | .ldv => fin (ldStream d site k n f.ds.toNat 512) strA
  | .ldps => fin (ldStream d site k n f.ds.toNat 16) strA

/-- The LD slot's register write (R158, R165). -/
def ldApply (old c : Ctx) (o : LdOp) (f : MemF) (bs : List Byte) (on : Nat → Bool) : Ctx :=
  match o with
  | .ldv | .ldm => setV c f.vr.toNat (maskedLanes on (vReg old f.vr.toNat) (ofVBytes bs))
  | .ldp | .ldps => setP c f.pd.toNat (BitVec.ofNat 128 (ofBytes bs))
where
  /-- Lanes that the predicate does not let through keep their contents. -/
  maskedLanes (on : Nat → Bool) (o n : VReg) : VReg :=
    ofLanes ((List.range 128).map (fun i => if on i then lane n i else lane o i))

/-- The position an access of the LD slot leaves for an ST access on the same register (R173). -/
def posAfterLd (c : Ctx) (ld : Option (LdOp × MemF)) (r : Nat) : Nat :=
  let s := dReg c r
  match ld with
  | some (.ldv, f) => if f.ds.toNat = r then s.pos + takeN s 512 else s.pos
  | some (.ldps, f) => if f.ds.toNat = r then s.pos + takeN s 16 else s.pos
  | _ => s.pos

/-- The ST slot's verdict (R153, R164, R165, R175, R176, R300). -/
def stOk (d : Dev) (site k n : Nat) (b : Bundle) (o : StOp) (f : MemF) : Verdict :=
  let c := getCtx d (ctxKey site k n)
  let a := addrA c f.sa f.imm
  let on := laneOn c b.h
  match o with
  | .stv => stStreamOk d site k n f.ds.toNat (posAfterLd c b.ld f.ds.toNat) on
  | .stm =>
    if !coreOffOk a 512 64 then .fault (fAddr, 3, a % 2 ^ 32)
    else match (laneSpans on 512).find? (fun sp => hitsCode d site k (a + sp.1) sp.2) with
      | some sp => .fault (fAddr, 3, (a + sp.1) % 2 ^ 32)
      | none => .ok
  | .stp => cmemWriteOk d site k 3 a 16 16

/-- The ST slot's write; registers as they stood before the bundle (R158, R161). -/
def stApply (d : Dev) (site k n : Nat) (old : Ctx) (h : Hdr) (o : StOp) (f : MemF) : Dev :=
  let a := addrA old f.sa f.imm
  let on := laneOn old h
  match o with
  | .stv => stStream d site k n f.ds.toNat (vBytes (vReg old f.vr.toNat)) on
  | .stm =>
    let bs := vBytes (vReg old f.vr.toNat)
    (laneSpans on 512).foldl (fun d sp => cmemWrite d site k (a + sp.1) ((bs.drop sp.1).take sp.2)) d
  | .stp => cmemWrite d site k a (toBytes 16 (pReg old f.pd.toNat).toNat)

end Sys2Proof.Machine
end

