-- ==== Sys2Proof/Machine/Ctrl.lean ====
section
/-!
DEFINITION. The CTRL slot (R162 to R164, R175 to R181, R186): arithmetic, branches, core memory, counters, flags, waits,
barriers, doorbells and notes, descriptors, copies, dockets and send lists.
-/
namespace Sys2Proof.Machine

/-! ## Doorbells and notifications (R106) -/

def jobDb (d : Dev) (n : Nat) : W32 := reg d (pgHost + 0xF40 + 4 * n)
/-- A write of v to JOB_NOTEn by a program of the job: v is added and vector 32 + n is sent (R106). -/
def noteAdd (d : Dev) (n : Nat) (v : W32) : Dev :=
  msixSend (setReg d (pgHost + 0xF80 + 4 * n) (reg d (pgHost + 0xF80 + 4 * n) + v)) (32 + n)

/-! ## Arithmetic -/

/-- The value that an arithmetic, logic, compare or LUI operation writes (R162): `a` is s[SA], `b` operand B. -/
def aluResult (o : CtrlOp) (f : CtrlF) (a b : W64) : W64 :=
  match o with
  | .add => a + b
  | .sub => a - b
  | .mul => a * b
  | .mulhu => BitVec.ofNat 64 (a.toNat * b.toNat / 2 ^ 64)
  | .and => a &&& b
  | .or => a ||| b
  | .xor => a ^^^ b
  | .shl => a <<< (b.toNat % 64)
  | .shr => a >>> (b.toNat % 64)
  | .sra => a.sshiftRight (b.toNat % 64)
  | .min => if b.slt a then b else a
  | .max => if a.slt b then b else a
  | .minu => if b.toNat < a.toNat then b else a
  | .maxu => if a.toNat < b.toNat then b else a
  | .cmp => if condHolds f.fn.toNat a b then 1 else 0
  | .lui => BitVec.ofNat 64 (f.imm.toNat * 2 ^ 32 + a.toNat % 2 ^ 32)
  | _ => 0

/-! ## Post boxes of a context: starting a use (R432, R434, R435) -/

/-- The bytes of a message and where it lies, for the next present message of a receive box (R435): the oldest, once all of
its packets are stored. -/
def pbPackets (len : Nat) : Nat := max 1 (ceilDiv len 2048)
def pbWhole (m : PbMsg) : Bool := decide (m.packets.eraseDups.length = pbPackets m.length)
/-- A message sequence lies before another, modulo 2^32. A receive box's sequence is that of the next message to become present. -/
def pbBelow (a b : W32) : Bool := a != b && decide (2 ^ 31 ≤ (a - b).toNat)
def pbSlotAddr (d : Dev) (site b seq : Nat) : Nat :=
  boxBase d site b + (if boxSlots d site b = 0 then 0 else seq % boxSlots d site b) * boxSize d site b

/-- The stream register or copy of box b that starts next, with its issue number: the oldest not begun. -/
def boxNext (d : Dev) (site k n b : Nat) : Option Nat :=
  let l := boxWaiting d site k n b
  l.find? (fun u => boxTurn d site k n b u)
/-- Whether a use of box b has begun and not completed: box uses go one at a time. -/
def boxBusy (d : Dev) (site k n b : Nat) : Bool :=
  let c := getCtx d (ctxKey site k n)
  let isBox (x : BitVec 512) : Bool := (dscKind x == 1 || dscKind x == 2) && dscBox x == b
  c.d.any (fun e => e.2.active && e.2.begun && isBox e.2.desc)
  || (getCore d (coreKey site k)).copies.any (fun e => match e.2 with
      | some o => o.ctx.val == n && o.begun && isBox o.desc | none => false)

/-- Mark the use with a given issue number as begun, its message at `base`. -/
def markBegun (d : Dev) (site k n useNo base : Nat) : Dev :=
  let key := ctxKey site k n
  let c := getCtx d key
  let d := putCtx d key { c with d := c.d.map (fun e =>
    if e.2.active ∧ e.2.useNo = useNo then (e.1, { e.2 with begun := true, base := base }) else e) }
  let co := getCore d (coreKey site k)
  putCore d (coreKey site k) { co with copies := co.copies.map (fun e => match e.2 with
    | some o => if o.ctx.val = n ∧ o.useNo = useNo then (e.1, some { o with begun := true, base := base }) else e
    | none => e) }

/-- The descriptor of a use by its issue number, and the bundle that started it. -/
def useDesc (d : Dev) (site k n useNo : Nat) : BitVec 512 × W64 :=
  let c := getCtx d (ctxKey site k n)
  match c.d.find? (fun e => e.2.active && e.2.useNo == useNo) with
  | some e => (e.2.desc, e.2.issuedAt)
  | none => match (getCore d (coreKey site k)).copies.findSome? (fun e => match e.2 with
      | some o => if o.ctx.val = n ∧ o.useNo = useNo then some (o.desc, o.issuedAt) else none
      | none => none) with
    | some x => x
    | none => (0, 0)

/-- A header-only POSTBOX message (R434, R436). -/
def pbPacket (d : Dev) (site b kind index seq len : Nat) (body : List Byte) : PbPacket :=
  let peer := boxReg d site b 0xD40
  { srcPkg := BitVec.ofNat 11 (regN d (pgRouter site + 0x804)), srcSite := BitVec.ofNat 2 site, srcBox := BitVec.ofNat 4 b
    dstBox := BitVec.ofNat 4 (fld peer 13 4), pkind := BitVec.ofNat 8 kind, index := BitVec.ofNat 16 index
    seq := BitVec.ofNat 32 seq, length := BitVec.ofNat 32 len, body := body }

/-- Let the oldest waiting use of a box start, when the box holds a credit or its next message is present (R434, R435). A
zero-size use completes as it starts, and the next one may then start. -/
def boxKickN : Nat → Dev → Nat → Nat → Dev
  | 0, d, _, _ => d
  | fuel + 1, d, site, b =>
    if !boxEnabled d site b then d
    else
      let (k, n) := boxOwner d site b
      let key := ctxKey site k n
      match boxNext d site k n b with
      | none => d
      | some u =>
        let (x, pc) := useDesc d site k n u
        let size := dscSize x
        let bx := getBox d site b
        let finish (d : Dev) : Dev :=
          let c := getCtx d key
          let d := putCtx d key { c with d := c.d.map (fun e =>
            if e.2.active ∧ e.2.useNo = u then (e.1, { e.2 with active := false }) else e) }
          let co := getCore d (coreKey site k)
          let d := putCore d (coreKey site k) { co with copies := co.copies.filter (fun e => match e.2 with
            | some o => !(o.ctx.val == n && o.useNo == u)
            | none => false) }
          useDone d site key x
        if boxBusy d site k n b then d
        else if boxReceives d site b then
          match bx.msgs with
          | m :: rest =>
            if !pbBelow m.seq bx.seq then d
            else if size ≠ m.length then faultCtx d site k n pc (fBadStream, 6, 0)
            else
              let d := markBegun d site k n u (pbSlotAddr d site b m.seq.toNat)
              if size = 0 then
                boxKickN fuel (emit (finish (putBox d site b { bx with msgs := rest })) (.postbox site (pbPacket d site b 2 0 m.seq.toNat 1 []))) site b
              else d
          | [] => d
        else if bx.credits = 0 then d
        else if bx.size * 65536 < size then faultCtx d site k n pc (fBadStream, 6, 0)
        else
          let d := putBox d site b { bx with credits := bx.credits - 1, seq := if size = 0 then bx.seq + 1 else bx.seq }
          let d := markBegun d site k n u 0
          if size = 0 then boxKickN fuel (emit (finish d) (.postbox site (pbPacket d site b 0 0 bx.seq.toNat 0 []))) site b else d
/-- At most 32 uses of a context wait: 16 descriptor registers and 16 copies. (DEDUCED, log entry 35) -/
def boxKick (d : Dev) (site b : Nat) : Dev := boxKickN 33 d site b

/-- Start the box of a descriptor, if it names one. (DEDUCED, log entry 35) -/
def kickFor (d : Dev) (site : Nat) (x : BitVec 512) : Dev :=
  if dscKind x = 1 ∨ dscKind x = 2 then boxKick d site (dscBox x) else d

/-! ## What a CTRL slot needs (R151, R164, R175, R177, R181, R211) -/

/-- Dockets a core has posted and the Sorter has not completed (R181). -/
def coreDockets (d : Dev) (site k : Nat) : Nat :=
  let s := getSorter d site
  (s.waiting.filter (fun p => p.core.val == k && !p.triggered)).length
  + (s.dockets.filter (fun x => x.post.core.val == k && !x.post.triggered)).length

/-- FETCH and PUT operations of a core in progress (R177). -/
def copiesInUse (c : Core) : Nat := (c.copies.filter (fun e => e.2.isSome)).length

/-- The verdict of a FETCH or a PUT (R175, R177). -/
def copyOk (d : Dev) (site k n : Nat) (isPut : Bool) (x : BitVec 512) (off : Nat) : Verdict :=
  let kind := dscKind x
  if useBad d site k n x || (if isPut then kind == 2 || kind == 3 else kind == 1 || dscRemote x) then
    .fault (fBadStream, 1, 0)
  else if dscSize x ≠ 0 ∧ coreMemSize < off + dscSize x then .fault (fAddr, 1, off % 2 ^ 32)
  else if 16 ≤ copiesInUse (getCore d (coreKey site k)) then
    .wait (.fetchSlots (if kind = 0 then 1 else kindCause kind))
  else .ok

/-- The CTRL slot's verdict. A docket or a parameter block out of place raises ADDR_FAULT, which R164 does not say of POST and PACK.
(DESIGN CHOICE, log entry 57) -/
def ctrlOk (d : Dev) (site k n : Nat) (o : CtrlOp) (f : CtrlF) : Verdict :=
  let c := getCtx d (ctxKey site k n)
  let a := addrA c f.sa f.imm
  let mxStall (r : Nat) : Bool := mxOwner d site k == n && mxUses (getCore d (coreKey site k)) r
  let stall (r : Nat) : Verdict := .wait (.stream (BitVec.ofNat 4 r) (kindCause (dscKind (dReg c r).desc)) 0)
  match o with
  | .sld => cmemReadOk 1 a 8 8
  | .slw => cmemReadOk 1 a 4 4
  | .sst => cmemWriteOk d site k 1 a 8 8
  | .ssw => cmemWriteOk d site k 1 a 4 4
  | .dld => if mxStall f.sd.toNat then stall f.sd.toNat else cmemReadOk 1 a 64 64
  | .dskip => if mxStall f.sa.toNat then stall f.sa.toNat else .ok
  | .fetch => copyOk d site k n false (dReg c f.sa.toNat).desc (operandB c f).toNat
  | .put => copyOk d site k n true (dReg c f.sa.toNat).desc (operandB c f).toNat
  | .post =>
    if !coreOffOk a 64 64 then .fault (fAddr, 1, a % 2 ^ 32)
    else if 8 ≤ coreDockets d site k then .wait .postQueue else .ok
  | .pack => cmemReadOk 1 a 64 1
  | _ => .ok

/-- The bytes of core memory a CTRL slot reads, or its fault (R164, R175, R305, R432). -/
def ctrlRead (d : Dev) (site k n : Nat) (o : CtrlOp) (f : CtrlF) : Dev × (CoreFault ⊕ List Byte) :=
  let a := addrA (getCtx d (ctxKey site k n)) f.sa f.imm
  let go (len : Nat) : Dev × (CoreFault ⊕ List Byte) :=
    let x := cmemRead d site k a len
    if x.2.1 then (x.2.2, .inl (fPoison, 1, a % 2 ^ 32)) else (x.2.2, .inr x.1)
  match o with
  | .sld => go 8
  | .slw => go 4
  | .post | .pack => go 64
  | .dld =>
    let r := go 64
    match r.2 with
    | .inr bs => if useBad r.1 site k n (BitVec.ofNat 512 (ofBytes bs)) then (r.1, .inl (fBadStream, 1, 0)) else r
    | .inl _ => r
  | _ => (d, .inr [])

/-! ## What a CTRL slot does -/

/-- A message that has been read leaves its slot, and its box returns one credit (R435). -/
def messageTaken (d : Dev) (site b : Nat) : Dev :=
  let bx := getBox d site b
  match bx.msgs with
  | [] => d
  | m :: rest =>
    boxKick (emit (putBox d site b { bx with msgs := rest }) (.postbox site (pbPacket d site b 2 0 m.seq.toNat 1 []))) site b

/-- The completion of a use that its position has brought to its end (R176, R435): a receive use that has started gives its message back to
the box; one that has not started takes none (DEDUCED, log entry 35), and the next use of the box may start. -/
def useEnded (d : Dev) (site key : Nat) (s : Stream) : Dev :=
  let d := useDone d site key s.desc
  if dscKind s.desc ≠ 2 then d else if s.begun then messageTaken d site (dscBox s.desc) else boxKick d site (dscBox s.desc)

/-- DSKIP: the position advances and never passes the end; a use that reaches the end completes (R162, R176), one of KIND 1 under R434. -/
def skipStream (d : Dev) (site key r n : Nat) : Dev :=
  let c := getCtx d key
  let s := dReg c r
  let pos := min (dscSize s.desc) (s.pos + n)
  let pos := max s.pos pos
  let fin := s.active && decide (s.pos < dscSize s.desc ∧ dscSize s.desc ≤ pos) && dscKind s.desc != 1
  let d := putCtx d key (setD c r { s with pos := pos, active := s.active && !fin })
  if fin then useEnded d site key s else d

/-- Start a FETCH or PUT: the lowest free slot takes it; a zero-size one completes at once (R176, R177). -/
def startCopy (d : Dev) (site k : Nat) (n : Fin 16) (isPut : Bool) (pc : W64) (x : BitVec 512) (off : Nat) : Dev :=
  let key := ctxKey site k n.val
  let c := getCtx d key
  let d := putCtx d key { c with uses := c.uses + 1 }
  if doneAtStart x then useDone d site key x
  else
    let co := getCore d (coreKey site k)
    let i := ((List.range 16).find? (fun i => (sget (fun _ => none) co.copies i).isNone)).getD 0
    let op : CopyOp := ⟨n, isPut, x, off, c.uses, false, 0, pc⟩
    kickFor (putCore d (coreKey site k) { co with copies := sput (fun _ => none) co.copies i (some op) }) site x

/-- Hand a docket to the Sorter: it waits there until it is accepted (R181, R383). -/
def postDocket (d : Dev) (site : Nat) (p : Posted) : Dev :=
  let s := getSorter d site
  putSorter d site { s with waiting := s.waiting ++ [p] }

/-- Put a context into a wait. -/
def waitOn (d : Dev) (key : Nat) (w : Wait) : Dev := putCtx d key { getCtx d key with cstate := .waiting, wait := w }

/-- The effect of a CTRL operation, its registers read from `old` and its core-memory bytes in `bs`. The pc is set to the next
bundle before this; branches set it again (R162). FLGCLR has acted before the other slots (R258). -/
def ctrlApply (d : Dev) (site k : Nat) (n : Fin 16) (old : Ctx) (o : CtrlOp) (f : CtrlF) (bs : List Byte) : Dev :=
  let key := ctxKey site k n.val
  let c := getCtx d key
  let a := sReg old f.sa.toNat
  let b := operandB old f
  let addr := addrA old f.sa f.imm
  let sd := f.sd.toNat
  let sa := f.sa.toNat
  let put (c : Ctx) : Dev := putCtx d key c
  let wr (v : W64) : Dev := put (setS c sd v)
  let jump (c : Ctx) (pc : W64) : Dev := put { c with pc := pc, notBefore := (getCore d (coreKey site k)).cycle + 4 }
  match o with
  | .br => if condHolds f.fn.toNat a (sReg old f.sb.toNat) then jump c (old.pc + imm64 f.imm) else d
  | .jal => jump (setS c sd (old.pc + 1)) (old.pc + imm64 f.imm)
  | .jr => jump c (a + imm64 f.imm)
  | .halt => haltCtx d site k n.val
  | .sld | .slw => wr (BitVec.ofNat 64 (ofBytes bs))
  | .sst => cmemWrite d site k addr (toBytes 8 (sReg old f.sb.toNat).toNat)
  | .ssw => cmemWrite d site k addr (toBytes 4 (sReg old f.sb.toNat).toNat)
  | .s2v => put (setV c sd (ofLanes (List.replicate 128 (a.toNat % 2 ^ 32))))
  | .v2s => wr (BitVec.ofNat 64 (lane (vReg old sa) (f.imm.toNat % 128)))
  | .cset => put (setC c sd (b.truncate 32))
  | .cadd => put (setC c sd (cReg old sd + b.truncate 32))
  | .crd => wr ((cReg old sa).zeroExtend 64)
  | .flgrd => wr (flagsWord old)
  | .flgclr => d
  | .rseed =>
    put { c with tensor := a.truncate 32,
                 lfsr := BitVec.ofNat 32 (Fp.seed (jobSeed d site k) (a.toNat % 2 ^ 32) (b.toNat % 2 ^ 32)) }
  | .waitc =>
    let bb : W32 := b.truncate 32
    if reached (cReg old sa) bb then d else waitOn d key (.counter (BitVec.ofNat 4 sa) bb f.fn.toNat)
  | .waitd =>
    let bb : W32 := b.truncate 32
    if reached (jobDb d sa) bb then d else waitOn d key (.doorbell (BitVec.ofNat 4 sa) bb)
  | .barc =>
    let r := barArrive d site (k / 8) sa
    if r.1 then waitOn r.2 key (.barrier sa) else r.2
  | .dbrd => wr ((jobDb d sa).zeroExtend 64)
  | .note => noteAdd d sd (b.truncate 32)
  | .dld => kickFor (startUse d site k n.val sd old.pc (BitVec.ofNat 512 (ofBytes bs))) site (BitVec.ofNat 512 (ofBytes bs))
  | .fetch => startCopy d site k n false old.pc (dReg old sa).desc b.toNat
  | .put => startCopy d site k n true old.pc (dReg old sa).desc b.toNat
  | .dpos => wr (BitVec.ofNat 64 (dReg old sa).pos)
  | .dskip => skipStream d site key sa b.toNat
  | .post =>
    postDocket d site ⟨BitVec.ofNat 512 (ofBytes bs), Fin.ofNat 128 k, n, tbit f.fn.toNat 4, BitVec.ofNat 4 f.fn.toNat, false⟩
  | .pack => put { c with packs := c.packs ++ [(BitVec.ofNat 512 (ofBytes bs), old.pc)] }
  | o => wr (aluResult o f a b)

end Sys2Proof.Machine
end

