-- ==== Sys2Proof/Machine/Vec.lean ====
section
/-!
DEFINITION. The VEC slot (R158, R166 to R168, R185): what each operation writes, from the registers as they stand before
the bundle.
-/
namespace Sys2Proof.Machine

/-- A vector register with the lanes that the predicate lets through replaced (R158). -/
def maskedV (on : Nat → Bool) (old : VReg) (new : List Nat) : VReg :=
  ofLanes ((List.range 128).map (fun i => if on i then new.getD i 0 else lane old i))
/-- A predicate register with the bits that the predicate lets through replaced. -/
def maskedP (on : Nat → Bool) (old : PReg) (new : Nat → Bool) : PReg :=
  BitVec.ofNat 128 ((List.range 128).foldl (fun acc i => acc + (if on i then new i else bvBit old i).toNat * 2 ^ i) 0)

/-- A signed 32-bit lane as an integer. -/
def sgn32 (x : Nat) : Int := signed32 (x % 2 ^ 32)

/-- INT32 compare, conditions as in VCMP. -/
def icmp (cond : Nat) (a b : Int) : Bool :=
  match cond with
  | 0 => a == b
  | 1 => a != b
  | 2 => decide (a < b)
  | 3 => decide (a ≤ b)
  | 4 => decide (b < a)
  | _ => decide (b ≤ a)

/-- A lanewise operation on two lanes (R166, R167). -/
def laneOp (o : VecOp) (fp : Bool) (a b : Nat) : Nat :=
  match o with
  | .vadd => if fp then Fp.add32 a b else (a + b) % 2 ^ 32
  | .vsub => if fp then Fp.sub32 a b else (a + 2 ^ 32 - b) % 2 ^ 32
  | .vmul => if fp then Fp.mul32 a b else a * b % 2 ^ 32
  | .vmax => if fp then Fp.maxmin32 true a b else if sgn32 a < sgn32 b then b else a
  | .vmin => if fp then Fp.maxmin32 false a b else if sgn32 b < sgn32 a then b else a
  | .vand => a &&& b
  | .vor => a ||| b
  | .vxor => a ^^^ b
  | .vshl => a * 2 ^ (b % 32) % 2 ^ 32
  | .vshr => a / 2 ^ (b % 32)
  | .vsra => (sgn32 a / 2 ^ (b % 32) % 2 ^ 32).toNat
  | .vexp2 => Fp.exp2_32 a
  | .vrcp => Fp.rcp32 a
  | .vrsqrt => Fp.rsqrt32 a
  | .vlog2 => Fp.log2_32 a
  | _ => a

/-- The fixed pairwise tree over 2^n lanes (R167). -/
def pairTree (f : Nat → Nat → Nat) : Nat → List Nat → Nat
  | 0, l => l.getD 0 0
  | n + 1, l => pairTree f n ((List.range (2 ^ n)).map (fun i => f (l.getD (2 * i) 0) (l.getD (2 * i + 1) 0)))

/-! ## ROUTE and ROUTE.M (R185) -/

/-- A candidate: expert index and FP32 score. -/
abbrev Cand := Nat × Nat
/-- Whether candidate a ranks before b: higher score, then lower index, NaN last. -/
def candBefore (a b : Cand) : Bool :=
  let va := Fp.decode 0x2 a.2
  let vb := Fp.decode 0x2 b.2
  if Fp.isNan va then Fp.isNan vb && decide (a.1 < b.1)
  else if Fp.isNan vb then true
  else Fp.ltVal vb va || (Fp.eqVal va vb && decide (a.1 < b.1))
def candInsert (a : Cand) : List Cand → List Cand
  | [] => [a]
  | b :: l => if candBefore a b then a :: b :: l else b :: candInsert a l
/-- The best k candidates in rank order. -/
def candTop (k : Nat) (l : List Cand) : List Cand := (l.foldl (fun acc a => candInsert a acc) []).take k

/-- The two lists of lanes ROUTE writes: indices and scores. -/
def routeLanes (imm : W32) (va : VReg) (cur : List Cand) : List Nat × List Nat :=
  let k := fld imm.toNat 0 4
  let e := fld imm.toNat 8 8
  let base := fld imm.toNat 16 16
  let new := (List.range e).map (fun i => (base + i, lane va i))
  let best := candTop k ((cur ++ new).filter (fun c => c.1 ≠ 0xFFFFFFFF))
  ((List.range 128).map (fun i => if i < best.length then (best.getD i (0, 0)).1 else 0xFFFFFFFF),
   (List.range 128).map (fun i => if i < best.length then (best.getD i (0, 0)).2 else 0))

/-! ## VCVT (R168, R244 to R250, R254, R255) -/

/-- The 128 source elements of a VCVT. -/
def cvtElems (imm : W32) (va : VReg) : List Nat :=
  let w := Fp.width (cvtSrc imm)
  if w = 32 then lanes va else (List.range 128).map (fun i => fld va.toNat (cvtPart imm * 128 * w + i * w) w)

/-- The scale byte of block b of the part in v[VC]. -/
def scaleAt (imm : W32) (vc : VReg) (b : Nat) : Nat := fld vc.toNat (8 * (4 * cvtPart imm + b)) 8

/-- The elements a VCVT gives, its scale bytes for an MX target, its count of overflows and the generator after it. -/
def cvtRun (c : Ctx) (f : VecF) (on : Nat → Bool) : List Nat × List Nat × Nat × Nat :=
  let src := cvtSrc f.imm
  let dst := cvtDst f.imm
  let mode := cvtOvf f.imm
  let rnd := cvtRnd f.imm
  let vc := vReg c f.vc.toNat
  let elems := cvtElems f.imm (vReg c f.va.toNat)
  let scale := Fp.decode 0x2 (lane vc 0)
  if Fp.isMx dst then
    (List.range 4).foldl (fun acc b =>
      let vals := ((elems.drop (32 * b)).take 32).map (Fp.decode src)
      let r := Fp.mxBlock dst mode rnd (fun i => on (32 * b + i)) vals acc.2.2.2
      (acc.1 ++ r.2.out, acc.2.1 ++ [r.1], acc.2.2.1 + r.2.ovf, r.2.lfsr)) ([], [], 0, c.lfsr.toNat)
  else
    let r :=
      if src = dst then
        (⟨elems.map (fun x => if src = 2 ∧ Fp.isNan (Fp.decode 2 x) then Fp.canonNan 2 else x), 0,
          if rnd then (List.range 128).foldl (fun s _ => (Fp.draw16 s).1) c.lfsr.toNat else c.lfsr.toNat⟩ : Fp.Conv)
      else if dst = 5 ∨ dst = 6 then
        Fp.convScaledList dst mode rnd scale on 0 (elems.map (Fp.decode src)) ⟨[], 0, c.lfsr.toNat⟩
      else if Fp.isMx src then
        Fp.convMxList dst mode rnd on 0
          ((List.range 128).map (fun i => Fp.mxValue src (scaleAt f.imm vc (i / 32)) (elems.getD i 0))) ⟨[], 0, c.lfsr.toNat⟩
      else
        let vals :=
          if src = 5 ∨ src = 6 then
            elems.map (fun x => if Fp.goodScale scale then (Fp.mulVal (Fp.decode src x) scale).1 else .nan)
          else elems.map (Fp.decode src)
        Fp.convList dst mode rnd on 0 vals ⟨[], 0, c.lfsr.toNat⟩
    (r.out, [], r.ovf, r.lfsr)

/-- A register with the elements of a part replaced where their lane is written (R168). -/
def partPut (old : VReg) (w part : Nat) (on : Nat → Bool) (els : List Nat) : VReg :=
  BitVec.ofNat 4096 ((List.range 128).foldl (fun x i =>
    if on i then setFld x (part * 128 * w + i * w) w (els.getD i 0) else x) old.toNat)
/-- A register with the scale bytes of blocks that have a written lane replaced (R168). -/
def scalePut (old : VReg) (part : Nat) (on : Nat → Bool) (scales : List Nat) : VReg :=
  BitVec.ofNat 4096 ((List.range 4).foldl (fun x b =>
    if (List.range 32).any (fun i => on (32 * b + i)) then setFld x (8 * (4 * part + b)) 8 (scales.getD b 0) else x) old.toNat)

/-- The effect of VCVT on its context. -/
def cvtApply (c : Ctx) (f : VecF) (on : Nat → Bool) : Ctx :=
  let (els, scales, n, g) := cvtRun c f on
  let w := Fp.width (cvtDst f.imm)
  let vd := f.vd.toNat
  let c1 := { ovfElems c n with lfsr := BitVec.ofNat 32 g }
  if w = 32 then setV c1 vd (maskedV on (vReg c vd) els)
  else
    let c2 := setV c1 vd (partPut (vReg c vd) w (cvtPart f.imm) on els)
    if Fp.isMx (cvtDst f.imm) then setV c2 f.vc.toNat (scalePut (vReg c2 f.vc.toNat) (cvtPart f.imm) on scales) else c2

/-! ## The slot -/

/-- The effect of a VEC operation on its context; `on` says which lanes are written (R158, R161, R166). -/
def vecApply (c : Ctx) (o : VecOp) (f : VecF) (on : Nat → Bool) : Ctx :=
  let vd := f.vd.toNat
  let a := vReg c f.va.toNat
  let b := vReg c f.vb.toNat
  let fp := f.typ == 2
  let putV (l : List Nat) : Ctx := setV c vd (maskedV on (vReg c vd) l)
  let putP (g : Nat → Bool) : Ctx := setP c f.pd.toNat (maskedP on (pReg c f.pd.toNat) g)
  let p (i : BitVec 5) : PReg := pReg c i.toNat
  match o with
  | .vfma => putV ((List.range 128).map (fun i => Fp.fma32 (lane a i) (lane b i) (lane (vReg c f.vc.toNat) i)))
  | .vcmp =>
    let cond := fld f.imm.toNat 0 3
    putP (fun i => if fp then Fp.cmpVal cond (Fp.decode 2 (lane a i)) (Fp.decode 2 (lane b i))
                   else icmp cond (sgn32 (lane a i)) (sgn32 (lane b i)))
  | .vsel => putV ((List.range 128).map (fun i => if bvBit (pReg c f.pd.toNat) i then lane a i else lane b i))
  | .vbcast => putV (List.replicate 128 f.imm.toNat)
  | .pand => putP (fun i => bvBit (p f.va) i && bvBit (p f.vb) i)
  | .por => putP (fun i => bvBit (p f.va) i || bvBit (p f.vb) i)
  | .pxor => putP (fun i => bvBit (p f.va) i != bvBit (p f.vb) i)
  | .pnot => putP (fun i => !bvBit (p f.va) i)
  | .vcvt => cvtApply c f on
  | .vrsum => putV [pairTree (laneOp .vadd fp) 7 (lanes a)]
  | .vrmax => putV [pairTree (laneOp .vmax fp) 7 (lanes a)]
  | .vperm => putV ((List.range 128).map (fun i => lane a (lane b i % 128)))
  | .route =>
    let r := routeLanes f.imm a []
    setV (putV r.1) (vd + 1) (maskedV on (vReg c (vd + 1)) r.2)
  | .routeM =>
    let cur := (List.range 128).map (fun i => (lane (vReg c vd) i, lane (vReg c (vd + 1)) i))
    let r := routeLanes f.imm a cur
    setV (putV r.1) (vd + 1) (maskedV on (vReg c (vd + 1)) r.2)
  | o => putV ((List.range 128).map (fun i => laneOp o fp (lane a i) (lane b i)))

end Sys2Proof.Machine
end

