-- ==== Sys2Proof/Machine/Issue.lean ====
section
/-!
DEFINITION. Issue of a bundle (R151 to R153, R157 to R161, R169 to R173, R180 to R183, R187, R188): from a bundle's readiness to
its effect, and one array cycle of a core. A bundle in which a slot faults changes nothing but what the fault itself records.
-/
namespace Sys2Proof.Machine

/-! ## The MX slot at issue -/

/-- The MX operation that enters the array queue, from the registers before the bundle (R169 to R171, R183, R252). -/
def mxOpOf (d : Dev) (site k : Nat) (old : Ctx) (h : Hdr) (num : Nat) : MxSlot → MxOp
  | .mode f => .mode f num old.pc
  | .wload f => .wload f h.sparse num old.pc
  | .run f =>
    let bit := bvBit (pReg old f.tsel.toNat) (sN old f.stidx.toNat % 128)
    .run f (sN old f.sk.toNat) h.sparse h.zskip (h.tmap && (bit == f.tsense)) (old.tileSeq + 1) num old.pc
  | .drain f =>
    .drain f (BitVec.ofNat 32 (if f.rnd then Fp.seed (jobSeed d site k) old.tensor.toNat (sN old f.stidx.toNat % 2 ^ 32) else 0)) num old.pc

/-- MX operations of a core: how many are queued, the one in the arrays and the one draining apart (R170). -/
def mxQueueFull (d : Dev) (site k : Nat) : Bool := decide (8 ≤ (getCore d (coreKey site k)).queue.length)

/-- The MX slot enters the array queue; a run advances the tile sequence count (R154, R170). -/
def mxIssue (d : Dev) (site k n : Nat) (old : Ctx) (h : Hdr) (m : MxSlot) : Dev :=
  let co := getCore d (coreKey site k)
  let d := putCore d (coreKey site k) { co with queue := co.queue ++ [mxOpOf d site k old h co.mxNum m], mxNum := co.mxNum + 1 }
  match m with
  | .run _ =>
    let c := getCtx d (ctxKey site k n)
    countEvt (putCtx d (ctxKey site k n) { c with tileSeq := old.tileSeq + 1 }) (pgCore site k) 0x1001 0 1
  | _ => d

/-! ## Verdict of a bundle -/

def Verdict.waits : Verdict → Bool
  | .wait _ => true
  | .full => true
  | _ => false

/-- The verdicts of the slots in order. -/
def slotVerdicts (d : Dev) (site k n : Nat) (b : Bundle) : List Verdict :=
  [ (match b.ctrl with | some (o, f) => ctrlOk d site k n o f | none => .ok),
    (match b.ld with | some (o, f) => ldOk d site k n o f | none => .ok),
    (match b.st with | some (o, f) => stOk d site k n b o f | none => .ok),
    (if b.mx.isSome && mxQueueFull d site k then .full else .ok) ]

/-- The verdict of a bundle whose registers are free: a slot that waits holds it, else the first fault counts (R151). -/
def bundleVerdict (d : Dev) (site k n : Nat) (b : Bundle) : Verdict :=
  let vs := slotVerdicts d site k n b
  match vs.find? Verdict.waits with
  | some v => v
  | none => (vs.find? (fun v => v != .ok)).getD .ok

/-! ## The effect of a bundle -/

/-- The reads of the CTRL and LD slots, before any write (R161, R173). -/
def bundleRead (d : Dev) (site k n : Nat) (b : Bundle) : Dev × (CoreFault ⊕ (List Byte × List Byte)) :=
  let r1 := match b.ctrl with | some (o, f) => ctrlRead d site k n o f | none => (d, .inr [])
  match r1.2 with
  | .inl e => (r1.1, .inl e)
  | .inr bs =>
    let r2 := match b.ld with | some (o, f) => ldRead r1.1 site k n o f | none => (r1.1, .inr [])
    match r2.2 with
    | .inl e => (r2.1, .inl e)
    | .inr bl => (r2.1, .inr (bs, bl))

/-- Mark the registers a bundle writes as pending, from this array cycle on (R172). -/
def markBusy (c : Ctx) (b : Bundle) (now : Nat) : Ctx :=
  (bundleWrites b).foldl (fun c w => if w.2 = 0 ∨ w.1 = kS 0 then c else setBusy c w.1 (now + w.2)) c

/-- FLGCLR of the CTRL slot acts before the other slots (R258). -/
def flagsFirst (old c : Ctx) (b : Bundle) : Ctx :=
  match b.ctrl with | some (.flgclr, f) => flagsClear c (operandB old f) | _ => c
/-- The writes of the VEC and LD slots to their context, the lanes of the predicate only. -/
def lanesWrite (old c : Ctx) (b : Bundle) (bl : List Byte) : Ctx :=
  let on := laneOn old b.h
  let c := match b.vec with | some (o, f) => vecApply c o f on | none => c
  match b.ld with | some (o, f) => ldApply old c o f bl on | none => c
/-- The context after its bundle's register writes, but for those of the CTRL slot; the pc is at the next bundle. -/
def nextCtx (old c : Ctx) (b : Bundle) (bl : List Byte) (now : Nat) : Ctx :=
  { markBusy (lanesWrite old (flagsFirst old c b) b bl) b now with pc := old.pc + 1 }

/-- The writes of a bundle: flags clear, vector and load results, the pc, stores, the array queue, then the CTRL slot. -/
def bundleWrite (d : Dev) (site k : Nat) (n : Fin 16) (old : Ctx) (b : Bundle) (bs bl : List Byte) : Dev :=
  let key := ctxKey site k n.val
  let d := putCtx d key (nextCtx old (getCtx d key) b bl (getCore d (coreKey site k)).cycle)
  let d := match b.st with | some (o, f) => stApply d site k n.val old b.h o f | none => d
  let d := match b.mx with | some m => mxIssue d site k n.val old b.h m | none => d
  match b.ctrl with | some (o, f) => ctrlApply d site k n old o f bs | none => d

/-- A context becomes WAITING on what its bundle needs; the pc stays (R151). -/
def stallOn (d : Dev) (site k n : Nat) (v : Verdict) : Dev :=
  match v with
  | .wait w => waitOn d (ctxKey site k n) w
  | _ => d

/-- Issue a bundle whose registers are free. The answer says whether it issued (R151, R159, R160). -/
def issueBundle (d : Dev) (site k : Nat) (n : Fin 16) (b : Bundle) : Bool × Dev :=
  let key := ctxKey site k n.val
  let old := getCtx d key
  match bundleBad d site k n.val b with
  | some s => (true, faultCtx d site k n.val old.pc (fBadBundle, s, 0))
  | none =>
    if !gateOpen old b.h then (true, putCtx d key { old with pc := old.pc + 1 })
    else
      let v := bundleVerdict d site k n.val b
      match v with
      | .fault e => (true, faultCtx d site k n.val old.pc e)
      | .wait _ => (false, stallOn d site k n.val v)
      | .full => (false, d)
      | .ok =>
        let r := bundleRead d site k n.val b
        match r.2 with
        | .inl e => (true, faultCtx r.1 site k n.val old.pc e)
        | .inr (bs, bl) => (true, bundleWrite r.1 site k n old b bs bl)

/-- Count an issue: the bundle source, and the core's round-robin pointer (R151, R511). -/
def noteIssue (d : Dev) (site k n : Nat) : Dev :=
  let co := getCore d (coreKey site k)
  countEvt (putCore d (coreKey site k) { co with last := n }) (pgCore site k) 0x1000 n 1

/-! ## Waits that end -/

/-- Whether what a WAITING context waits on has come about (R151, R178, R179). -/
def waitOver (d : Dev) (site k n : Nat) : Bool :=
  let c := getCtx d (ctxKey site k n)
  match c.wait with
  | .none => true
  | .counter ctr b _ => reached (cReg c ctr.toNat) b
  | .doorbell db b => reached (jobDb d db.toNat) b
  | .barrier _ => false
  | .stream r _ need =>
    let s := dReg c r.toNat
    !(mxOwner d site k == n && mxUses (getCore d (coreKey site k)) r.toNat)
    && (need == 0 || (if dscKind s.desc = 1 ∨ dscKind s.desc = 2 then s.begun else readServed d site s need))
  | .fetchSlots _ => decide (copiesInUse (getCore d (coreKey site k)) < 16)
  | .postQueue => decide (coreDockets d site k < 8)

/-- A WAITING context whose event has occurred is RUNNING again. -/
def wakeCtx (d : Dev) (site k n : Nat) : Dev :=
  let key := ctxKey site k n
  let c := getCtx d key
  if c.cstate = .waiting ∧ waitOver d site k n then putCtx d key { c with cstate := .running, wait := .none } else d

/-! ## One array cycle of a core (R151) -/

/-- The fetch of a context's next bundle: its bits, or the fault of R153 or R164. -/
def fetchBundle (d : Dev) (site k n : Nat) : Dev × (CoreFault ⊕ Nat) :=
  let c := getCtx d (ctxKey site k n)
  let len := rfld d (pgCore site k + 0x80C) 0 15
  if len ≤ c.pc.toNat then (d, .inl (fFetch, 0, 0))
  else
    let off := (rfld d (pgCore site k + 0x808) 0 15 + c.pc.toNat) * 64
    let x := cmemRead d site k off 64
    if x.2.1 then (x.2.2, .inl (fPoison, 0, off)) else (x.2.2, .inr (ofBytes x.1))

/-- Whether a context may be chosen in this array cycle, its next bundle apart. -/
def mayIssue (d : Dev) (site k n : Nat) : Bool :=
  (getCtx d (ctxKey site k n)).cstate == .running && !held d site k n && running d (pgCore site k)
  && !(getCtx d (ctxKey site k n)).stopping

/-- A context whose next bundle has its registers free and waits on an external event becomes WAITING, chosen or not (R151). -/
def stallCtx (d : Dev) (site k n : Nat) : Dev :=
  let c := getCtx d (ctxKey site k n)
  let now := (getCore d (coreKey site k)).cycle
  if !mayIssue d site k n ∨ rfld d (pgCore site k + 0x80C) 0 15 ≤ c.pc.toNat ∨ now < c.notBefore then d
  else
    let b := decodeBundle (peekBundle d site k n)
    if now < readyAt c b ∨ (bundleBad d site k n b).isSome ∨ !gateOpen c b.h then d
    else stallOn d site k n (bundleVerdict d site k n b)

/-- Try one context: nothing, a stall, or an issue. -/
def tryCtx (d : Dev) (site k : Nat) (n : Fin 16) : Bool × Dev :=
  if !mayIssue d site k n.val then (false, d)
  else
    let c := getCtx d (ctxKey site k n.val)
    let now := (getCore d (coreKey site k)).cycle
    if now < c.notBefore then (false, d)
    else
      let r := fetchBundle d site k n.val
      match r.2 with
      | .inl e => (false, faultCtx r.1 site k n.val c.pc e)
      | .inr w =>
        let b := decodeBundle w
        if now < readyAt c b ∨ (b.mx.isSome ∧ mxWithheld r.1 site k) then (false, r.1)
        else issueBundle r.1 site k n b

/-- The first of a list of contexts that issues. -/
def tryAll : List (Fin 16) → Dev → Nat → Nat → Option (Fin 16) × Dev
  | [], d, _, _ => (none, d)
  | n :: l, d, site, k =>
    let r := tryCtx d site k n
    if r.1 then (some n, r.2) else tryAll l r.2 site k

/-- The order of choice: from the context after the one that issued last (R151). -/
def issueOrder (last : Nat) : List (Fin 16) := (List.range 16).map (fun i => Fin.ofNat 16 (last + 1 + i))

/-- One array cycle of a core: contexts whose event has come wake, at most one bundle issues, and the cycle is counted to
each context's cause (R151, R180). (DEDUCED, log entry 33) -/
def coreCycle (d : Dev) (site k : Nat) : Dev :=
  let d := (List.range 16).foldl (fun d n => stallCtx (wakeCtx d site k n) site k n) d
  let r := tryAll (issueOrder (getCore d (coreKey site k)).last) d site k
  match r.1 with
  | some n => account (noteIssue r.2 site k n.val) site k 1 (some n.val)
  | none => account r.2 site k 1 none

/-- A core issues in the array cycles of its cluster: not while the page is FENCED, HALTED or OFF. -/
def coreLive (d : Dev) (site k : Nat) : Bool :=
  dieUp d site && running d (pgCore site k) && !coreFenced d site k

/-! ## A slot issued by name -/

/-- The array cycle in which a bundle of one slot can issue: the next one in which its registers are free. -/
def slotCycle (c : Ctx) (b : Bundle) (now : Nat) : Nat := max now (readyAt c b)

/-- The operation of one slot, issued by its context as a bundle of its own under the header given (R151, R157): the core's
cycles pass until its registers are free, then it issues in that cycle. A context that may not issue does nothing.
(DEDUCED, log entry 33) -/
def slotIssue (d : Dev) (r : CtxRef) (b : Bundle) : Dev :=
  let site := r.site.val
  let k := r.core.val
  let d := wakeCtx d site k r.ctx.val
  if !coreLive d site k ∨ !mayIssue d site k r.ctx.val ∨ (b.mx.isSome ∧ mxWithheld d site k) then d
  else
    let now := (getCore d (coreKey site k)).cycle
    let t := slotCycle (getCtx d (ctxKey site k r.ctx.val)) b now
    let d := if now < t then account d site k (t - now) none else d
    let x := issueBundle d site k r.ctx b
    if x.1 then account (noteIssue x.2 site k r.ctx.val) site k 1 (some r.ctx.val) else account x.2 site k 1 none

def slotCtrl (d : Dev) (r : CtxRef) (h : Hdr) (o : CtrlOp) (f : CtrlF) : Dev := slotIssue d r { oneSlot h with ctrl := some (o, f) }
def slotLd (d : Dev) (r : CtxRef) (h : Hdr) (o : LdOp) (f : MemF) : Dev := slotIssue d r { oneSlot h with ld := some (o, f) }
def slotSt (d : Dev) (r : CtxRef) (h : Hdr) (o : StOp) (f : MemF) : Dev := slotIssue d r { oneSlot h with st := some (o, f) }
def slotVec (d : Dev) (r : CtxRef) (h : Hdr) (o : VecOp) (f : VecF) : Dev := slotIssue d r { oneSlot h with vec := some (o, f) }
def slotMx (d : Dev) (r : CtxRef) (h : Hdr) (m : MxSlot) : Dev := slotIssue d r { oneSlot h with mx := some m }

end Sys2Proof.Machine
end

