-- ==== Sys2Proof/Machine/Mx.lean ====
section
/-!
DEFINITION. The matrix arrays (chapter 7): the head of the array queue, weight bindings, the K-blocks of a run, the pairwise
stack, drains, faults at the array and the resets of R195 and R229. Arithmetic is that of Machine/Fp.lean.
-/
namespace Sys2Proof.Machine

/-! ## Shapes and layouts (R198, R205 to R207, R222) -/

def elemBits (t : Nat) : Nat := Fp.width t
/-- Bytes of one A block: elements, and one scale per row for block-scaled types. -/
def aBlockBytes (t m : Nat) : Nat := m * 32 * elemBits t / 8 + (if Fp.isMx t then m else 0)
/-- Kept rows of a B block: 32 dense, 16 at 2:4, 8 at 1:4. -/
def keptRows (sparse : Nat) : Nat := match sparse with | 1 => 16 | 2 => 8 | _ => 32
def metaBytes (sparse : Nat) : Nat := match sparse with | 1 => 128 | 2 => 64 | _ => 0
/-- Bytes of one B block for one array: values, metadata, scales. -/
def bBlockBytes (t sparse : Nat) : Nat := keptRows sparse * 32 * elemBits t / 8 + metaBytes sparse + (if Fp.isMx t then 32 else 0)

/-- Element i of a packed sequence (R205). -/
def elemAt (bs : List Byte) (t i : Nat) : Nat :=
  if t = 7 then fld (bs.getD (i / 2) 0).toNat (4 * (i % 2)) 4
  else let w := elemBits t / 8; ofBytes ((bs.drop (i * w)).take w)

/-- Element (m, k) of an A block; OS reads it at k × M + m (R205, R262). -/
def aElem (c : Core) (bs : List Byte) (rows m k : Nat) : Nat :=
  elemAt bs c.atype.toNat (if c.flow = 1 then k * rows + m else m * 32 + k)
/-- The scale of row m of an A block; 127 where the type has none. -/
def aScale (c : Core) (bs : List Byte) (rows m : Nat) : Nat :=
  if Fp.isMx c.atype.toNat then (bs.getD (rows * 32 * elemBits c.atype.toNat / 8 + m) 0).toNat else 127
/-- The products' K indices and B elements of column n of a B block: dense, at k × 32 + n in WS and OS and n × 32 + k in IS, or the kept
values at their positions (R205, R222, R223, R262). -/
def bColumn (c : Core) (sparse : Nat) (bs : List Byte) (n : Nat) : List (Nat × Nat) :=
  let t := c.btype.toNat
  let values := keptRows sparse * 32 * elemBits t / 8
  match sparse with
  | 1 => (List.range 16).map (fun r =>
      let g := r / 2
      let nib := fld (bs.getD (values + g / 2 * 32 + n) 0).toNat (4 * (g % 2)) 4
      (4 * g + fld nib (2 * (r % 2)) 2, elemAt bs t (r * 32 + n)))
  | 2 => (List.range 8).map (fun r =>
      (4 * r + fld (bs.getD (values + r / 4 * 32 + n) 0).toNat (2 * (r % 4)) 2, elemAt bs t (r * 32 + n)))
  | _ => (List.range 32).map (fun k => (k, elemAt bs t (if c.flow = 2 then n * 32 + k else k * 32 + n)))
/-- The scale of column n of a B block. -/
def bScale (c : Core) (sparse : Nat) (bs : List Byte) (n : Nat) : Nat :=
  let t := c.btype.toNat
  if Fp.isMx t then (bs.getD (keptRows sparse * 32 * elemBits t / 8 + metaBytes sparse + n) 0).toNat else 127

/-! ## Clearing -/

/-- Both sets emptied (R229, soft reset; R187, a fault). -/
def emptySets (c : Core) : Core := { c with live := accDefault, shadow := accDefault }
/-- The mode state, bindings and sparsity of job start (R195, R229). -/
def resetMode (c : Core) : Core := setMode c ⟨0, 0, 0, 0⟩
/-- The weight buffers and the pre-scan buffers of a core that a reset reaches hold nothing (R79, R194). -/
def emptyBuffers (c : Core) : Core := { c with front := [], back := [], prescan := [] }
/-- The arrays at job start: mode reset, sets empty, every array at rest (R80, R195). -/
def arraysAtStart (c : Core) : Core :=
  { emptySets (resetMode c) with queue := [], cur := none, drain := none, filler := [] }

/-! ## Filler between operations (R79 to R81, R225) -/

/-- Set what some arrays do between operations (R79, R80). -/
def setFiller (c : Core) (arrays : List Nat) (x : Filler) : Core :=
  { c with filler := arrays.foldl (fun m a => sput (fun _ => Filler.rest) m a x) c.filler }
def fillerOf (c : Core) (a : Nat) : Filler := sget (fun _ => Filler.rest) c.filler a
def fillerWindow (d : Dev) (site : Nat) : Nat := rfld d (pgPmc site + 0x800) 0 10

/-- Arrays with no operation queued any more: they run filler while WINDOW is nonzero and the PMC does not throttle the cluster, and are
at rest otherwise. A run in progress that holds no column in an array does not count as an operation of it (R79, R81, R225). -/
def idleFiller (d : Dev) (site : Nat) (c : Core) : Core :=
  let busy := match c.cur with
    | some r => usedArrays c r.f.n.toNat
    | none => if c.queue = [] ∧ c.drain.isNone then [] else [0, 1, 2, 3]
  let idle := ((List.range 4).filter (fun a => !busy.contains a)).filter (fun a => fillerOf c a == .active)
  setFiller c idle (if fillerWindow d site ≠ 0 ∧ 16 ≤ dutyOf d site then .filler else .rest)

/-! ## Faults at the array (R187, R227, R228) -/

/-- The counter increments of MX operations that complete: the drains with CTR_EN. -/
def drainCounters (c : Core) : List Nat :=
  (match c.drain with | some (f, _, _, _) => if f.ctrEn then [f.ctr.toNat] else [] | none => [])
  ++ c.queue.filterMap (fun o => match o with | .drain f _ _ _ => if f.ctrEn then some f.ctr.toNat else none | _ => none)

/-- A fault raised by an MX operation: the owner FAULTED, both sets discarded, every binding ended, every operation in the
queue or in progress completed with no work. -/
def mxFault (d : Dev) (site k : Nat) (pc : W64) (code addr : Nat) : Dev :=
  let n := mxOwner d site k
  let key := ctxKey site k n
  let co := getCore d (coreKey site k)
  let incs := drainCounters co
  let d := putCore d (coreKey site k)
    (idleFiller d site { emptySets co with binds := [], back := [], queue := [], cur := none, drain := none })
  let d := faultCtx d site k n pc (code, 5, addr)
  incs.foldl (fun d i => ctrInc d key i) d

/-! ## Stream operands (R175 to R177, R208, R211) -/

/-- Whether an MX operand register may be read: its KIND and direction. -/
def mxReadBad (s : Stream) : Bool := dscKind s.desc == 1 || dscRemote s.desc
/-- Whether the next n bytes of an operand stream are there; past the end there is nothing to wait for. -/
def mxServed (d : Dev) (site : Nat) (s : Stream) (n : Nat) : Bool :=
  mxReadBad s || decide (dscSize s.desc ≤ s.pos) || readServed d site s (takeN s n)

/-- Read the next n bytes of an operand stream: the bytes, or a fault code and address. -/
def mxRead (d : Dev) (site k r n : Nat) : Dev × ((Nat × Nat) ⊕ List Byte) :=
  let o := mxOwner d site k
  let s := dReg (getCtx d (ctxKey site k o)) r
  if mxReadBad s then (d, .inl (fBadStream, 0))
  else if dscSize s.desc ≤ s.pos then (d, .inl (fStreamEnd, 0))
  else
    let base := useBase d site s.desc s.base
    let runs := useRuns s.desc s.pos (takeN s n)
    match firstOut base runs with
    | some a => (d, .inl (fAddr, a))
    | none =>
      let x := ldStream d site k o r n
      let a := match runs with | q :: _ => (((base : Int) + q.1) % 2 ^ 32).toNat | [] => 0
      if x.2.1 then (x.2.2, .inl (fPoison, a)) else (x.2.2, .inr x.1)

/-- Read several operands in turn; the first fault ends it. -/
def mxReadAll (d : Dev) (site k : Nat) : List (Nat × Nat) → Dev × ((Nat × Nat) ⊕ List (List Byte))
  | [] => (d, .inr [])
  | (r, n) :: l =>
    let x := mxRead d site k r n
    match x.2 with
    | .inl e => (x.1, .inl e)
    | .inr bs =>
      let y := mxReadAll x.1 site k l
      match y.2 with
      | .inl e => (y.1, .inl e)
      | .inr bss => (y.1, .inr (bs :: bss))

/-- Move a stream past the bytes of a skipped run (R176, R183). -/
def mxSkip (d : Dev) (site k r n : Nat) : Dev := skipStream d site (ctxKey site k (mxOwner d site k)) r n

/-- The weight streams that bring the next block of a run's used arrays, with the bytes each brings: one block for every array of the
binding (R206). -/
def weightOperands (c : Core) (n sparse : Nat) : List (Nat × Nat) :=
  let bb := bBlockBytes c.btype.toNat sparse
  (boundRegs c (usedArrays c n)).map (fun reg => (reg, (boundArrays c reg).length * bb))
/-- The operands that one K-block reads as it enters: register and bytes, A first. Weights that the back buffers hold are not read again
(R205, R206, R210). -/
def blockOperands (c : Core) (r : RunState) : List (Nat × Nat) :=
  let used := usedArrays c r.f.n.toNat
  (r.f.da.toNat, aBlockBytes c.atype.toNat r.f.m.toNat)
  :: (if c.flow = 0 then (if c.back.isEmpty then weightOperands c r.f.n.toNat r.sparse.toNat else [])
      else [(r.f.db.toNat, used.length * bBlockBytes c.btype.toNat r.sparse.toNat)])

def noBytes (_ : Nat) : List Byte := []
/-- The blocks of a run's used arrays in what its weight streams brought, by array. -/
def weightBlocks (c : Core) (n sparse : Nat) (bss : List (List Byte)) : Sparse (List Byte) :=
  let used := usedArrays c n
  let bb := bBlockBytes c.btype.toNat sparse
  used.foldl (fun m a =>
    match bindOf c a with
    | some reg => sput noBytes m a (((bss.getD ((boundRegs c used).idxOf reg) []).drop ((boundArrays c reg).idxOf a * bb)).take bb)
    | none => m) []
/-- The weight buffers as a block enters: the back buffers, filled from what was read where they were empty, and front and back have swapped
for the used arrays (R201, R210). -/
def swapBuffers (c : Core) (r : RunState) (bss : List (List Byte)) : Core :=
  let blocks := if c.back.isEmpty then weightBlocks c r.f.n.toNat r.sparse.toNat bss else c.back
  { c with front := (usedArrays c r.f.n.toNat).foldl (fun m a => sput noBytes m a (sget noBytes blocks a)) c.front, back := [] }

/-- The B block of each used array: the front buffers of WS, else the bytes read from DB (R201 to R203). -/
def bBlocks (c : Core) (r : RunState) (bss : List (List Byte)) : List (List Byte) :=
  let used := usedArrays c r.f.n.toNat
  let bb := bBlockBytes c.btype.toNat r.sparse.toNat
  if c.flow = 0 then used.map (sget noBytes (swapBuffers c r bss).front)
  else (List.range used.length).map (fun j => ((bss.getD 0 []).drop (j * bb)).take bb)

/-- The place of a value's leading bit. -/
def leadPlace : Fp.FVal → Option Int
  | .num _ m e => if m = 0 then none else some ((m.log2 : Int) + e)
  | _ => none
/-- What the pre-scan buffer of an array takes in of a block in OS and IS: for each of the 32 K steps the exponents of the M elements of A
and of the array's 32 elements of B (R194, R202, R203). -/
def scanBlock (c : Core) (r : RunState) (abs bs : List Byte) : List (List (Option Int)) :=
  (List.range 32).map (fun k =>
    (List.range r.f.m.toNat).map (fun m => leadPlace (Fp.decode c.atype.toNat (aElem c abs r.f.m.toNat m k)))
    ++ (List.range 32).map (fun n => leadPlace (Fp.decode c.btype.toNat (((bColumn c 0 bs n).getD k (0, 0)).2))))
/-- The buffers of a core after a block: the weights of WS, the exponents of OS and IS. -/
def blockBuffers (c : Core) (r : RunState) (abs : List Byte) (bss : List (List Byte)) : Core :=
  if c.flow = 0 then swapBuffers c r bss
  else
    let used := usedArrays c r.f.n.toNat
    let bbs := bBlocks c r bss
    { c with prescan := (List.range used.length).foldl (fun m j =>
        sput (fun _ => []) m (used.getD j 0) (scanBlock c r abs (bbs.getD j []))) c.prescan }

/-! ## The pairwise stack (R218 to R220) -/

def levelKey (row col l : Nat) : Nat := (row * 128 + col) * 12 + l
/-- push for one output: the levels after it, and whether an addition met opposite infinities or overflowed. -/
def pushLevels (stack n key : Nat) : Nat → Nat → Sparse W64 → Nat → Bool → Bool → Sparse W64 × Bool × Bool
  | 0, l, lv, carry, i, o =>
    if n < 2048 then (sput zero64 lv (key + l) (BitVec.ofNat 64 carry), i, o)
    else
      let a := Fp.addIn stack (sget zero64 lv (key + l)).toNat carry
      (sput zero64 lv (key + l) (BitVec.ofNat 64 a.1), i || a.2.1, o || a.2.2)
  | fuel + 1, l, lv, carry, i, o =>
    if tbit (n % 2048) l then
      let a := Fp.addIn stack (sget zero64 lv (key + l)).toNat carry
      pushLevels stack n key fuel (l + 1) (sput zero64 lv (key + l) 0) a.1 (i || a.2.1) (o || a.2.2)
    else (sput zero64 lv (key + l) (BitVec.ofNat 64 carry), i, o)
def pushOne (stack n row col : Nat) (lv : Sparse W64) (x : Nat) : Sparse W64 × Bool × Bool :=
  pushLevels stack n (levelKey row col 0) 11 0 lv x false false

/-- Whether level l of a set holds a value. -/
def levelHeld (n l : Nat) : Bool := if l < 11 then tbit (n % 2048) l else decide (2048 ≤ n)
/-- combine for one output: the drained value and its flags. -/
def combineOne (stack n row col : Nat) (lv : Sparse W64) : Nat × Bool × Bool :=
  let r := (List.range 12).foldl (fun (acc : Option Nat × Bool × Bool) l =>
    if levelHeld n l then
      let v := (sget zero64 lv (levelKey row col l)).toNat
      match acc.1 with
      | none => (some v, acc.2)
      | some x => let a := Fp.addIn stack v x; (some a.1, acc.2.1 || a.2.1, acc.2.2 || a.2.2)
    else acc) (none, false, false)
  (r.1.getD 0, r.2)

/-! ## One K-block (R199 to R204, R223, R224, R236 to R242) -/

/-- The block result of output (m, n) from the operand bytes. -/
def outputBlock (c : Core) (r : RunState) (kbase : Nat) (abs : List Byte) (bbs : List (List Byte)) (m n : Nat) : Fp.BlockRes :=
  let ta := c.atype.toNat
  let tb := c.btype.toNat
  let bs := bbs.getD (n / 32) []
  let sa := aScale c abs r.f.m.toNat m
  let sb := bScale c r.sparse.toNat bs (n % 32)
  let pairs := (bColumn c r.sparse.toNat bs (n % 32)).map (fun kb =>
    if r.k ≤ kbase + kb.1 then ((.num false 0 0 : Fp.FVal), false)
    else
      let a := Fp.decode ta (aElem c abs r.f.m.toNat m kb.1)
      let b := Fp.decode tb kb.2
      Fp.product ta (if sa = 255 then .nan else a) (if sb = 255 then .nan else b))
  Fp.blockResult (stackType ta tb) (Fp.windowOf ta) (pairs.map (·.1)) (pairs.any (·.2)) ((sa : Int) - 127 + (sb - 127))

/-- Whether ZSKIP skips a block (R224). -/
def zeroSkip (c : Core) (r : RunState) (abs : List Byte) (bbs : List (List Byte)) : Bool :=
  let ta := c.atype.toNat
  let tb := c.btype.toNat
  r.zskip
  && (List.range r.f.m.toNat).all (fun m =>
    aScale c abs r.f.m.toNat m != 255 && (List.range 32).all (fun k => Fp.isZeroV (Fp.decode ta (aElem c abs r.f.m.toNat m k))))
  && bbs.all (fun bs => (List.range 32).all (fun n =>
    bScale c r.sparse.toNat bs n != 255 && (bColumn c r.sparse.toNat bs n).all (fun kb => Fp.isFin (Fp.decode tb kb.2))))

/-- Every output of a tile takes its block result: the set after it, the first output with an INV event, whether a value
overflowed. -/
def pushBlock (s : AccSet) (stack : Nat) (res : Nat → Nat → Fp.BlockRes) : AccSet × Option (Nat × Nat) × Bool :=
  let outs := (List.range s.m).flatMap (fun m => (List.range s.n).map (fun n => (m, n)))
  let r := outs.foldl (fun (acc : Sparse W64 × Option (Nat × Nat) × Bool) p =>
    let b := res p.1 p.2
    let x := pushOne stack s.blocks p.1 p.2 acc.1 b.bits
    (x.1, (if acc.2.1.isNone ∧ (b.inv ∨ x.2.1) then some p else acc.2.1), acc.2.2 || b.ovf || x.2.2)) (s.levels, none, false)
  ({ s with levels := r.1, blocks := s.blocks + 1 }, r.2.1, r.2.2)

/-- The element trap is armed: a commit with EL_TRAP set (R232). -/
def trapArm (d : Dev) (site k : Nat) : Dev :=
  setRegN (putCore d (coreKey site k) { getCore d (coreKey site k) with trapSet := false }) (pgCore site k + 0xA80) 0
/-- The element trap: the first event since the commit that armed it (R232, R259). -/
def trapAt (d : Dev) (site k : Nat) (pos : Option (Nat × Nat)) (kblk : Nat) : Dev :=
  let co := getCore d (coreKey site k)
  match pos with
  | some (m, n) =>
    if tbit (regN d (pgCore site k + 0x818)) 1 ∧ !co.trapSet then
      setRegN (putCore d (coreKey site k) { co with trapSet := true }) (pgCore site k + 0xA80) (m + 32 * n + 4096 * (kblk % 2 ^ 20))
    else d
  | none => d

/-- The flags of a block or a combine reach the owner context (R215, R255 to R257). -/
def arrayFlags (d : Dev) (site k op : Nat) (tile : W32) (kblk : Nat) (inv ovf : Bool) : Dev :=
  let key := ctxKey site k (mxOwner d site k)
  let c := ovfArray (getCtx d key) ovf
  putCtx d key (if inv then invEvent c op tile kblk else c)

/-- Block periods of R196 in array cycles. -/
def blockPeriod (c : Core) (sparse : Nat) : Nat :=
  let base := match c.atype.toNat with | 1 => 512 | 2 => 64 | 3 => 32 | 4 => 32 | 7 => 8 | _ => 16
  match c.flow.toNat with
  | 0 => base / (match sparse with | 1 => 2 | 2 => 4 | _ => 1)
  | 1 => base
  | _ => if c.atype = 1 then 512 else 2 * base

/-! ## Runs and weight blocks read ahead (R195, R198 to R200, R209, R210, R226, R227) -/

/-- Whether an MX.WLOAD is a MODE_MISMATCH when it reaches the arrays. -/
def wloadMismatch (c : Core) (f : MxWloadF) (sparse : BitVec 2) : Bool :=
  c.flow != 0 || (f.arrays &&& ~~~ c.arrays) != 0 || (sparse != 0 && c.atype == 1)
/-- Whether an MX.RUN is a MODE_MISMATCH when it reaches the arrays (R227). Sparse operands run in WS alone, so dW, in OS, is dense
(R262). -/
def runMismatch (c : Core) (f : MxRunF) (sparse : BitVec 2) : Bool :=
  let used := usedArrays c f.n.toNat
  let s := c.live
  used.any (fun a => sget zeroNat c.sparsity a != sparse.toNat)
  || (sparse != 0 && (c.flow != 0 || c.atype == 1))
  || decide (32 * (arraysOf c.arrays.toNat).length < f.n.toNat)
  || (c.flow == 0 && used.any (fun a => (bindOf c a).isNone))
  || (f.acc && (!s.begun || s.m != f.m.toNat || s.n != f.n.toNat || s.flow != c.flow || s.atype != c.atype
        || s.btype != c.btype || s.sparse != sparse))

/-- The live set as a run finds it: emptied with the tile's shape for ACC 0 (R198). -/
def runLive (c : Core) (f : MxRunF) (sparse : BitVec 2) (tile : W32) : AccSet :=
  if f.acc then c.live
  else ⟨true, f.m.toNat, f.n.toNat, c.flow, c.atype, c.btype, sparse, c.arrays, 0, tile, []⟩

/-- The allowed drain types of R216. -/
def drainType (stack otype : Nat) : Bool :=
  if stack = 1 then otype == 1 || otype == 2 || otype == 3 || otype == 4
  else if stack = 2 then
    otype == 1 || otype == 2 || otype == 3 || otype == 4 || otype == 5 || otype == 6 || otype == 7 || otype == 0xA || otype == 0xB
  else otype == 2 || otype == 8 || otype == 9
def drainMismatch (c : Core) (f : MxDrainF) : Bool :=
  c.live.begun && !drainType (stackType c.live.atype.toNat c.live.btype.toNat) f.otype.toNat
/-- A run that reads weight blocks: its fields, sparsity, and the bundle that issued it. -/
abbrev WeightRun := MxRunF × BitVec 2 × W64
/-- The first run of a queue that reads weight blocks, with the mode state and bindings it will find. There is none behind a mode change
or behind an operation that the arrays will turn away. -/
def nextWeights : List MxOp → Core → Option (Core × WeightRun)
  | [], _ => none
  | .mode _ _ _ :: _, _ => none
  | .wload f sp _ _ :: l, c => if wloadMismatch c f sp then none else nextWeights l (bindArrays c f sp)
  | .run f k sp _ sk tile _ pc :: l, c =>
    if takesWeights c f k sk then (if runMismatch c f sp then none else some (c, f, sp, pc))
    else if f.m = 0 ∨ f.n = 0 ∨ (k = 0 ∧ f.acc) then nextWeights l c
    else if runMismatch c f sp then none else nextWeights l { c with live := runLive c f sp tile }
  | .drain f _ _ _ :: l, c => if drainMismatch c f then none else nextWeights l { c with live := accDefault }
/-- The run whose weight block comes next: the run in progress, else the first one queued (R210). -/
def aheadRun (c : Core) : Option (Core × WeightRun) :=
  match c.cur with
  | some r => if curWeights c then some (c, r.f, r.sparse, r.issuedAt) else nextWeights c.queue c
  | none => nextWeights c.queue c
/-- The block period of one block reads the next weight block into the back buffers, for a run that is already in the queue, if its bytes
are there (R210). A read that faults does so then. (DEDUCED, log entry 59) -/
def readAhead (d : Dev) (site k : Nat) : Dev :=
  let ck := coreKey site k
  let co := getCore d ck
  match aheadRun co with
  | none => d
  | some (c, f, sp, pc) =>
    let ops := weightOperands c f.n.toNat sp.toNat
    let own := getCtx d (ctxKey site k (mxOwner d site k))
    if !co.back.isEmpty || !ops.all (fun o => mxServed d site (dReg own o.1) o.2) then d
    else
      let x := mxReadAll d site k ops
      match x.2 with
      | .inl e => mxFault x.1 site k pc e.1 e.2
      | .inr bss => putCore x.1 ck { getCore x.1 ck with back := weightBlocks c f.n.toNat sp.toNat bss }

/-- The run in progress and the live set once a block's results have entered. -/
def blockEntered (c : Core) (r : RunState) (set : AccSet) : Core :=
  { c with live := { set with lastTile := r.tile }, cur := some { r with done := r.done + 1 } }

/-- One K-block of the run in progress enters the stack: its operands are read, or skipped over for a run that its tile map
skips (R183, R199, R220, R224), and the next weight block is read ahead. Nothing happens while an operand is not there (R208). -/
def blockPush (d : Dev) (site k : Nat) : Dev :=
  let ck := coreKey site k
  let co := getCore d ck
  match co.cur with
  | none => d
  | some r =>
    if ceilDiv r.k 32 ≤ r.done then d
    else
      let own := getCtx d (ctxKey site k (mxOwner d site k))
      let ops := blockOperands co r
      let stack := stackType co.atype.toNat co.btype.toNat
      let kblk := co.live.blocks
      let zero : Nat → Nat → Fp.BlockRes := fun _ _ => ⟨0, false, false⟩
      if r.skipped then
        let ops := if co.flow = 0 then ops.take 1 else ops
        let d := ops.foldl (fun d o => mxSkip d site k o.1 o.2) d
        putCore d ck (blockEntered (getCore d ck) r (pushBlock co.live stack zero).1)
      else if !ops.all (fun o => mxServed d site (dReg own o.1) o.2) then d
      else
        let x := mxReadAll d site k ops
        match x.2 with
        | .inl e => mxFault x.1 site k r.issuedAt e.1 e.2
        | .inr bss =>
          let abs := bss.headD []
          let bbs := bBlocks co r bss.tail
          let skip := zeroSkip co r abs bbs
          let p := pushBlock co.live stack (if skip then zero else outputBlock co r (32 * r.done) abs bbs)
          let trap := tbit (regN d (pgCore site k + 0x818)) 1
          let cycles := if skip then 2 else blockPeriod co r.sparse.toNat * (if trap then 32 else 1)
          let d := if skip then countEvt x.1 (pgCore site k) 0x1006 0 1 else x.1
          let d := countEvt d (pgCore site k) 0x1002 0 (cycles * (usedArrays co r.f.n.toNat).length)
          let d := putCore d ck (blockEntered (blockBuffers (getCore d ck) r abs bss.tail) r p.1)
          readAhead (if skip then d else arrayFlags (trapAt d site k p.2.1 kblk) site k r.num r.tile kblk p.2.1.isSome p.2.2) site k

/-! ## The head of the array queue (R80, R195, R198 to R200, R209, R226, R227) -/

/-- The operation at the head of the array queue takes the arrays, if they are free of a run: a mode or a binding acts, a run
begins or completes at once, a drain is checked and waits for its swap. Arrays that then have no operation queued go quiet (R79). -/
def queueHead (d : Dev) (site k : Nat) : Dev :=
  let ck := coreKey site k
  let co := getCore d ck
  if co.cur.isSome then d
  else match co.queue with
    | [] => d
    | o :: rest =>
      let pop (c : Core) : Dev := putCore d ck (idleFiller d site { c with queue := rest })
      match o with
      | .mode f _ _ =>
        pop (setMode co f)
      | .wload f sp _ pc =>
        if wloadMismatch co f sp then mxFault d site k pc fMode 0
        else pop (bindArrays co f sp)
      | .run f kk sp zs sk tile num pc =>
        if f.m = 0 ∨ f.n = 0 ∨ (kk = 0 ∧ f.acc) then pop co
        else if runMismatch co f sp then mxFault d site k pc fMode 0
        else
          let used := if sk then [] else usedArrays co f.n.toNat
          let resting := used.filter (fun a => fillerOf co a == .rest)
          if fillerWindow d site ≠ 0 ∧ resting ≠ [] then putCore d ck (setFiller co resting .rampUp)
          else if used.any (fun a => fillerOf co a == .rampUp) then d
          else
            let d := if sk then countEvt d (pgCore site k) 0x1007 0 1 else d
            let run : RunState := ⟨f, kk, sp, zs, sk, tile, num, 0, pc⟩
            let c := setFiller { co with live := runLive co f sp tile, queue := rest } used .active
            putCore d ck (idleFiller d site (if kk = 0 then c else { c with cur := some run }))
      | .drain f _ _ pc => if drainMismatch co f then mxFault d site k pc fMode 0 else d

/-- The run in progress has entered its last block: the arrays are free, and those that held its columns run filler while
WINDOW is nonzero (R79, R212). -/
def runComplete (d : Dev) (site k : Nat) : Dev :=
  let ck := coreKey site k
  let co := getCore d ck
  match co.cur with
  | none => d
  | some r =>
    if r.done < ceilDiv r.k 32 then d
    else
      abandonLate (putCore d ck (idleFiller d site { co with cur := none })) site k

/-! ## Drains (R214 to R217, R219) -/

/-- The swap of the drain at the head: earlier runs have ended and the previous drain has read its shadow set. -/
def drainSwap (d : Dev) (site k : Nat) : Dev :=
  let ck := coreKey site k
  let co := getCore d ck
  if co.cur.isSome ∨ co.drain.isSome then d
  else match co.queue with
    | .drain f seed num pc :: rest =>
      if drainMismatch co f then mxFault d site k pc fMode 0
      else putCore d ck { co with live := accDefault, shadow := co.live, drain := some (f, seed, num, pc), queue := rest }
    | _ => d

/-- The row bytes of a drained row: elements, then scales (R215). -/
def rowBytes (otype : Nat) (els scales : List Nat) : List Byte :=
  let w := Fp.width otype
  toBytes (ceilDiv (els.length * w) 8) (els.reverse.foldl (fun acc e => acc * 2 ^ w + e % 2 ^ w) 0)
  ++ scales.map (fun s => BitVec.ofNat 8 s)

/-- Convert the drained values of a row: bytes, overflow count, generator. -/
def drainRow (stack otype mode : Nat) (rnd : Bool) (vals : List Nat) (g : Nat) : List Byte × Nat × Nat :=
  let vs := vals.map (Fp.decode stack)
  let all : Nat → Bool := fun _ => true
  if stack = otype then
    (rowBytes otype (vals.map (fun x => if otype ≠ 9 ∧ Fp.isNan (Fp.decode otype x) then Fp.canonNan otype else x)) [], 0,
      if rnd then vals.foldl (fun s _ => (Fp.draw16 s).1) g else g)
  else if Fp.isMx otype then
    let r := (List.range (ceilDiv vs.length 32)).foldl (fun (acc : List Nat × List Nat × Nat × Nat) b =>
      let x := Fp.mxBlock otype mode rnd all ((vs.drop (32 * b)).take 32) acc.2.2.2
      (acc.1 ++ x.2.out, acc.2.1 ++ [x.1], acc.2.2.1 + x.2.ovf, x.2.lfsr)) ([], [], 0, g)
    (rowBytes otype r.1 r.2.1, r.2.2.1, r.2.2.2)
  else
    let r := Fp.convList otype mode rnd all 0 vs ⟨[], 0, g⟩
    (rowBytes otype r.out [], r.ovf, r.lfsr)

/-- Write one row through the output stream of the owner, or the fault that stops the drain. A row that meets the live code range is not
written at all (R153; DESIGN CHOICE, log entry 57). -/
def drainWrite (d : Dev) (site k r : Nat) (bs : List Byte) : Dev × Option (Nat × Nat) :=
  let n := mxOwner d site k
  let key := ctxKey site k n
  let s := dReg (getCtx d key) r
  let kind := dscKind s.desc
  let m := takeN s bs.length
  let move (d : Dev) (f : Stream → Stream) : Dev :=
    let c := getCtx d key
    putCtx d key (setD c r (f { dReg c r with pos := s.pos + m }))
  if (kind ≠ 0 ∧ kind ≠ 1) ∨ dscRemote s.desc then (d, some (fBadStream, 0))
  else if dscSize s.desc ≤ s.pos then (d, some (fStreamEnd, 0))
  else if kind = 1 then (move d (fun x => { x with outBytes := x.outBytes ++ bs.take m }), none)
  else
    let runs := dscRuns s.desc s.pos m
    let base : Int := dscPpa s.desc
    match runs.find? (fun q => writeBlocked d site k (base + q.1) q.2) with
    | some q => (d, some (fAddr, ((base + q.1) % 2 ^ 32).toNat))
    | none => (move (writeRuns d site k (dscPpa s.desc) runs (bs.take m) true) id, none)

/-- The rows of a drain one after another; a fault stops it. -/
def drainRows (site k r : Nat) : List (List Byte) → Dev → Dev × Option (Nat × Nat)
  | [], d => (d, none)
  | row :: rest, d =>
    let x := drainWrite d site k r row
    match x.2 with
    | some e => (x.1, some e)
    | none => drainRows site k r rest x.1

/-- The combined values of every output of a set, row by row (R219). -/
def drainOuts (s : AccSet) : List (List (Nat × Bool × Bool)) :=
  (List.range s.m).map (fun m =>
    (List.range s.n).map (fun n => combineOne (stackType s.atype.toNat s.btype.toNat) s.blocks m n s.levels))
/-- The rows a drain writes, its overflow count and the generator after it (R215, R217). -/
def drainConv (s : AccSet) (f : MxDrainF) (seed : W32) : List (List Byte) × Nat × Nat :=
  (drainOuts s).foldl (fun (acc : List (List Byte) × Nat × Nat) row =>
    let x := drainRow (stackType s.atype.toNat s.btype.toNat) f.otype.toNat f.ovf.toNat f.rnd (row.map (·.1)) acc.2.2
    (acc.1 ++ [x.1], acc.2.1 + x.2.1, x.2.2)) ([], 0, seed.toNat)
/-- The flags that combining and converting a set gives its owner (R215, R232, R255 to R257). -/
def drainFlags (d : Dev) (site k : Nat) (s : AccSet) (f : MxDrainF) (seed : W32) (num : Nat) : Dev :=
  let outs := drainOuts s
  let inv := (List.range s.m).findSome? (fun m =>
    ((List.range s.n).find? (fun n => ((outs.getD m []).getD n (0, false, false)).2.1)).map (fun n => (m, n)))
  let ovf := outs.any (fun row => row.any (fun x => x.2.2))
  let key := ctxKey site k (mxOwner d site k)
  let d := arrayFlags (trapAt d site k inv 0xFFFFF) site k num s.lastTile 0xFFFFFFFF inv.isSome ovf
  putCtx d key (ovfElems (getCtx d key) (drainConv s f seed).2.1)
/-- The drain has written its rows: the shadow set is empty and the counter increments. -/
def drainEnded (d : Dev) (site k : Nat) (f : MxDrainF) : Dev :=
  let ck := coreKey site k
  let co := getCore d ck
  let d := putCore d ck (idleFiller d site { co with shadow := accDefault, drain := none })
  let d := if f.ctrEn then ctrInc d (ctxKey site k (mxOwner d site k)) f.ctr.toNat else d
  abandonLate d site k

/-- The drain in progress combines, converts and writes its shadow set, then empties it and increments its counter (R171,
R215, R217). -/
def drainComplete (d : Dev) (site k : Nat) : Dev :=
  let co := getCore d (coreKey site k)
  match co.drain with
  | none => d
  | some (f, seed, num, pc) =>
    let s := co.shadow
    let str := dReg (getCtx d (ctxKey site k (mxOwner d site k))) f.dst.toNat
    if !s.begun then drainEnded d site k f
    else if dscKind str.desc = 1 ∧ str.active ∧ !str.begun then d
    else if runsBlocked d (dscPpa str.desc) (dscRuns str.desc str.pos (dscSize str.desc - str.pos)) then d
    else
      let x := drainRows site k f.dst.toNat (drainConv s f seed).1 (drainFlags d site k s f seed num)
      match x.2 with
      | some e => mxFault x.1 site k pc e.1 e.2
      | none => drainEnded x.1 site k f

/-! ## The course of filler (R80, R81) -/

/-- The window of an array's filler ends: it ramps down (R80). -/
def fillerExpire (d : Dev) (site k a : Nat) : Dev :=
  let ck := coreKey site k
  let co := getCore d ck
  if fillerOf co a = .filler then
    putCore (countEvt d (pgCore site k) 0x1003 a (fillerWindow d site)) ck (setFiller co [a] .rampDown)
  else d
/-- The ramp-down of 512 array cycles ends: the array is at rest. -/
def fillerRest (d : Dev) (site k a : Nat) : Dev :=
  let ck := coreKey site k
  let co := getCore d ck
  if fillerOf co a = .rampDown then putCore (countEvt d (pgCore site k) 0x1004 a 512) ck (setFiller co [a] .rest) else d
/-- The ramp-up of 128 array cycles ends: the operation at the head may start; an array with none queued any more goes quiet. -/
def fillerReady (d : Dev) (site k a : Nat) : Dev :=
  let ck := coreKey site k
  let co := getCore d ck
  if fillerOf co a = .rampUp then putCore (countEvt d (pgCore site k) 0x1004 a 128) ck (idleFiller d site (setFiller co [a] .active)) else d
/-- WINDOW is 0: the filler of every array of a die starts its ramp-down (R79, R80). -/
def fillerStop (d : Dev) (site : Nat) : Dev :=
  (List.range 128).foldl (fun d k =>
    let co := getCore d (coreKey site k)
    let on := (List.range 4).filter (fun a => fillerOf co a == .filler)
    if on = [] then d else putCore d (coreKey site k) (setFiller co on .rampDown)) d
/-- Filler of a throttled cluster starts its ramp-down at once (R81). -/
def fillerSuppress (d : Dev) (site c : Nat) : Dev :=
  (List.range 8).foldl (fun d i =>
    let k := 8 * c + i
    let ck := coreKey site k
    let co := getCore d ck
    let on := (List.range 4).filter (fun a => fillerOf co a == .filler)
    if on = [] then d
    else putCore (countEvt d (pgCore site k) 0x1005 0 on.length) ck (setFiller co on .rampDown)) d

/-! ## Debug reads of the sets (R230, R231) -/

/-- ACC_DATA for a value of ACC_SEL. -/
def accData (c : Core) (sel : Nat) : Nat :=
  let s := if tbit sel 0 then c.shadow else c.live
  let half := fld sel 1 1
  let lvl := fld sel 14 4
  let row := fld sel 4 5
  let arr := fld sel 2 2
  let used := arraysOf s.arrays.toNat
  let col := 32 * (used.idxOf arr) + fld sel 9 5
  let count := s.blocks % 2048 + (if 2048 ≤ s.blocks then 2048 else 0) + (if s.begun then 2 ^ 31 else 0)
  let shape := s.m + 64 * s.n + 2 ^ 14 * s.flow.toNat + 2 ^ 16 * s.atype.toNat + 2 ^ 20 * s.btype.toNat + 2 ^ 24 * s.sparse.toNat
  if lvl = 12 then (if half = 0 then count else 0)
  else if lvl = 13 then (if half = 0 then shape else 0)
  else if 13 < lvl ∨ ¬ used.contains arr ∨ s.m ≤ row ∨ s.n ≤ col ∨ !levelHeld s.blocks lvl then 0
  else fld (sget zero64 s.levels (levelKey row col lvl)).toNat (32 * half) 32

end Sys2Proof.Machine
end

