-- ==== Sys2Proof/Machine/Boot.lean ====
section
/-!
DEFINITION. Start-up and power (chapters 1, 3 and 5): the boot chain (R75, R127 to R133), die release and levels (R18, R33, R34),
stack training and READY (R75 to R77), clocks (R73), budgets and throttling (R83 to R85), droop and supplies (R86), temperature
(R87) and the power-down request (R92).
-/
namespace Sys2Proof.Machine

/-! ## Slots and steps (R75, R127) -/

/-- The slot a firmware type boots from: false A, true B; none when both fail. -/
def slotPick (d : Dev) (typ : Nat) (a b : SignedImage) : Option (Bool × SignedImage) :=
  if imageOk d typ a then some (false, a) else if imageOk d typ b then some (true, b) else none

def secStat : Nat := pgSeal + 0x820
def setSec (d : Dev) (bit : Nat) (b : Bool) : Dev := setRegN d secStat (setBit (regN d secStat) bit b)

/-- Raise a class X. -/
def raiseX (d : Dev) (a code : Nat) : Dev := raiseErr d a 4 code 0 0

/-- BOOT_STAT shows the highest step that is complete (R91). (DEDUCED, log entry 32) -/
def showStep (d : Dev) (n : Nat) : Dev := setRfld d (pgBase + 0x84C) 4 4 (max n (rfld d (pgBase + 0x84C) 4 4))
/-- A step of the start-up is complete. -/
def setStep (d : Dev) (n : Nat) : Dev := showStep { d with board := { d.board with bootStep := n } } n

/-! ## PWR_OK (R26, R31, R75, R127) -/

/-- An access to the rollback counters: authenticated with the flash key; a reply that fails is a class X (R133). -/
def counterAccess (d : Dev) (f : Dev → Dev) : Dev := if d.sealU.flashKey = some d.flash.counterKey then f d else raiseX d pgSeal 0x104
/-- Raise a counter to a value; it never decreases (R133). -/
def raiseCounter (m : Sparse W32) (k : Nat) (v : W32) : Sparse W32 := if (sget zero32 m k).toNat < v.toNat then sput zero32 m k v else m

/-- Step 1 of R127: the UDS, the flash key, and the boot count. (DEDUCED, log entry 32) -/
def bootUds (d : Dev) (pufOk : Bool) : Dev :=
  if !pufOk then raiseX d pgSeal 0x101
  else
    let d := setSec d 3 true
    counterAccess { d with sealU := { d.sealU with udsHeld := true, flashKey := some (flashKeyOf d) } } (fun d =>
      { d with flash := { d.flash with counters := raiseCounter d.flash.counters 6 (BitVec.ofNat 32 (min m32 ((rollback d 6).toNat + 1))) } })

/-- The base ROM picks the manager firmware (step 2); in service mode a failure of both slots leads into recovery (R128).
(DEDUCED, log entry 32) -/
def bootManager (d : Dev) : Dev :=
  match slotPick d 1 d.flash.mgrA d.flash.mgrB with
  | some (b, x) => setStep (extend { d with sealU := { d.sealU with mgrB := b, slotB := d.sealU.slotB || b } } 0 (imgDigest x)) 2
  | none => if d.board.service then { d with board := { d.board with recovery := true } } else raiseX d pgSeal 0x102

/-- The four powers of a laser input among the readings of all sixteen. -/
def laserPowers (lasers : BitVec 512) (i : Nat) : W32 := BitVec.ofNat 32 (fld lasers.toNat (32 * i) 32)
/-- The 16 laser inputs are measured: an input below the threshold at a wavelength feeds no port (R24, R75). -/
def laserMeasure (d : Dev) (lasers : BitVec 512) : Dev :=
  let a := pgOpt 12
  let lim := rfld d (a + 0x800) 0 8
  (List.range 16).foldl (fun d i =>
    let w := laserPowers lasers i
    let ok := (List.range 4).all (fun k => decide (lim ≤ fld w.toNat (8 * k) 8))
    let d := setReg d (a + 0x860 + 4 * i) w
    { d with board := { d.board with laserOk := setBv d.board.laserOk i ok } }) d

/-- Step 3: build record, envelope, die firmware, security state word, laser inputs. (DEDUCED, log entry 32) -/
def bootRecords (d : Dev) (lasers : BitVec 512) : Dev :=
  if !imageOk d 4 d.flash.buildRecord then raiseX d pgMgr 0x101
  else
    let d := extend d 1 (imgDigest d.flash.buildRecord)
    if !imageOk d 5 d.flash.envelope then raiseX d pgSeal 0x102
    else
      let d := extend { d with board := { d.board with envelopeIn := true } } 4 (imgDigest d.flash.envelope)
      let d := setRegN d (pgBase + 0xF00) (pkgMaxW d)
      match slotPick d 2 d.flash.dieA d.flash.dieB with
      | none => raiseX d pgSeal 0x102
      | some (b, x) =>
        let d := extend { d with sealU := { d.sealU with dieDigest := imgDigest x, dieB := b, slotB := d.sealU.slotB || b } } 2 (imgDigest x)
        setStep (laserMeasure (extend d 5 (BitVec.ofNat 256 (d.board.service.toNat + 2 * d.sealU.slotB.toNat))) lasers) 3

/-- The Alias certificate: the Alias key and the eight MEAS values, signed with the DeviceID key (R132). -/
def aliasIssue (d : Dev) : Dev :=
  let r := drawScalar d
  let ms := (List.range 8).map (meas d)
  let key := pointBytes (aliasPublic d)
  let tbs := Config.aliasTbs key ms
  let sig := sm2Sign (devidPrivate d) r.1 tbs
  { r.2 with sealU := { r.2.sealU with
      aliasCert := some { der := Config.certDer tbs sig, tbs := tbs, key := key, purposes := [], serial := d.flash.build.serial, tcbInfo := ms, sig := sig } } }
/-- The CDI, the Alias key and its certificate, and the end of the UDS (step 5 of R127, R131). -/
def aliasDerive (d : Dev) : Dev :=
  let cdi := hmacSm3 (digestBytes d.uds) ((List.range 6).flatMap (fun m => digestBytes (meas d m)))
  let seed := hmacSm3 (digestBytes cdi) (ascii [67, 84, 71, 45, 65, 76, 73, 65, 83])
  let d := aliasIssue { d with sealU := { d.sealU with aliasSeed := seed, aliasHeld := true } }
  setSec { d with sealU := { d.sealU with udsHeld := false } } 5 true

/-- Step 4 on the manager: the runtime stub. -/
def bootStub (d : Dev) : Dev :=
  match slotPick d 3 d.flash.stubA d.flash.stubB with
  | none => raiseX d pgSeal 0x102
  | some (b, x) =>
    let d := { d with sealU := { d.sealU with stubDigest := imgDigest x, stubB := b, slotB := d.sealU.slotB || b } }
    setSec (extend d 3 (imgDigest x)) 4 d.sealU.slotB

/-- Whether the boot goes on after a stage. -/
def bootGoes (d : Dev) : Bool := d.board.haltReq.isNone && !d.board.recovery
def bootThen (d : Dev) (f : Dev → Dev) : Dev := if bootGoes d then f d else d

/-- The chain of R127, on a package that has just been powered. (DEDUCED, log entry 32) -/
def bootChain (d : Dev) (pufOk : Bool) (lasers : BitVec 512) : Dev :=
  let d := setSec (setStep d 1) 0 d.board.service
  bootThen (bootThen (bootThen (bootUds d pufOk) bootManager) (fun d => bootRecords d lasers)) bootStub

/-- A recovery image through the test port: verified as manager firmware and written to slot A; the ROM accepts no other one and waits
for the next PWR_OK (R128). -/
def recoveryImage (d : Dev) (x : SignedImage) : Dev :=
  if d.board.recovery ∧ imageOk d 1 x then { d with flash := { d.flash with mgrA := x }, board := { d.board with recovery := false } } else d

/-! ## READY (R75, R77, R133, R490, R496) -/

/-- Raise the rollback counters of the images in use (R133). -/
def raiseCounters (d : Dev) : Dev :=
  let f := d.flash
  let u := d.sealU
  let svns := [imgSvn (if u.mgrB then f.mgrB else f.mgrA), imgSvn (if u.dieB then f.dieB else f.dieA), imgSvn (if u.stubB then f.stubB else f.stubA),
    imgSvn f.buildRecord, imgSvn f.envelope]
  counterAccess d (fun d =>
    { d with flash := { d.flash with counters := (List.range 5).foldl (fun m k => raiseCounter m k (svns.getD k 0)) d.flash.counters } })

/-- READY, or SVC_READY in service mode: the table digest, the counters, a PERIODIC record. -/
def setReady (d : Dev) : Dev :=
  let d := setRfld d (pgBase + 0x84C) (if d.board.service then 1 else 0) 1 1
  let d := extend d 4 (tableDigest d)
  wearPeriodic (if d.board.service then d else raiseCounters d)
def isReady (d : Dev) : Bool := rfld d (pgBase + 0x84C) 0 2 ≠ 0

/-! ## Dies (R18, R33, R34, R75, R76) -/

def dieDead (d : Dev) (s : Nat) : Bool := !(dieFact d s).fitted || dieFenced d s
/-- Steps 4 and 5: when every die that takes part is ready, the manager writes the level into each, and the seal unit derives the Alias key
(R75, R127). -/
def levelStep (d : Dev) : Dev :=
  if d.board.bootStep ≠ 3 ∨ !(List.range 4).all (fun s => dieDead d s || bvBit d.board.ready s) ∨ d.board.haltReq.isSome then d
  else
    let d := setStep d 4
    let up := (List.range 4).filter (dieUp d)
    let lvl := up.foldl (fun m s => min m (dieFact d s).level.toNat) 255
    let d := up.foldl (fun d s => setRegN d (pgDie s + 0x804) ((dieFact d s).level.toNat + 256 * lvl + 65536 * lvl)) d
    let d := setStep (aliasDerive d) 5
    if d.board.service then setReady d else d

/-- The manager releases the die of a site, or fences the site (R18, R33). -/
def dieRelease (d : Dev) (s : Nat) : Dev :=
  let f := dieFact d s
  if d.board.bootStep ≠ 3 ∨ released d s ∨ dieDead d s then d
  else
    let d := setRegN d (pgDie s + 0x804) f.level.toNat
    let strapOk := f.strapSite.toNat == s && f.strapRot == f.strapSite
    let d := setRegN d (pgDie s + 0x800) (f.strapSite.toNat + 4 * f.strapRot.toNat + 16 * strapOk.toNat)
    if (d.flash.build.sites[s]?).map (·.uid) ≠ some f.uid then raiseErr d (pgDie s) 3 0x101 0 0
    else if !strapOk then raiseErr d (pgDie s) 3 0x100 0 0
    else
      let d := { d with board := { d.board with released := setBv d.board.released s true
                                                releasedAt := sput zeroNat d.board.releasedAt s d.clock } }
      applyDie d s

/-- The slot of the runtime stub that the manager has named. -/
def stubSlot (d : Dev) : SignedImage := if d.sealU.stubB then d.flash.stubB else d.flash.stubA
/-- A released die's firmware has loaded the stub from the named slot, verified it and reports its digest (R127, R128). A die that cannot
verify it does not run it and is fenced as one that reports another digest. (DEDUCED, log entry 32) -/
def dieReady (d : Dev) (s : Nat) (stub : Digest) : Dev :=
  if !dieUp d s ∨ bvBit d.board.ready s then d
  else if stub ≠ d.sealU.stubDigest ∨ !imageOk d 3 (stubSlot d) then raiseErr d (pgDie s) 3 0x102 0 0
  else { d with board := { d.board with ready := setBv d.board.ready s true } }

/-! ## Edges done, stacks, ports (R75 to R77) -/

/-- The next stack to train from number n on, skipping dies out of service. -/
def nextStack (d : Dev) (n : Nat) : Nat :=
  ((List.range 12).find? (fun i => decide (n ≤ i) && dieUp d (i / 3) && ownState d (pgHbmc (i / 3) (i % 3)) != stFenced)).getD 12
/-- Training of the next stack begins, or step 7 is over and READY is set. -/
def trainFrom (d : Dev) (n : Nat) : Dev :=
  let i := nextStack d n
  let d := { d with board := { d.board with trainNext := i } }
  if i = 12 then (if isReady d then d else setReady (setStep (setStep d 7) 9))
  else setState (setCtrl d (pgHbmc (i / 3) (i % 3)) 1) (pgHbmc (i / 3) (i % 3)) stStarting
/-- Step 6 is over once no edge of a die in service is STARTING; then step 7 begins. -/
def edgesStep (d : Dev) : Dev :=
  let busy := (List.range 4).any (fun s => dieUp d s && (List.range 2).any (fun e => ownState d (pgD2d s e) == stStarting))
  let begun := (List.range 4).any (fun s => dieUp d s && ownState d (pgD2d s 0) != stOff)
  if d.board.bootStep = 5 ∧ !d.board.service ∧ !busy ∧ begun ∧ d.board.haltReq.isNone then trainFrom (setStep d 6) 0 else d

/-- Training of a stack begins. -/
def stackStart (d : Dev) (i : Nat) : Dev := setState d (pgHbmc (i / 3) (i % 3)) stStarting
/-- A stack that an agent enables in service mode waits until no other one trains (R77). -/
def stackEnable (d : Dev) (i : Nat) : Dev :=
  if d.board.service ∧ (List.range 12).any (fun j => ownState d (pgHbmc (j / 3) (j % 3)) == stStarting) then
    { d with board := { d.board with trainWait := setBv d.board.trainWait i true } }
  else stackStart d i
/-- The next stack that waits is trained. -/
def stackNext (d : Dev) : Dev :=
  match (List.range 12).find? (fun i => bvBit d.board.trainWait i) with
  | none => d
  | some i =>
    let d := { d with board := { d.board with trainWait := setBv d.board.trainWait i false } }
    if ownState d (pgHbmc (i / 3) (i % 3)) = stOff ∧ tbit (pageCtrl d (pgHbmc (i / 3) (i % 3))) 0 then stackStart d i else d
/-- A stack has trained, or has failed and is fenced (R76, R77, R302); the background pass starts anew at the lowest address (R301). -/
def stackTrained (d : Dev) (i : Nat) (ok : Bool) : Dev :=
  let a := pgHbmc (i / 3) (i % 3)
  if ownState d a ≠ stStarting ∨ !dieUp d (i / 3) then d
  else
    let d := if ok then
        enterRunning { setReg64 (setRfld d (a + 0x820) 0 1 1) (a + 0x834) 0 with scrubFull := sput noFlag d.scrubFull i false } a
      else (raise d a 3 0x102 0 0 0).2
    let d := stackNext d
    if d.board.bootStep = 6 ∧ d.board.trainNext = i then trainFrom d (i + 1) else d

/-- A port that an agent enables in service mode waits when four have been enabled in the last 2 ms (R77). -/
def portGo (d : Dev) (n : Nat) : Dev :=
  if !d.board.service then portEnable d n
  else if d.board.portSlots < 4 then portEnable { d with board := { d.board with portSlots := d.board.portSlots + 1 } } n
  else { d with board := { d.board with portWait := d.board.portWait.filter (· ≠ n) ++ [n] } }
/-- Four ports by number are enabled together; absent and fenced ones are skipped (step 8 of R75, R76). In service mode the command is the
end of 2 ms, and the next four that wait are enabled (R77). (DEDUCED, log entry 32) -/
def portGroup (d : Dev) (g : Nat) : Dev :=
  if d.board.service then
    let l := d.board.portWait
    (l.take 4).foldl portGo { d with board := { d.board with portSlots := 0, portWait := l.drop 4 } }
  else if d.board.bootStep < 6 then d
  else
    let d := ((List.range 4).map (4 * g + ·)).foldl (fun d n => if n < 50 then portEnable d n else d) d
    if g = 12 then showStep d 8 else d

/-! ## Clocks (R73) -/

def refclkLoss (d : Dev) : Dev := raiseX d pgMgr 0x004
def pllUnlock (d : Dev) : ClockLoop → Dev
  | .base => raiseX d pgMgr 0x004
  | .die s => if dieUp d s.val then (raise d (pgDie s.val) 3 0x004 0 0 0).2 else d
  | .cluster s c => if dieUp d s.val then (raise d (pgCluster s.val c.val) 3 0x004 0 0 0).2 else d

/-! ## Power (R83 to R85) -/

def cutKey (s : Nat) : Nat := 256 + s
def lowerKey (s : Nat) : Nat := 260 + s
/-- The sensors of a die and of its stacks (R87). -/
def dieSensors (s : Nat) : List Nat := (List.range 16).map (16 * s + ·) ++ (List.range 3).map (68 + 3 * s + ·)
/-- The budget of a die goes down: a sensor is above the throttle threshold, or has not come below it since it was (R87). -/
def dieHot (d : Dev) (s : Nat) : Bool :=
  let lim := 16 * rfld d (pgPmc s + 0x808) 0 8
  (dieSensors s).any (fun k => decide (lim < reading d k))
  || (sget zeroNat d.board.therm (lowerKey s) != 0 && (dieSensors s).any (fun k => decide (lim ≤ reading d k)))

/-- The sum and the number of the power readings of a die since the last budget; the reading in force where there is none (R84). -/
def powerMean (d : Dev) (s : Nat) : Nat × Nat :=
  let n := sget zeroNat d.board.powerNum s
  if n = 0 then (regN d (pgPmc s + 0x820), 1) else (sget zeroNat d.board.powerSum s, n)
/-- The share of each of `up` dies that the limit leaves, in whole watts rounded down: powers are in quarter watts, each die's the average
over the period (R84). -/
def budgetShare (d : Dev) (up : List Nat) (pkgPower : Nat) : Int :=
  let den : Nat := up.foldl (fun m s => m * (powerMean d s).2) 1
  let dies : Nat := up.foldl (fun m s => m + (powerMean d s).1 * (den / (powerMean d s).2)) 0
  let limit : Nat := 4 * rfld d (pgBase + 0xF00) 0 12
  (((limit * den : Nat) : Int) - (((pkgPower * den : Nat) : Int) - (dies : Int))) / ((4 * up.length * den : Nat) : Int)

/-- BUDGET_PERIOD: the manager divides what the limit leaves; thermal cuts of 10 W a period apply below it, to 0 W at most (R84, R87).
(DEDUCED, log entry 31) -/
def budgetPeriod (d : Dev) (pkgPower : Nat) : Dev :=
  let d := setRegN d (pgBase + 0x840) pkgPower
  let up := (List.range 4).filter (dieUp d)
  let share := (budgetShare d up pkgPower).toNat
  let d := up.foldl (fun d s =>
    let target := min (rfld d (pgPmc s + 0x804) 0 10) share
    let cut := min target (sget zeroNat d.board.therm (cutKey s))
    let hot := dieHot d s
    let cut := if hot then min target (cut + 10) else cut - 10
    let d := { d with board := { d.board with therm := sput zeroNat (sput zeroNat d.board.therm (cutKey s) cut) (lowerKey s) hot.toNat } }
    setRfld d (pgPmc s + 0xF00) 0 10 (target - cut)) d
  { d with board := { d.board with powerSum := [], powerNum := [] } }

/-- PMC_PERIOD: power against budget moves the duty; throttling ends filler (R81, R85). (DEDUCED, log entry 31) -/
def pmcPeriod (d : Dev) (s power : Nat) : Dev :=
  let a := pgPmc s
  if !dieUp d s ∨ !running d a then d
  else
    let b := d.board
    let d := setRegN { d with board := { b with powerSum := sput zeroNat b.powerSum s (sget zeroNat b.powerSum s + power)
                                                powerNum := sput zeroNat b.powerNum s (sget zeroNat b.powerNum s + 1) } } (a + 0x820) power
    let budget := 4 * rfld d (a + 0xF00) 0 10
    let duty := rfld d (a + 0x824) 0 5
    let duty := if budget < power then max 1 (duty - 1)
      else if 100 * power ≤ 98 * budget then min 16 (duty + 1) else duty
    let d := setRegN d (a + 0x824) duty
    if duty < 16 then (List.range 16).foldl (fun d c => fillerSuppress d s c) (countEvt d a 0x1000 0 1) else d

/-- A limit write by the board or the firmware; others are discarded, and do not count among the REJECTS: R83 names the count beside a bad
value only (DESIGN CHOICE, log entry 56). -/
def pkgLimitWrite (d : Dev) (who : Requester) (w : Nat) : Dev :=
  if who ≠ .board ∧ !isFirmware who then d
  else if pkgMinW d ≤ w ∧ w ≤ pkgMaxW d ∧ w % 10 = 0 then setRegN d (pgBase + 0xF00) w
  else setRegN d (pgBase + 0x844) (min 0xFFFF (regN d (pgBase + 0x844) + 1))

/-- EPD_REQ.0: a halt (R92). -/
def epdWrite (d : Dev) (v : Nat) : Dev := if tbit v 0 then raiseX d pgBase 0x102 else d

/-! ## Droop and supply (R86) -/

def setHalved (d : Dev) (s c : Nat) (b : Bool) : Dev := { d with board := { d.board with halved := setBv d.board.halved (16 * s + c) b } }
def clusterLive (d : Dev) (s c : Nat) : Bool := dieUp d s && !pageFenced d (pgCluster s c)
def droopDetect (d : Dev) (s c : Nat) : Dev :=
  if clusterLive d s c ∧ !clockHalved d s c then setHalved (incSat d (pgPmc s + 0x82C)) s c true else d
def droopRecover (d : Dev) (s c : Nat) : Dev := if clockHalved d s c then setHalved d s c false else d
/-- A droop of more than 1 ms: class C, counted for the cluster. -/
def droopLong (d : Dev) (s c : Nat) : Dev :=
  if clockHalved d s c ∧ clusterLive d s c then (raise d (pgPmc s) 1 0x100 c c 0).2 else d
def supplyLimit (d : Dev) : Dev := raiseX d pgBase 0x100

/-! ## Temperature (R87) -/

/-- The alert threshold of a sensor in units of 0.0625 degrees: its die's, for a sensor of the base the lowest of the dies in service.
(DEDUCED, log entry 31) -/
def alertLimit (d : Dev) (sensor : Sensor) : Nat :=
  let of_ (s : Nat) : Nat := 16 * rfld d (pgPmc s + 0x808) 8 8
  match sensor with
  | .cluster s _ => of_ s.val
  | .stack i => of_ (i.val / 3)
  | .base _ => ((List.range 4).filter (dieUp d)).foldl (fun m s => min m (of_ s)) (16 * 105)
/-- The hottest cluster of a die. -/
def hottestCluster (d : Dev) (s : Nat) : Nat :=
  (List.range 16).foldl (fun best c => if reading d (16 * s + best) < reading d (16 * s + c) then c else best) 0

/-- A sensor reading: kept, shown, and judged against the alert and trip points. (DEDUCED, log entry 31) -/
def thermSample (d : Dev) (sensor : Sensor) (r : Nat) : Dev :=
  let k := sensorKey sensor
  let t := sput zeroNat d.board.therm k r
  let t := sput zeroNat t (hottestKey k) (max r (sget zeroNat t (hottestKey k)))
  let d := { d with board := { d.board with therm := t } }
  let d := match sensor with
    | .cluster s _ => setRegN d (pgPmc s.val + 0x828) (fld (reading d (16 * s.val + hottestCluster d s.val)) 0 12 + 65536 * hottestCluster d s.val)
    | _ => d
  let a := pgBase + 0x848
  let d := if alertLimit d sensor ≤ r then
      let d := if tbit (regN d a) 8 then d else setRegN d a (setFld (regN d a) 0 8 (Config.sensorCode sensor).toNat)
      { setRfld d a 8 1 1 with board := { d.board with alertN := false } }
    else d
  if 16 * 105 ≤ r then
    let d := setRfld d a 9 1 1
    raiseX { d with board := { d.board with thermTrip := true } } pgBase 0x101
  else d

end Sys2Proof.Machine
end

