-- ==== Sys2Proof/Machine/Collect.lean ====
section
/-!
DEFINITION. One collective on one member (R395 to R408): what it contributes, the chunks it forms for a phase, what it does with
the data of a phase, and its results. A docket works through its phases: it forms the chunks of a phase once it has accepted
every transfer of the phases before, and combines received data in ascending sender order (R387, R395).
-/
namespace Sys2Proof.Machine

/-! ## Elements -/

def elemsNone : Elems := ⟨0, [], false, []⟩
def noMember (_ : Nat) : Nat := 0xFFFF
def noElem : Nat := 0xFFFFFFFF
/-- Elements lo to hi − 1 of a run of elements. -/
def sliceE (v : Elems) (lo hi : Nat) : Elems :=
  ⟨lo, (v.vals.drop (lo - v.lo)).take (hi - lo), v.pois, v.nans.filter (fun e => decide (lo ≤ e.1 ∧ e.1 < hi))⟩
/-- Put the elements of `w` over those of `v`. -/
def overlayE (v w : Elems) : Elems :=
  ⟨v.lo, v.vals.take (w.lo - v.lo) ++ w.vals ++ v.vals.drop (w.lo - v.lo + w.vals.length), v.pois || w.pois,
    w.nans.foldl (fun m e => sins m e.1 e.2) v.nans⟩
def isNanIn (code x : Nat) : Bool := Fp.isNan (Fp.decode code x)

/-- The lowest contributor of a NaN among two operands (R403). -/
def nanFrom (code : Nat) (a b : Elems) (e x y : Nat) : Nat :=
  min (if isNanIn code x then sget noMember a.nans e else 0xFFFF) (if isNanIn code y then sget noMember b.nans e else 0xFFFF)

/-- Add element by element, the older operand on the left (R387, R395). -/
def addE (code : Nat) (a b : Elems) : Elems :=
  let r := (List.range a.vals.length).map (fun i =>
    let x := a.vals.getD i 0
    let y := b.vals.getD i 0
    (a.lo + i, x, y, (Fp.addIn code x y).1))
  ⟨a.lo, r.map (fun t => t.2.2.2), a.pois || b.pois,
    r.foldl (fun m t => if isNanIn code t.2.2.2 then sins m t.1 (nanFrom code a b t.1 t.2.1 t.2.2.1) else m) []⟩

/-- Numbers of `w` bytes each, little-endian. -/
def valsOf (w : Nat) (bs : List Byte) : List Nat :=
  (List.range (bs.length / w)).map (fun i => bytesAt bs (w * i) w)
def packVals (w : Nat) (l : List Nat) : List Byte := l.flatMap (toBytes w)

/-! ## Where a docket keeps them -/

def kOwn : Nat := 0
def kNode : Nat := 1
def kSum : Nat := 2
def kYd : Nat := 3
def kYa : Nat := 4
def kBuf : Nat := 5
def kPart (s : Nat) : Nat := 8 + 2 * s
def kY (s : Nat) : Nat := 9 + 2 * s

def itemOf (k : Docket) (i : Nat) : Option Elems := (k.items.find? (fun e => e.1 == i)).map (·.2)
def putItem (k : Docket) (i : Nat) (v : Elems) : Docket := { k with items := sins k.items i v }
def getItem (k : Docket) (i : Nat) : Elems := (itemOf k i).getD elemsNone
/-- A docket fails with a status; the first one holds (R413). -/
def doomed (k : Docket) (status : Nat) : Docket := if k.doom = 0 then { k with doom := status } else k
/-- A NaN at an element: the lowest element, and for it the lowest member (R403). -/
def noteNan (k : Docket) (e m : Nat) : Docket :=
  if e < k.nanElem ∨ (e = k.nanElem ∧ m < k.nanMember) then { k with nanElem := e, nanMember := m } else k
def noteNans (k : Docket) (l : Sparse Nat) : Docket := l.foldl (fun k e => noteNan k e.1 e.2) k

/-- The status codes of R394. -/
def stOk' : Nat := 1
def stMismatch : Nat := 2
def stStall : Nat := 3
def stBad : Nat := 4
def stLength : Nat := 5
def stOverrun : Nat := 6
def stPoison : Nat := 7
def stE2e : Nat := 8
def stGap : Nat := 9
def stRetry : Nat := 10
def stLane : Nat := 11
def stAborted : Nat := 12

/-! ## Memory as a lane reads and writes it (R382, R383) -/

def srtRead (d : Dev) (a n : Nat) : List Byte × Bool × Dev := memRead d a n
def srtWrite (d : Dev) (s a : Nat) (bs : List Byte) : Dev := agentWrite d (.die s) a bs false

/-- Whether a range lies wholly within the memory of a die (R285, R383). -/
def dieRange (d : Dev) (s a n : Nat) : Bool :=
  n == 0 || (ownerDie a == some s && ownerDie (a + n - 1) == some s &&
    (if a < 0xF000000000 then decide (a + n ≤ s * hbmSpan + (dieStacks d s).length * stackBytes)
     else decide (n ≤ 0x1800000) && presentRange d a n))

/-! ## The plan of an accepted docket -/

def dkWord (k : Docket) : DocketWord := k.post.word
def dkEntry (d : Dev) (k : Docket) : Nat := grp d (dkGroup (dkWord k))
def dkN (d : Dev) (k : Docket) : Nat := gCount (dkEntry d k)
def planIn (d : Dev) (k : Docket) : PlanIn :=
  let e := dkEntry d k
  let w := dkWord k
  ⟨dkOp w, gCount e, k.self, dkPeer w, dkCount w, elemBytes (dkItype w) (dkCount w), dkAcc w, gTree e, gRadices e⟩
/-- The elements that a reduction works on. -/
def sumElems (d : Dev) (k : Docket) : Nat :=
  let w := dkWord k
  if dkOp w = opNorm then 1 else if dkOp w = opReduceScatter then dkN d k * dkCount w else dkCount w
/-- The elements that the member owns (R395). -/
def ownedRange (d : Dev) (k : Docket) : Nat × Nat :=
  let w := dkWord k
  if dkOp w = opReduce then (if k.self = dkPeer w then (0, dkCount w) else (0, 0))
  else if dkOp w = opNorm then (0, 1)
  else shardOf (dkOp w) (dkN d k) (dkCount w) k.self

/-- Where the GATHER_DROP data of run r of member j lies, as slot offset (R400). -/
def gatherOff (k : Docket) (j r : Nat) : Nat := dkDst (dkWord k) + (k.place.getD j (0, 0, 0)).1 + r * k.stride

/-! ## The start of a docket -/

/-- The member's own contribution to a reduction, each element exactly in the type of the sum (R395, R398). -/
def ownElems (d : Dev) (s : Nat) (k : Docket) : Dev × Docket :=
  let w := dkWord k
  if dkOp w = opNorm ∧ dkNormSrc w then
    let a := pgSorter s + 0xBE0
    let v := reg64 d a
    (setReg64 d a 0, putItem k kOwn ⟨0, [v], false, if isNanIn 0x1 v then [(0, k.self)] else []⟩)
  else
    let it := dkItype w
    let n := sumElems d k
    let r := srtRead d (dkSrc w) (elemBytes it n)
    let raw := valsOf (Fp.width it / 8) r.1
    let vs := if it = 0x3 ∨ it = 0x4 then raw.map (fun x => Fp.encode 0x2 (Fp.decode it x)) else raw
    let nans := (List.range vs.length).foldl (fun m i => if isNanIn (sumType w) (vs.getD i 0) then sins m i k.self else m) []
    (r.2.2, putItem k kOwn ⟨0, vs, r.2.1, nans⟩)

/-- ALLTOALL and ALLTOALLV: the send table, its checks, and the local copy (R393, R399). (DEDUCED, log entry 50) -/
def startAll (d : Dev) (s : Nat) (k : Docket) : Dev × Docket :=
  let w := dkWord k
  let n := dkN d k
  let c := dkCount w
  let it := dkItype w
  let t := if dkOp w = opAlltoallv then srtRead d (dkAux w) (16 * n) else ([], false, d)
  let place := (List.range n).map (fun j =>
    if dkOp w = opAlltoallv then (bytesAt t.1 (16 * j) 4, bytesAt t.1 (16 * j + 4) 4, 0) else (j * c, c, 0))
  let d := t.2.2
  let k := { k with place := place }
  let own := place.getD k.self (0, 0, 0)
  if t.2.1 then (d, doomed k stPoison)
  else if place.any (fun p => p.2.1 ≠ 0 && !dieRange d s (dkSrc w + elemBytes it p.1) (elemBytes it p.2.1)) then (d, doomed k stBad)
  else if c < own.2.1 then (d, doomed k stOverrun)
  else
    let r := srtRead d (dkSrc w + elemBytes it own.1) (elemBytes it own.2.1)
    if r.2.1 then (r.2.2, doomed k stPoison)
    else (srtWrite r.2.2 s (dkDst w + k.self * elemBytes it c) r.1, k)

/-- What is wrong with a placement block (R393, R400). (DEDUCED, log entry 50) -/
def placementBad (d : Dev) (s : Nat) (k : Docket) : Bool :=
  let w := dkWord k
  let size := slotSize d s (dkRegion w)
  let own := k.place.getD k.self (0, 0, 0)
  let n := k.place.length
  let first := k.place.getD 0 (0, 0, 0)
  let last := k.place.getD (n - 1) (0, 0, 0)
  decide (elemBytes (dkItype w) (dkCount w) ≠ k.runs * own.2.2)
  || (List.range (n - 1)).any (fun j =>
      let a := k.place.getD j (0, 0, 0)
      decide ((k.place.getD (j + 1) (0, 0, 0)).1 < a.1 + a.2.2))
  || decide (1 < k.runs ∧ k.stride + first.1 < last.1 + last.2.2)
  || (List.range n).any (fun j =>
      let b := (k.place.getD j (0, 0, 0)).2.2
      decide (k.runs ≠ 0 ∧ b ≠ 0 ∧ size < gatherOff k j (k.runs - 1) + b))
  || (own.2.2 != 0 && k.runs != 0 &&
      !(dieRange d s (dkSrc w) own.2.2 && dieRange d s (dkSrc w + (k.runs - 1) * own.2.1) own.2.2))

/-- GATHER_DROP: its placement block, its checks and the data of its own runs (R400). (DEDUCED, log entry 50) -/
def startGather (d : Dev) (s : Nat) (k : Docket) : Dev × Docket :=
  let w := dkWord k
  let n := dkN d k
  let t := srtRead d (dkAux w) (32 + 32 * n)
  let k := { k with runs := bytesAt t.1 0 4, stride := bytesAt t.1 8 8
                    place := (List.range n).map (fun j =>
                      (bytesAt t.1 (32 + 32 * j) 8, bytesAt t.1 (40 + 32 * j) 8, bytesAt t.1 (48 + 32 * j) 8)) }
  if t.2.1 then (t.2.2, doomed { k with place := [], runs := 0 } stPoison)
  else if placementBad t.2.2 s k then (t.2.2, doomed { k with place := [], runs := 0 } stBad)
  else
    let own := k.place.getD k.self (0, 0, 0)
    let r := (List.range k.runs).foldl (fun acc i =>
      let x := srtRead acc.2.2 (dkSrc w + i * own.2.1) own.2.2
      (acc.1 ++ x.1, acc.2.1 || x.2.1, x.2.2)) (([], false, t.2.2) : List Byte × Bool × Dev)
    (r.2.2, putItem k kBuf ⟨0, r.1.map (·.toNat), r.2.1, []⟩)

/-- BROADCAST and ALLGATHER: the bytes the member starts with (R401). -/
def startCopyOp (d : Dev) (k : Docket) : Dev × Docket :=
  let w := dkWord k
  let p := planIn d k
  let whole := if p.op = opAllgather then p.n * p.blk else p.blk
  let zero : Elems := ⟨0, List.replicate whole 0, false, []⟩
  if p.op = opAllgather ∨ k.self = p.root then
    let r := srtRead d (dkSrc w) p.blk
    (r.2.2, putItem k kBuf (overlayE zero ⟨if p.op = opAllgather then k.self * p.blk else 0, r.1.map (·.toNat), r.2.1, []⟩))
  else (d, putItem k kBuf zero)

/-- What a docket reads when it starts. -/
def startData (d : Dev) (s : Nat) (k : Docket) : Dev × Docket :=
  let op := dkOp (dkWord k)
  if isRed op ∨ op = opNorm then
    let r := ownElems d s k
    (r.1, putItem r.2 kNode (getItem r.2 kOwn))
  else if op = opAlltoall ∨ op = opAlltoallv then startAll d s k
  else if op = opGather then startGather d s k
  else if op = opBroadcast ∨ op = opAllgather then startCopyOp d k
  else (d, k)

/-! ## Results (R396, R397, R403 to R405) -/

/-- y of each sum: with ACC the sum added to the old value, else the sum converted to OTYPE; and how many overflowed. -/
def formY (w : DocketWord) (v : Elems) (old : Option (List Nat)) : Elems × Nat :=
  let st := sumType w
  let ot := outType w
  let r := (List.range v.vals.length).map (fun i =>
    let x := v.vals.getD i 0
    match old with
    | some l => (x, Fp.add32 (l.getD i 0) x, false)
    | none => let c := Fp.convert ot (Fp.decode st x) (dkOvf w) .even; (x, c.1, c.2))
  let nans := (List.range r.length).foldl (fun m i =>
    let t := r.getD i (0, 0, false)
    if isNanIn ot t.2.1 then sins m (v.lo + i) (if isNanIn st t.1 then sget noMember v.nans (v.lo + i) else 0xFFFF) else m) []
  (⟨v.lo, r.map (·.2.1), v.pois, nans⟩, (r.filter (·.2.2)).length)

/-- Where element e of the docket's results lies. -/
def resultAddr (d : Dev) (k : Docket) (e : Nat) : Nat :=
  let w := dkWord k
  let base := if dkOp w = opReduceScatter then (ownedRange d k).1 else 0
  dkDst w + (e - base) * outBytes w

/-- Write results and record their NaNs. -/
def storeY (d : Dev) (s : Nat) (k : Docket) (y : Elems) : Dev × Docket :=
  (srtWrite d s (resultAddr d k y.lo) (packVals (outBytes (dkWord k)) y.vals), noteNans k y.nans)

/-- The owner forms its results from sums, writes them and keeps them (R397). -/
def ownerResult (d : Dev) (s : Nat) (k : Docket) (v : Elems) : Dev × Docket :=
  let w := dkWord k
  if v.pois then (d, doomed k stPoison)
  else
    let r := if dkAcc w then srtRead d (resultAddr d k v.lo) (4 * v.vals.length) else ([], false, d)
    if r.2.1 then (r.2.2, doomed k stPoison)
    else
      let y := formY w v (if dkAcc w then some (valsOf 4 r.1) else none)
      let x := storeY r.2.2 s { k with ovf := k.ovf + y.2 } y.1
      (x.1, putItem x.2 (kY k.self) y.1)

/-- The sum at the top of the tree as this member holds it. -/
def topSum (k : Docket) : Elems := match itemOf k kSum with | some v => v | none => getItem k kNode

/-- The results the root forms for every element, in tree mode without ACC; another member holds what came down (R397). -/
def rootY (k : Docket) : Docket :=
  if (itemOf k kYd).isSome ∨ k.self ≠ 0 then k
  else
    let v := getItem k kNode
    if v.pois then doomed k stPoison
    else
      let y := formY (dkWord k) v none
      putItem { k with ovf := k.ovf + y.2 } kYd y.1

/-- The end of a tree's reduction phases: results are formed and written (R396, R397). -/
def treeResult (d : Dev) (s : Nat) (k : Docket) : Dev × Docket :=
  let w := dkWord k
  let p := planIn d k
  let o := ownedRange d k
  if p.op = opReduce ∧ k.self ≠ p.root then (d, k)
  else if !dkAcc w then
    let k := rootY k
    if k.doom ≠ 0 then (d, k)
    else
      let y := sliceE (getItem k kYd) (if p.op = opReduceScatter then o.1 else 0) (if p.op = opReduceScatter then o.2 else dkCount w)
      let x := storeY d s k y
      (x.1, putItem x.2 (kY k.self) (sliceE y o.1 o.2))
  else
    let x := ownerResult d s k (sliceE (topSum k) o.1 o.2)
    if p.op = opAllreduce ∧ x.2.doom = 0 then
      let all : Elems := ⟨0, List.replicate (dkCount w) 0, false, []⟩
      (x.1, putItem x.2 kYa (overlayE all (getItem x.2 (kY k.self))))
    else x

/-! ## Forming chunks (R406, R407) -/

/-- The data of a transfer: bytes, first element, bits per element, poison, and the NaNs known in it. -/
structure Payload where
  data : List Byte
  elem : Nat
  bits : Nat
  pois : Bool
  nans : Sparse Nat
  deriving DecidableEq, Repr

def elemPayload (w : Nat) (v : Elems) : Payload := ⟨packVals w v.vals, v.lo, 8 * w, v.pois, v.nans⟩

/-- What a docket sends in a transfer. -/
def payloadOf (d : Dev) (k : Docket) (x : Xfer) : Dev × Docket × Payload :=
  let w := dkWord k
  let sw := Fp.width (sumType w) / 8
  let it := dkItype w
  let none' : Payload := ⟨[], 0, 8, false, []⟩
  match x.item with
  | .part sh =>
    let r := shardOf (dkOp w) (dkN d k) (dkCount w) sh
    (d, k, elemPayload sw ((itemOf k (kPart sh)).getD (sliceE (getItem k kOwn) r.1 r.2)))
  | .node => (d, k, elemPayload sw (getItem k kNode))
  | .sum lo hi => (d, k, elemPayload sw (sliceE (topSum k) lo hi))
  | .yd lo hi => let k := rootY k; (d, k, elemPayload (outBytes w) (sliceE (getItem k kYd) lo hi))
  | .y sh => (d, k, elemPayload (outBytes w) (getItem k (kY sh)))
  | .ya lo hi => (d, k, elemPayload 4 (sliceE (getItem k kYa) lo hi))
  | .raw lo hi =>
    let v := sliceE (getItem k kBuf) lo hi
    (d, k, ⟨v.vals.map (BitVec.ofNat 8), lo * 8 / Fp.width it, Fp.width it, v.pois, []⟩)
  | .p2p =>
    let r := srtRead d (dkSrc w) (elemBytes it (dkCount w))
    (r.2.2, k, ⟨r.1, 0, Fp.width it, r.2.1, []⟩)
  | .direct =>
    if dkOp w = opGather then
      let v := getItem k kBuf
      (d, k, ⟨v.vals.map (BitVec.ofNat 8), 0, Fp.width it, v.pois, []⟩)
    else
      let t := k.place.getD x.rcv (0, 0, 0)
      let r := srtRead d (dkSrc w + elemBytes it t.1) (elemBytes it t.2.1)
      (r.2.2, k, ⟨r.1, 0, Fp.width it, r.2.1, []⟩)
  | .hdr | .ack | .nan => (d, k, none')

/-- The elements a transfer carries in all, as TOTAL gives them: COUNT on SEND's answer (R401, R407). -/
def totalOf (k : Docket) (x : Xfer) (pl : Payload) : Nat :=
  match x.item with
  | .ack => dkCount (dkWord k)
  | .p2p => dkCount (dkWord k)
  | .direct => if dkOp (dkWord k) = opGather then pl.data.length * 8 / pl.bits else (k.place.getD x.rcv (0, 0, 0)).2.1
  | _ => pl.data.length * 8 / pl.bits

/-- Form the chunks of one transfer (R402, R406): at least one, header-only where there is no payload. -/
def formChunks (d : Dev) (k : Docket) (x : Xfer) : Dev × Docket :=
  let r := payloadOf d k x
  let k := r.2.1
  let pl := r.2.2
  let e := dkEntry r.1 k
  let cb := 4096 * gChunk e
  let n := max 1 (if cb = 0 then 1 else ceilDiv pl.data.length cb)
  let total := totalOf k x pl
  let one (c : Nat) : OutChunk :=
    let part := (pl.data.drop (c * cb)).take cb
    let first := pl.elem + c * cb * 8 / pl.bits
    let cnt := part.length * 8 / pl.bits
    let hit := pl.nans.find? (fun q => decide (first ≤ q.1 ∧ q.1 < first + cnt))
    let nn := match x.item, hit with
      | .nan, _ => (k.nanElem, k.nanMember)
      | _, some q => q
      | _, none => (noElem, 0xFFFF)
    ⟨x.rcv, x.ph, c, laneOfChunk e c, first, total, c + 1 == n, pl.pois, nn.1, nn.2, part⟩
  (r.1, { k with todo := k.todo ++ (List.range n).map one })

/-! ## What a docket does with received data -/

/-- The elements it expects of a transfer, where it can tell (R399, R407). (DEDUCED, log entry 52) -/
def expectedTotal (d : Dev) (k : Docket) (x : Xfer) : Option Nat :=
  let w := dkWord k
  match x.item with
  | .part s | .y s => let r := shardOf (dkOp w) (dkN d k) (dkCount w) s; some (r.2 - r.1)
  | .node => some (sumElems d k)
  | .sum lo hi | .yd lo hi | .ya lo hi => some (hi - lo)
  | .raw lo hi => some ((hi - lo) * 8 / Fp.width (dkItype w))
  | .hdr | .nan => some 0
  | .p2p | .ack => some (dkCount w)
  | .direct =>
    if dkOp w = opGather then some (k.runs * (k.place.getD x.snd (0, 0, 0)).2.2 * 8 / Fp.width (dkItype w))
    else if dkOp w = opAlltoall then some (dkCount w)
    else none

/-- The chunks accepted of a sender and phase, in index order. -/
def gotOf (k : Docket) (peer ph : Nat) : List ChunkRec := k.got.filter (fun c => c.peer == peer && c.phase == ph)
/-- Header fields of R407. -/
def chF (h : BitVec 512) (lo n : Nat) : Nat := fld h.toNat lo n
def chOp (h : BitVec 512) : Nat := chF h 0 8
def chGroup (h : BitVec 512) : Nat := chF h 8 8
def chClass (h : BitVec 512) : Nat := chF h 16 4
def chPois (h : BitVec 512) : Bool := chF h 20 1 == 1
def chLast (h : BitVec 512) : Bool := chF h 21 1 == 1
def chFail (h : BitVec 512) : Bool := chF h 23 1 == 1
def chPhase (h : BitVec 512) : Nat := chF h 24 8
def chCseq (h : BitVec 512) : W32 := BitVec.ofNat 32 (chF h 32 32)
def chSrc (h : BitVec 512) : Nat := chF h 64 16
def chDst (h : BitVec 512) : Nat := chF h 80 16
def chAlive (h : BitVec 512) : W32 := BitVec.ofNat 32 (chF h 96 32)
def chIndex (h : BitVec 512) : Nat := chF h 128 32
def chTotal (h : BitVec 512) : Nat := chF h 224 32
def chCheck (h : BitVec 512) : Nat := chF h 256 64
def chNanE (h : BitVec 512) : Nat := chF h 320 32
def chNanM (h : BitVec 512) : Nat := chF h 352 16

/-- Every chunk of a transfer has been accepted. -/
def complete (k : Docket) (x : Xfer) : Bool := (gotOf k x.snd x.ph).any (fun c => chLast c.header)

/-- The elements that received bytes hold, with the NaNs their headers name (R403). -/
def received (w code : Nat) (data : List Byte) (lo : Nat) (recs : List (Nat × Nat)) : Elems :=
  let vs := valsOf w data
  let nans := (List.range vs.length).foldl (fun m i => if isNanIn code (vs.getD i 0) then sins m (lo + i) 0xFFFF else m) []
  ⟨lo, vs, false, recs.foldl (fun m r => if lo ≤ r.1 ∧ r.1 < lo + vs.length then sins m r.1 r.2 else m) nans⟩

/-- Place the data of member j in the restante slot (R400, R306). -/
def placeGather (d : Dev) (s : Nat) (k : Docket) (j : Nat) (data : List Byte) : Dev :=
  let w := dkWord k
  let r := dkRegion w
  let b := (k.place.getD j (0, 0, 0)).2.2
  (List.range k.runs).foldl (fun d i =>
    let o := gatherOff k j i
    let d := srtWrite d s (slotBase d s r + o) ((data.drop (i * b)).take b)
    let x := getSorter d s
    putSorter d s { x with written := sput (fun _ => []) x.written r (sget (fun _ => []) x.written r ++ [(o, b)]) }) d

/-- Combine or keep the data of one transfer (R395 to R401). -/
def takeXfer (d : Dev) (s : Nat) (k : Docket) (x : Xfer) : Dev × Docket :=
  let w := dkWord k
  let got := gotOf k x.snd x.ph
  let data := got.flatMap (·.payload)
  let recs := (got.filter (fun c => chNanE c.header ≠ noElem)).map (fun c => (chNanE c.header, chNanM c.header))
  let st := sumType w
  let sw := Fp.width st / 8
  match x.item with
  | .part sh =>
    let r := shardOf (dkOp w) (dkN d k) (dkCount w) sh
    let v := addE st (received sw st data r.1 recs) (sliceE (getItem k kOwn) r.1 r.2)
    if (if dkOp w = opReduce then dkPeer w else sh) = k.self then ownerResult d s k v else (d, putItem k (kPart sh) v)
  | .node => (d, putItem k kNode (addE st (getItem k kNode) (received sw st data 0 recs)))
  | .sum lo _ => (d, putItem k kSum (received sw st data lo recs))
  | .yd lo _ => (d, putItem k kYd (received (outBytes w) (outType w) data lo recs))
  | .y sh =>
    let r := shardOf (dkOp w) (dkN d k) (dkCount w) sh
    let y := received (outBytes w) (outType w) data r.1 recs
    storeY d s (putItem k (kY sh) y) { y with nans := recs }
  | .ya lo _ =>
    let y := received 4 0x2 data lo recs
    storeY d s (putItem k kYa (overlayE (getItem k kYa) y)) { y with nans := recs }
  | .nan | .ack => (d, noteNans k recs)
  | .raw lo _ => (d, putItem k kBuf (overlayE (getItem k kBuf) ⟨lo, data.map (·.toNat), false, []⟩))
  | .p2p => (srtWrite d s (dkDst w) data, k)
  | .direct =>
    if dkOp w = opGather then (placeGather d s k x.snd data, k)
    else
      let t := k.place.getD x.snd (0, 0, 0)
      let total := match got.getLast? with | some c => chTotal c.header | none => 0
      (srtWrite d s (dkDst w + x.snd * elemBytes (dkItype w) (dkCount w)) data,
        { k with place := k.place.set x.snd (t.1, t.2.1, total) })
  | .hdr => (d, k)

/-- The transfers of a list sorted by ascending sender; a list has at most one of a sender. -/
def bySender (l : List Xfer) : List Xfer :=
  l.foldl (fun acc x => acc.takeWhile (fun y => decide (y.snd < x.snd)) ++ x :: acc.dropWhile (fun y => decide (y.snd < x.snd))) []

/-- Whether the reduction of a tree ends with phase q of the plan. -/
def reduceEnds (p : PlanIn) (q : Nat) : Bool :=
  isRed p.op && p.tree && p.count != 0 && decide (q + 1 = treePhases p)

/-- Phase q is over: its data is combined; at the end of a tree reduction results are formed. -/
def phaseDone (d : Dev) (s : Nat) (k : Docket) (q : Nat) : Dev × Docket :=
  let p := planIn d k
  let r := (bySender ((expects p).filter (fun x => x.ph == q))).foldl
    (fun acc x => if acc.2.doom ≠ 0 then acc else takeXfer acc.1 s acc.2 x) (d, k)
  if reduceEnds p q ∧ r.2.doom = 0 then treeResult r.1 s r.2 else r

/-- The end of the last phase: what is left to write (R398, R399, R401, R304). -/
def finalize (d : Dev) (s : Nat) (k : Docket) : Dev × Docket :=
  let w := dkWord k
  let p := planIn d k
  if isRed p.op then
    if p.n = 1 ∧ !p.tree ∧ p.count ≠ 0 then ownerResult d s k (sliceE (getItem k kOwn) (ownedRange d k).1 (ownedRange d k).2)
    else if p.tree ∧ p.count ≠ 0 ∧ (treePhases p = 0 ∨ hasPhase (planOf p) < treePhases p) then treeResult d s k
    else (d, k)
  else if p.op = opNorm then
    let t := topSum k
    if t.pois then (d, doomed k stPoison)
    else (srtWrite d s (dkDst w) (packVals 8 t.vals), noteNans k t.nans)
  else if (p.op = opBroadcast ∨ p.op = opAllgather) ∧ p.count ≠ 0 then
    let v := getItem k kBuf
    if v.pois then (d, doomed k stPoison) else (srtWrite d s (dkDst w) (v.vals.map (BitVec.ofNat 8)), k)
  else if p.op = opAlltoallv then
    ((List.range p.n).foldl (fun d j =>
      let t := k.place.getD j (0, 0, 0)
      srtWrite d s (dkAux w + 16 * j + 8) (toBytes 4 (if j = k.self then t.2.1 else t.2.2))) d, k)
  else if p.op = opGather then
    -- the slot is READY, or FREE where no use is left (R307)
    let r := dkRegion w
    (setRfld d (slotStat s r) 0 2 (if slotUses d s r = 0 then slFree else slReady), k)
  else (d, k)

/-- Work through the phases as far as the accepted chunks allow (R395 to R403). -/
def advance : Nat → Dev → Nat → Docket → Dev × Docket
  | 0, d, _, k => (d, k)
  | fuel + 1, d, s, k =>
    let p := planIn d k
    let nph := hasPhase (planOf p)
    if k.doom ≠ 0 ∨ k.ended ∨ (p.op = opGather ∧ !k.claimed) then (d, k)
    else if !((expects p).filter (fun x => decide (x.ph < k.next))).all (complete k) then (d, k)
    else
      let r := if k.next = 0 then (d, k) else phaseDone d s k (k.next - 1)
      if r.2.doom ≠ 0 then r
      else if k.next < nph then
        let x := (sendsAt p k.next).foldl (fun acc y => formChunks acc.1 acc.2 y) (r.1, { r.2 with next := k.next + 1 })
        advance fuel x.1 s x.2
      else
        let x := finalize r.1 s r.2
        (x.1, { x.2 with ended := true })

end Sys2Proof.Machine
end

