-- ==== Sys2Proof/Machine/Contexts.lean ====
section
/-!
DEFINITION. Events of contexts and their asynchronous operations: arriving stream bytes and completed uses (R176, R208), FETCH
and PUT (R177, R299, R300), PACK (R186), starting, stopping and holding contexts (R192), and waits that end (R178, R179).
-/
namespace Sys2Proof.Machine

/-- Bytes of a KIND 0 read stream arrive from outside the core (R176, R208). -/
def streamArrive (d : Dev) (site k n r bytes : Nat) : Dev :=
  let key := ctxKey site k n
  let c := getCtx d key
  let s := dReg c r
  if s.active ∧ dscKind s.desc = 0 ∧ !dscRemote s.desc then
    putCtx d key (setD c r { s with arrived := min (dscSize s.desc) (s.arrived + bytes) })
  else d

/-- The use a register holds completes: its last byte has been read, or written and made visible (R176). Post box uses complete
under R434 and R435. -/
def streamComplete (d : Dev) (site k n r : Nat) : Dev :=
  let key := ctxKey site k n
  let c := getCtx d key
  let s := dReg c r
  if s.active ∧ dscSize s.desc ≤ s.pos ∧ dscKind s.desc ≠ 1 ∧ dscKind s.desc ≠ 2 ∧ (c.cstate = .running ∨ c.cstate = .waiting) then
    useDone (putCtx d key (setD c r { s with active := false })) site key s.desc
  else d

/-! ## FETCH and PUT (R177) -/

def copyAt (d : Dev) (site k i : Nat) : Option CopyOp := sget (fun _ => none) (getCore d (coreKey site k)).copies i
def clearCopy (d : Dev) (site k i : Nat) : Dev :=
  let co := getCore d (coreKey site k)
  putCore d (coreKey site k) { co with copies := sput (fun _ => none) co.copies i none }

/-- End a copy: its slot is free, the use completes (R176, R177). -/
def copyEnd (d : Dev) (site k i : Nat) (o : CopyOp) : Dev :=
  let d := useDone (clearCopy d site k i) site (ctxKey site k o.ctx.val) o.desc
  if dscKind o.desc = 2 then messageTaken d site (dscBox o.desc) else d

/-- A copy has moved its bytes: one the cluster controller served counts as DMA_DONE (R289, R511). -/
def copyDone (d : Dev) (site k i : Nat) (o : CopyOp) : Dev :=
  copyEnd (if inOwnMemory site k o.desc then d else countEvt d (pgCluster site (k / 8)) 0x1000 0 1) site k i o

/-- Fault the context of a copy; an IDLE context has none to fault. -/
def copyFault (d : Dev) (site k : Nat) (o : CopyOp) (code addr : Nat) : Dev :=
  faultCtx d site k o.ctx.val o.issuedAt (code, 6, addr)

/-- A FETCH moves its stream into core memory, once its bytes are there (R177, R306, R435). One that meets the live code range writes
nothing at all (R153; DESIGN CHOICE, log entry 57). -/
def fetchDone (d : Dev) (site k i : Nat) : Dev :=
  match copyAt d site k i with
  | none => d
  | some o =>
    let size := dscSize o.desc
    let s : Stream := { streamDefault 0 with desc := o.desc, begun := o.begun, arrived := size }
    if o.isPut ∨ !readServed d site s size then d
    else
      let base := useBase d site o.desc o.base
      let runs := useRuns o.desc 0 size
      match firstOut base runs with
      | some a => copyEnd (copyFault d site k o fAddr a) site k i o
      | none =>
        let x := readRuns d base runs
        let a := match runs with | q :: _ => (((base : Int) + q.1) % 2 ^ 32).toNat | [] => 0
        if x.2.1 then copyEnd (copyFault x.2.2 site k o fPoison a) site k i o
        else if hitsCode x.2.2 site k o.off size then
          copyEnd (copyFault x.2.2 site k o fAddr (o.off % 2 ^ 32)) site k i o
        else copyDone (cmemWrite x.2.2 site k o.off x.1) site k i o

/-- Move n bytes of core memory to an address of memory granule by granule, poison travelling with them (R299). -/
def putPieces (d : Dev) (site k off a n : Nat) : Dev :=
  (pieces (coreMemBase site k + off) n).foldl (fun d p =>
    let src := 32 * p.1 + p.2.1
    let x := memRead d src p.2.2
    let dst := a + (src - (coreMemBase site k + off))
    agentWrite (bucketFill x.2.2 site dst p.2.2) (.core site k) dst x.1 x.2.1) d

/-- The runs of a PUT with the core-memory offset each is taken from. -/
def putRuns (runs : List (Int × Nat)) (off : Nat) : List ((Int × Nat) × Nat) :=
  (runs.foldl (fun (acc : List ((Int × Nat) × Nat) × Nat) r => (acc.1 ++ [(r, acc.2)], acc.2 + r.2)) ([], off)).1

/-- A PUT moves core memory into its stream (R155, R177, R300); one of KIND 1 leaves under R434 instead. One that meets the live code
range or absent memory writes nothing at all (DESIGN CHOICE, log entry 57). -/
def putDone (d : Dev) (site k i : Nat) : Dev :=
  match copyAt d site k i with
  | none => d
  | some o =>
    if !o.isPut ∨ dscKind o.desc ≠ 0 then d
    else
      let runs := dscRuns o.desc 0 (dscSize o.desc)
      let base : Int := dscPpa o.desc
      if !dscRemote o.desc && runsBlocked d (dscPpa o.desc) runs then d
      else match runs.find? (fun q => if dscRemote o.desc then outOfReach (base + q.1) q.2 else writeBlocked d site k (base + q.1) q.2) with
      | some q => copyEnd (copyFault d site k o fAddr ((base + q.1) % 2 ^ 32).toNat) site k i o
      | none =>
        if dscRemote o.desc then
          let x := cmemRead d site k o.off (dscSize o.desc)
          copyDone ((putRuns runs 0).foldl (fun d q =>
            emit d (.remoteWrite (BitVec.ofNat 11 (dscPackage o.desc)) (BitVec.ofNat 40 (base + q.1.1).toNat)
              ((x.1.drop q.2).take q.1.2))) x.2.2) site k i o
        else copyDone ((putRuns runs o.off).foldl (fun d q => putPieces d site k q.2 (base + q.1.1).toNat q.1.2) d) site k i o

/-! ## PACK (R186) -/

/-- The fields of a PACK parameter block. -/
structure PackBlock where
  choices : Nat
  tokens : Nat
  k : Nat
  stride : Nat
  dests : Nat
  perDest : Nat
  counts : Nat
  list : Nat
  base : Nat
  ctr : Nat
  ctrEn : Bool
  deriving DecidableEq, Repr

def packBlock (x : BitVec 512) : PackBlock :=
  ⟨dfld x 0 32, dfld x 32 32, dfld x 64 8, dfld x 80 16, dfld x 96 16, dfld x 112 16, dfld x 128 32, dfld x 160 32,
   dfld x 192 32, dfld x 224 4, dfld x 228 1 == 1⟩

/-- The bytes of the choice table that PACK reads. -/
def packSpan (p : PackBlock) : Nat := if p.tokens = 0 ∨ p.k = 0 then 0 else ((p.tokens - 1) * p.stride + p.k) * 4

/-- The non-empty choices in order of token, then choice: token and expert. -/
def packChoices (p : PackBlock) (tbl : List Byte) : List (Nat × Nat) :=
  ((List.range p.tokens).flatMap (fun t => (List.range p.k).map (fun j =>
    (t, ofBytes ((tbl.drop ((t * p.stride + j) * 4)).take 4))))).filter (fun c => c.2 ≠ 0xFFFFFFFF)

/-- Whether a choice has a destination. -/
def packInRange (p : PackBlock) (e : Nat) : Bool := p.perDest != 0 && decide (e / p.perDest < p.dests)

/-- The count table and the send list. -/
def packTables (p : PackBlock) (cs : List (Nat × Nat)) : List Byte × List Byte :=
  let dest (t : Nat) : List (Nat × Nat) := cs.filter (fun c => c.2 / p.perDest == t)
  ((List.range p.dests).flatMap (fun t => toBytes 4 (dest t).length),
   (List.range p.dests).flatMap (fun t => (dest t).flatMap (fun c => toBytes 4 (p.base + c.1) ++ toBytes 4 c.2)))

/-- The oldest PACK of a context completes, or faults and writes nothing; a table of no bytes is not accessed (R9, R186). A table out of
core memory or in the live code range raises ADDR_FAULT, and a block with K above 8 or a reserved byte set is carried out as it stands.
(DESIGN CHOICE, log entry 57) -/
def packDone (d : Dev) (site k n : Nat) : Dev :=
  let key := ctxKey site k n
  let c := getCtx d key
  match c.packs with
  | [] => d
  | (x, pc) :: rest =>
    let p := packBlock x
    let d := putCtx d key { c with packs := rest }
    let fault (d : Dev) (code addr : Nat) : Dev := faultCtx d site k n pc (code, 6, addr % 2 ^ 32)
    if packSpan p ≠ 0 ∧ coreMemSize < p.choices + packSpan p then fault d fAddr p.choices
    else
      let r := cmemRead d site k p.choices (packSpan p)
      let cs := packChoices p r.1
      if r.2.1 then fault r.2.2 fPoison p.choices
      else if !cs.all (fun c => packInRange p c.2) then fault r.2.2 fPackRange 0
      else
        let t := packTables p cs
        let bad (o n : Nat) : Bool := n != 0 && (decide (coreMemSize < o + n) || hitsCode r.2.2 site k o n)
        if bad p.counts t.1.length then fault r.2.2 fAddr p.counts
        else if bad p.list t.2.length then fault r.2.2 fAddr p.list
        else
          let d := cmemWrite (cmemWrite r.2.2 site k p.counts t.1) site k p.list t.2
          if p.ctrEn then ctrInc d key p.ctr else d

/-! ## Starting, stopping, holding (R192) -/

/-- CTX_STOP of one context: it issues no further bundle. -/
def ctxStop (d : Dev) (site k n : Nat) : Dev :=
  let key := ctxKey site k n
  let c := getCtx d key
  if c.cstate = .running ∨ c.cstate = .waiting then putCtx d key { c with stopping := true } else d

/-- Whether the operations a context has issued have completed (R173, R192): its PACKs, copies and dockets, the uses whose last byte it has
accessed, and the array operations of the owner. -/
def opsDone (d : Dev) (site k n : Nat) : Bool :=
  let co := getCore d (coreKey site k)
  let c := getCtx d (ctxKey site k n)
  let s := getSorter d site
  let mine (p : Posted) : Bool := !p.triggered && p.core.val == k && p.ctx.val == n
  c.packs.isEmpty && !s.waiting.any mine && !s.dockets.any (fun x => mine x.post)
  && !c.d.any (fun e => e.2.active && decide (dscSize e.2.desc ≤ e.2.pos))
  && !co.copies.any (fun e => match e.2 with | some o => o.ctx.val == n | none => false)
  && (mxOwner d site k != n || (co.queue.isEmpty && co.cur.isNone && co.drain.isNone))

/-- A stopping context becomes HALTED once its operations have completed. -/
def ctxStopped (d : Dev) (site k n : Nat) : Dev :=
  if (getCtx d (ctxKey site k n)).stopping ∧ opsDone d site k n then haltCtx d site k n else d

/-- CTX_GO, CTX_STOP over a mask. -/
def maskFold (mask : Nat) (f : Dev → Nat → Dev) (d : Dev) : Dev :=
  (List.range 16).foldl (fun d n => if tbit mask n then f d n else d) d

end Sys2Proof.Machine
end

