-- ==== Sys2Proof/Machine/Host.lean ====
section
/-!
DEFINITION. The host link (chapter 4): configuration space (R96, R97), link width and state (R93 to R96), BAR2 and the mailbox
table (R98 to R101), rings, doorbells and notes (R104 to R106), host DMA (R107 to R111).
-/
namespace Sys2Proof.Machine

def linkStat : Nat := pgHost + 0xC00
def jobStatReg : Nat := pgHost + 0xC04
def jobState (d : Dev) : Nat := rfld d jobStatReg 0 3
def setJobState (d : Dev) (st : Nat) : Dev := setRfld d jobStatReg 0 3 st
def jsNone : Nat := 0
def jsLoaded : Nat := 1
def jsSealed : Nat := 2
def jsRunning : Nat := 3
def jsEnding : Nat := 4
/-- "While a sealed job runs" (R102). -/
def sealedJob (d : Dev) : Bool := decide (2 ≤ jobState d) && decide (jobState d ≤ 4)

def linkUp (d : Dev) : Bool := d.board.perstN && decide (rfld d linkStat 0 3 ≠ 0)

/-! ## Link (R93 to R96) -/

/-- Half `u` of the host link can train: lanes 0 to 3 the lower, 4 to 7 the upper. -/
def halfGood (d : Dev) (u : Bool) : Bool := bvBit d.board.halves u.toNat
def setHalves (d : Dev) (h : BitVec 3) : Dev := { d with board := { d.board with halves := h } }
/-- The halves whose laser input is good, as they stand once the link may return to ×8 (R24, R95). -/
def litHalves (d : Dev) : BitVec 3 := BitVec.ofNat 3 ((laserGood d (hostLaser 0)).toNat + 2 * (laserGood d (hostLaser 4)).toNat)

/-- The port has trained: rate code 1 to 6, width 8 where both halves can train and the link has not gone to ×4 since it could last return
to ×8, else width 4 on a half that can train (R93, R95). FLIT mode is the mode of 64.0 GT/s alone. (DESIGN CHOICE, log entry 21) -/
def hostTrained (d : Dev) (rate width : Nat) (rev : Bool) : Dev :=
  let ok := if width = 8 then d.board.halves == 3 else width == 4 && halfGood d rev
  if !d.board.perstN ∨ rate = 0 ∨ 6 < rate ∨ !ok then d
  else
    let d := if width = 4 then setHalves d (d.board.halves ||| 4) else d
    setRegN d linkStat (rate + 16 * width + 256 * (rev && width == 4).toNat + 512 * (rate == 6).toNat)

/-- The link falls without PERST_N. -/
def hostDown (d : Dev) : Dev :=
  if !linkUp d then d else raiseErr (setRegN d linkStat 0) pgHost 2 0x101 0 0

/-- The lanes of one half go down: a link that uses them goes on at ×4 on the other half, or is down when that one cannot train (R95).
(DEDUCED, log entry 21) -/
def hostHalfDown (d : Dev) (upper : Bool) : Dev :=
  let d := setHalves d (setBv d.board.halves upper.toNat false)
  let uses := rfld d linkStat 4 4 = 8 ∨ tbit (regN d linkStat) 8 = upper
  if !linkUp d ∨ ¬ uses then d
  else if halfGood d (!upper) then
    raiseErr (setRfld (setRfld (setHalves d (d.board.halves ||| 4)) linkStat 4 4 4) linkStat 8 1 (!upper).toNat) pgHost 1 0x102 0 0
  else hostDown d

/-- The host retrains through Link Control: the link returns to ×8 where both laser inputs are good, and else trains on the half whose
input is (R24, R95). -/
def hostRetrain (d : Dev) : Dev :=
  if !linkUp d then d
  else
    let lit := litHalves d
    if lit = 3 then setRfld (setRfld (setHalves d 3) linkStat 4 4 8) linkStat 8 1 0
    else if lit = 0 then hostDown (setHalves d 4)
    else setRfld (setRfld (setHalves d (lit ||| 4)) linkStat 4 4 4) linkStat 8 1 (lit == 2).toNat

/-- A laser input falls below its threshold: the ports it feeds go down, and the host lanes with them (R24, R95). -/
def laserFail (d : Dev) (i wave power : Nat) : Dev :=
  let was := laserGood d i
  let d := laserLow d i wave power
  match laserHalf i with
  | some u => if was && !laserGood d i then hostHalfDown d u else d
  | none => d
/-- A laser input is good again: its ports come up, and its host lanes can train (R24, R95). -/
def laserBack (d : Dev) (i : Nat) (powers : W32) : Dev :=
  let d := laserRestore d i powers
  match laserHalf i with
  | some u => if laserGood d i then setHalves d (setBv d.board.halves u.toNat true) else d
  | none => d

/-- PERST_N asserts: the PCIe state, the rings and the run-time registers of the HDMA page reset; descriptors in flight end, what
has landed of them open (R96, R105, R111); in a halted package nothing lands any more (R481). A response of a command executing now,
an END that waits for its step boundary too, is discarded. (DEDUCED, log entry 23) -/
def perstAssert (d : Dev) : Dev :=
  if !d.board.pwrOk ∨ !d.board.perstN then d
  else
    let d := (List.range 8).foldl (fun d ch =>
      match (getHdma d ch).cur with
      | some x =>
        if x.toHost || d.board.halted then d
        else
          let n := d.free
          agentWrite { d with free := n + 1 } .hdma x.ppa.toNat ((Config.abandonedDma n).take x.bytes.toNat) false
      | none => d) d
    { d with board := { d.board with perstN := false, halves := litHalves d }
             cfg := [], msixTable := [], pba := [], resp := [], job := { d.job with endTag := none }
             hdma := (List.range 8).foldl (fun m ch =>
               sput hdmaDefault m ch { hdmaDefault 0 with fenced := (sget hdmaDefault m ch).fenced }) d.hdma
             regs := sclear (sclear (sclear d.regs linkStat linkStat) (pgHost + 0xF00) (pgHost + 0xF24)) (pgHdma + 0xF00) (pgHdma + 0xFFC) }
/-- PERST_N goes high: training begins. -/
def perstDeassert (d : Dev) : Dev := if d.board.pwrOk then { d with board := { d.board with perstN := true } } else d

/-! ## Configuration space (R96, R97; what is not there is as PCIe defines, log entry 11) -/

def cfgIndex : CfgReg → Nat
  | .vendorId => 0 | .deviceId => 1 | .classCode => 2 | .revisionId => 3 | .commandReg => cfgCommand
  | .bar _ => 5 | .msixControl => cfgMsix | .pmcsr => 11 | .linkControl => 12 | .linkStatus => 13
  | .msixTable => 14 | .msixPba => 15 | .deviceCap => 16 | .deviceControl => 17 | .deviceCap2 => 18 | .deviceControl2 => 19
  | .aerUncorStatus => 30 | .aerUncorMask => 31 | .aerUncorSeverity => 32 | .aerCorStatus => 33 | .aerCorMask => 34
def cfgBar (i : Nat) : Nat := 20 + i
/-- The writable address bits of a BAR and its fixed low bits. (PRESUMED, log entry 11) -/
def barMask (i : Nat) : Nat × Nat :=
  match i with
  | 0 => (0xF8000000, 0x4)
  | 1 => (0xFFFFFFFF, 0)
  | 2 => (0, 0xC)
  | 3 => (0xFFFFFFFC, 0)
  | _ => (0, 0)
/-- What a register that software may change holds at reset, as a difference from the word stored: a 512-byte read request, the severities
and the masked advisory errors of PCIe. (PRESUMED, log entry 11) -/
def cfgInitial : CfgReg → Nat
  | .deviceControl => 0x2000
  | .aerUncorSeverity => 0x00462030
  | .aerCorMask => 0x00002000
  | _ => 0
/-- MSI-X table and PBA: the low 32 bits of their BAR2 offset, and the number of the BAR; payloads up to 512 bytes; 10-bit tags (R97). -/
def cfgRead (d : Dev) : CfgReg → Nat
  | .vendorId => 0x1F2B
  | .deviceId => 0xA412
  | .classCode => 0x120000
  | .revisionId => pkgLevel d
  | .bar i => cfgReg d (cfgBar i.val) + (barMask i.val).2
  | .msixControl => cfgReg d cfgMsix + 0x3FF
  | .linkStatus => rfld d linkStat 0 3 + 16 * rfld d linkStat 4 4
  | .msixTable => 0xFFFF0002
  | .msixPba => 0xFFFF8002
  | .deviceCap => 0x00008022
  | .deviceCap2 => 0x00030000
  | r => cfgReg d (cfgIndex r) ^^^ cfgInitial r
def setCfg (d : Dev) (i v : Nat) : Dev := { d with cfg := sput zero32 d.cfg i (BitVec.ofNat 32 v) }
/-- A write of configuration space. A power state other than D0 and D3hot and a size out of range are discarded; AER status bits clear on a
1. (PRESUMED, log entry 11) -/
def cfgWrite (d : Dev) (r : CfgReg) (v : Nat) : Dev :=
  match r with
  | .commandReg => setCfg d cfgCommand (v &&& 0x0546)
  | .bar i => setCfg d (cfgBar i.val) (v &&& (barMask i.val).1)
  | .msixControl => msixFlush (setCfg d cfgMsix (v &&& 0xC000))
  | .pmcsr => if v % 4 = 0 ∨ v % 4 = 3 then setCfg d 11 (v % 4) else d
  | .deviceControl => if 2 < fld v 5 3 ∨ 5 < fld v 12 3 then d else setCfg d 17 ((v &&& 0x70EF) ^^^ 0x2000)
  | .deviceControl2 => setCfg d 19 (v &&& 0x1000)
  | .aerUncorStatus => setCfg d 30 (cfgReg d 30 - (cfgReg d 30 &&& v))
  | .aerUncorMask => setCfg d 31 (v &&& 0x047FF030)
  | .aerUncorSeverity => setCfg d 32 ((v &&& 0x047FF030) ^^^ 0x00462030)
  | .aerCorStatus => setCfg d 33 (cfgReg d 33 - (cfgReg d 33 &&& v))
  | .aerCorMask => setCfg d 34 ((v &&& 0x0000F1C1) ^^^ 0x00002000)
  | .linkControl => let d := setCfg d 12 (v &&& 0xC3); if tbit v 5 then hostRetrain d else d
  | _ => d
/-- A configuration request: Request Retry Status until step 5 of R75 is complete. -/
def configRequest (d : Dev) (r : CfgReg) (w : Option W32) : Dev :=
  if !linkUp d then d
  else if d.board.bootStep < 5 then emit d .retryStatus
  else match w with
    | some v => cfgWrite d r v.toNat
    | none => emit d (.cfgValue (BitVec.ofNat 32 (cfgRead d r)))
/-- AER records an uncorrectable error of a request: 15 Completer Abort, 20 Unsupported Request. (PRESUMED, log entry 11) -/
def aerNote (d : Dev) (bit : Nat) : Dev := setCfg d 30 (setBit (cfgReg d 30) bit true)
/-- D0 and memory space on: BARs answer. -/
def barsOpen (d : Dev) : Bool := linkUp d && tbit (cfgReg d cfgCommand) 1 && cfgReg d 11 == 0

/-! ## BAR2 (R98, R99, R101) -/

def msixBase : Nat := 0x3FFFF0000
def pbaBase : Nat := 0x3FFFF8000
def rgnReg (d : Dev) (r off : Nat) : Nat := regN d (pgHost + 0x800 + 0x10 * r + off)
/-- The enabled entry that holds a range of BAR2, and the device address of its start. -/
def mailboxAt (d : Dev) (off len : Nat) : Option (Nat × Nat) :=
  (List.range 64).findSome? (fun r =>
    let b := rgnReg d r 0 * 65536
    let n := rgnReg d r 4 * 65536
    if n ≠ 0 ∧ b ≤ off ∧ off + len ≤ b + n then some (r, rgnReg d r 8 * 65536 + (off - b)) else none)
/-- Some enabled mailbox entry with the right to read, or to write, holds a range of device memory (R99, R101, R109). -/
def tableAllows (d : Dev) (ppa n : Nat) (write : Bool) : Bool :=
  (List.range 64).any (fun r =>
    let a := rgnReg d r 8 * 65536
    let len := rgnReg d r 4 * 65536
    decide (len ≠ 0 ∧ a ≤ ppa ∧ ppa + n ≤ a + len) && tbit (rgnReg d r 12) (if write then 1 else 0))
def mayRead (d : Dev) (r : Nat) : Bool := tbit (rgnReg d r 12) 0
def mayWrite (d : Dev) (r : Nat) : Bool := tbit (rgnReg d r 12) 1

/-- A host access outside the table. (DEDUCED, log entry 46) -/
def bar2Miss (d : Dev) (off : Nat) : Dev :=
  let d := incSat d (pgHost + 0xC0C)
  let d := if tbit (regN d (pgHost + oErrStat)) 8 then d else setReg64 d (pgHost + 0xC10) off
  raiseErr d pgHost 2 0x100 off (off / 2 ^ 32)

/-- A byte of the MSI-X table or the PBA; the rest of their range reads 0. (PRESUMED, log entry 11) -/
def msixByte (d : Dev) (off : Nat) : Byte :=
  if off < msixBase + 0x4000 then
    BitVec.ofNat 8 ((sget msixDefault d.msixTable ((off - msixBase) / 4)).toNat / 2 ^ (8 * (off % 4)))
  else if pbaBase ≤ off ∧ off < pbaBase + 128 then
    BitVec.ofNat 8 (((List.range 8).map (fun i => (sget noFlag d.pba (8 * (off - pbaBase) + i)).toNat * 2 ^ i)).foldl (· + ·) 0)
  else 0

/-- A host read outside the table completes with Unsupported Request. -/
def readMiss (d : Dev) (off : Nat) : Dev := emit (aerNote (bar2Miss d off) 20) .unsupportedRequest
/-- A read through BAR2, once a poison fill of the die read is over (R98, R101, R303). A read that meets an absent range raises the class D
that the memory chapter gives an absent address. (DEDUCED, log entry 46) -/
def bar2Read (d : Dev) (off len : Nat) : Dev :=
  if !barsOpen d then d
  else if msixBase ≤ off then emit d (.completion ((List.range len).map (fun i => msixByte d (off + i))))
  else match mailboxAt d off len with
    | none => readMiss d off
    | some (r, a) =>
      if !mayRead d r then readMiss d off
      else if fillBlocked d a len then { d with fillWait := d.fillWait ++ [.hostRead off len] }
      else if !presentRange d a len then
        emit (aerNote (absentWrite d .host (((pieces a len).find? (fun p => !present d (32 * p.1))).elim a (fun p => 32 * p.1 + p.2.1))) 15)
          .completerAbort
      else
        let x := memRead d a len
        emit x.2.2 (if x.2.1 then .poisonedTlp x.1 else .completion x.1)

/-- Bytes written into the MSI-X table; a vector that may now be sent is sent. (PRESUMED, log entry 11) -/
def msixWrite (d : Dev) (off : Nat) (bs : List Byte) : Dev :=
  msixFlush ((List.range bs.length).foldl (fun d i =>
    let o := off + i
    if o < msixBase + 0x4000 then
      let j := (o - msixBase) / 4
      let w := BitVec.ofNat 32 (setFld (sget msixDefault d.msixTable j).toNat (8 * (o % 4)) 8 (bs.getD i 0).toNat)
      { d with msixTable := sput msixDefault d.msixTable j w }
    else d) d)

def bar2Write (d : Dev) (off : Nat) (bs : List Byte) : Dev :=
  if !barsOpen d then d
  else if msixBase ≤ off then msixWrite d off bs
  else match mailboxAt d off bs.length with
    | none => bar2Miss d off
    | some (r, a) => if mayWrite d r then agentWrite d .host a bs false else bar2Miss d off

/-- The host unmasks a vector: a pending message is sent (R114). -/
def msixUnmask (d : Dev) (v : Nat) : Dev :=
  if !barsOpen d then d
  else
    let w := sget msixDefault d.msixTable (4 * v + 3)
    msixFlush { d with msixTable := sput msixDefault d.msixTable (4 * v + 3) (BitVec.ofNat 32 (setBit w.toNat 0 false)) }

/-! ## Rings (R104, R105) -/

def cqReg (off : Nat) : Nat := pgHost + off
/-- A command waits in the ring. -/
def cmdQueued (d : Dev) : Bool := regN d (cqReg 0xF10) != regN d (cqReg 0xF0C)
/-- A command queued or executing, an END that outlives PERST_N among them, or a response not taken: base and size are held (R105). -/
def ringsBusy (d : Dev) : Bool :=
  cmdQueued d || d.resp != [] || jobState d == jsEnding || regN d (cqReg 0xF24) != regN d (cqReg 0xF20)
/-- A TAIL write of SIZE or more is discarded (R104). -/
def cmdqTail (d : Dev) (v : Nat) : Dev := if v < regN d (cqReg 0xF08) then setRegN d (cqReg 0xF0C) v else d
/-- A write of a SIZE register. One of more than 4,096 entries is discarded (DESIGN CHOICE, log entry 27). -/
def ringSize (d : Dev) (resp : Bool) (v : Nat) : Dev :=
  if ringsBusy d ∨ 4096 < v then d
  else if resp then setRegN (setRegN (setRegN d (cqReg 0xF1C) v) (cqReg 0xF20) 0) (cqReg 0xF24) 0
  else setRegN (setRegN (setRegN d (cqReg 0xF08) v) (cqReg 0xF0C) 0) (cqReg 0xF10) 0
def ringBase (d : Dev) (off v : Nat) : Dev := if ringsBusy d then d else setRegN d (cqReg off) v
/-- The host's consumed index: any value is taken (R104 bounds the TAILs alone). -/
def rspqHead (d : Dev) (v : Nat) : Dev := setRegN d (cqReg 0xF24) v

/-- The 32 bytes of a response. -/
def responseBytes (r : Response) : List Byte :=
  toBytes 4 r.tag.toNat ++ toBytes 2 r.status.toNat ++ toBytes 2 r.opcode.toNat ++ toBytes 4 r.len.toNat ++ toBytes 20 r.result.toNat
/-- COMMAND_RESPONSE: buffer and response are written, the indexes advance, vector 28 is sent; a full ring waits (R104).
(DEDUCED, log entry 27) -/
def commandResponse (d : Dev) : Dev :=
  match d.resp with
  | [] => d
  | r :: rest =>
    let size := regN d (cqReg 0xF1C)
    let tail := regN d (cqReg 0xF20)
    let csize := regN d (cqReg 0xF08)
    if size = 0 ∨ (tail + 1) % size = regN d (cqReg 0xF24) then d
    else
      let d := if r.buf = [] then d else emit d (.hostWrite r.bufAddr r.buf)
      let d := emit d (.hostWrite (BitVec.ofNat 64 (reg64 d (cqReg 0xF14) + 32 * tail)) (responseBytes r))
      let d := setRegN d (cqReg 0xF20) ((tail + 1) % size)
      let d := if csize = 0 then d else setRegN d (cqReg 0xF10) ((regN d (cqReg 0xF10) + 1) % csize)
      msixSend { d with resp := rest } 28
/-- Stage a response that writes a buffer, at the command's BUF_ADDR. -/
def answerAt (d : Dev) (tag : W32) (status opcode len : Nat) (result : BitVec 160) (addr : W64) (buf : List Byte) : Dev :=
  { d with resp := d.resp ++ [⟨tag, BitVec.ofNat 16 status, BitVec.ofNat 16 opcode, BitVec.ofNat 32 len, result, addr, buf⟩] }
/-- Stage a response that writes none. -/
def answer (d : Dev) (tag : W32) (status opcode : Nat) (result : BitVec 160) : Dev := answerAt d tag status opcode 0 result 0 []
/-- The commands in the ring. -/
def cmdCount (d : Dev) : Nat :=
  let size := regN d (cqReg 0xF08)
  if size = 0 then 0 else (regN d (cqReg 0xF0C) + size - regN d (cqReg 0xF10)) % size
/-- The firmware serves the next command: one is queued, none is executing, the firmware runs (R104). (DEDUCED, log entry 27) -/
def cmdReady (d : Dev) : Bool :=
  cmdQueued d && d.resp == [] && jobState d != jsEnding && decide (3 ≤ d.board.bootStep)
/-- ABORT is served behind an END that waits for its step boundary, which it ends too (R116). (DEDUCED, log entry 27) -/
def abortReady (d : Dev) : Bool :=
  if jobState d = jsEnding then decide ((if d.job.endTag.isSome then 2 else 1) ≤ cmdCount d) && d.resp == [] else cmdReady d

/-! ## Doorbells and notes (R106) -/

def jobDbAdd (d : Dev) (n : Nat) (v : W32) : Dev := setReg d (pgHost + 0xF40 + 4 * n) (jobDb d n + v)
def jobNote (d : Dev) (who : Requester) (n : Nat) (v : W32) : Dev := if isJob who then noteAdd d n v else d
/-- A doorbell write takes effect after every BAR2 write before it, one that waits for a poison fill too (R103, R303). -/
def jobDbWrite (d : Dev) (n : Nat) (v : W32) : Dev :=
  let behind (x : FillAccess) : Bool := match x with | .write w _ _ _ => w == .host | _ => false
  if d.fillWait.any behind then { d with fillWait := d.fillWait ++ [.doorbell n v] } else jobDbAdd d n v

/-! ## Host DMA (R107 to R111, R522) -/

def chReg (ch off : Nat) : Nat := pgHdma + 0xF00 + 0x20 * ch + off
def hdmaBusy (d : Dev) (ch : Nat) : Bool := regN d (chReg ch 0x18) != regN d (chReg ch 0x14)
def hdmaTail (d : Dev) (ch v : Nat) : Dev :=
  if v < regN d (chReg ch 0x08) ∧ !(getHdma d ch).fenced then setRegN d (chReg ch 0x14) v else d
/-- A write of COUNT. One of more than 65,536 is discarded (DESIGN CHOICE, log entry 23). -/
def hdmaCount (d : Dev) (ch v : Nat) : Dev :=
  if hdmaBusy d ch ∨ 65536 < v then d
  else
    let d := setRegN (setRegN (setRegN d (chReg ch 0x08) v) (chReg ch 0x14) 0) (chReg ch 0x18) 0
    putHdma d ch { getHdma d ch with alive := 0 }
/-- RING and STAT bases: discarded while the ring is not empty. -/
def hdmaBase (d : Dev) (ch off v : Nat) : Dev := if hdmaBusy d ch then d else setRegN d (chReg ch off) v

/-- A channel starts the next descriptor of its ring. -/
def hdmaStart (d : Dev) (ch : Nat) (x : HdmaDesc) : Dev :=
  let h := getHdma d ch
  if h.cur.isSome ∨ h.fenced ∨ h.stopped ∨ !hdmaBusy d ch ∨ rfld d (pgHdma + 0x800 + 4 * ch) 0 4 = 0 ∨ !linkUp d ∨ !running d pgHdma then d
  else putHdma d ch { h with cur := some x }

/-- A range that lies within the memory of one die (R109). -/
def oneDie (a n : Nat) : Bool :=
  ownerDie a != none && ownerDie (a + n - 1) == ownerDie a && (decide (a < 0xF000000000) == decide (a + n - 1 < 0xF000000000))
/-- The die whose postmark unit checks a descriptor. -/
def hdmaDie (x : HdmaDesc) : Nat := (ownerDie x.ppa.toNat).getD 0
/-- Whether the job's mailbox table permits the range (R109). -/
def hdmaRegion (d : Dev) (x : HdmaDesc) : Bool :=
  !sealedJob d || tableAllows d x.ppa.toNat x.bytes.toNat (!x.toHost)

/-- The check that POSTMARK 17 computes for a descriptor, inverted when INJECT says so; one of a host-to-device descriptor is also
tested there, that of the other direction by the host (R371, R379, R380). -/
def hdmaCheck (d : Dev) (x : HdmaDesc) (bs : List Byte) : Nat × Dev :=
  let a := pgPostmark (hdmaDie x) 17
  let i := injectUnit d a (!x.toHost).toNat
  let d := if i.1.isSome then incSat i.2 (a + 0x834) else i.2
  let c := checkOf x.poly.toNat bs
  (if i.1.isSome then checkInvert x.poly.toNat c else c,
    if x.toHost then d else countEvt (incSat d (a + 0x820)) a 0x1000 0 1)
def hdmaFail (d : Dev) (x : HdmaDesc) : Dev :=
  let a := pgPostmark (hdmaDie x) 17
  countEvt (incSat d (a + 0x824)) a 0x1001 0 1

/-- What a checked host-to-device descriptor comes to: on a mismatch the payload is fetched and written once more, a second one poisons
what was written (R110). -/
def hdmaTested (d : Dev) (ch : Nat) (x : HdmaDesc) (payload refetch : List Byte) : (Nat × Nat × Nat) × Dev :=
  let n := x.bytes.toNat
  let a := x.ppa.toNat
  let c := hdmaCheck d x (payload.take n)
  if c.1 = x.check.toNat then ((1, n, c.1), c.2)
  else
    let d := agentWrite (hdmaFail c.2 x) .hdma a (refetch.take n) false
    let c := hdmaCheck d x (refetch.take n)
    if c.1 = x.check.toNat then ((1, n, c.1), c.2)
    else
      let d := (pieces a n).foldl (fun d p => if present d (32 * p.1) then setPoison d p.1 true else d) (hdmaFail c.2 x)
      ((2, n, c.1), (raise d pgHdma 2 0x101 ch ch 0).2)
/-- The transfer of a descriptor that is carried out: status code, bytes done, check, and what it did (R107 to R110). A zero-byte descriptor
that is checked is a unit of POSTMARK 17 (R372); an absent range gives POISON. -/
def hdmaTransfer (d : Dev) (ch : Nat) (x : HdmaDesc) (payload refetch : List Byte) (hostOk : Bool) : (Nat × Nat × Nat) × Dev :=
  let n := x.bytes.toNat
  let a := x.ppa.toNat
  if n = 0 then ((1, 0, 0), if x.checked then (hdmaCheck d x []).2 else d)
  else if !oneDie a n then ((5, 0, 0), d)
  else if !hdmaRegion d x then ((4, 0, 0), d)
  else if x.toHost then
    let r := if presentRange d a n then memRead d a n else ([], true, d)
    if r.2.1 then ((6, 0, 0), r.2.2)
    else if !hostOk then ((7, 0, 0), r.2.2)
    else
      let c := if x.checked then hdmaCheck r.2.2 x r.1 else (0, r.2.2)
      ((1, n, c.1), emit c.2 (.hostWrite x.hostAddr r.1))
  else if !hostOk then ((7, 0, 0), d)
  else
    let gone := !presentRange d a n
    let d := agentWrite d .hdma a (payload.take n) false
    if gone then ((6, 0, 0), d) else if x.checked then hdmaTested d ch x payload refetch else ((1, n, 0), d)
/-- A descriptor: a matching SEQ advances the alive count whatever follows; then BAD_DESC and SEQ_MISMATCH come before the transfer, and
before a length of zero (R108, R110; the order is a DESIGN CHOICE, log entry 23). -/
def hdmaMove (d : Dev) (ch : Nat) (x : HdmaDesc) (payload refetch : List Byte) (hostOk : Bool) : (Nat × Nat × Nat) × Dev :=
  let h := getHdma d ch
  let hit := x.checked && x.seq == h.alive
  let d := if hit then putHdma d ch { h with alive := h.alive + 1 } else d
  if x.reserved ∨ x.poly = 3 then ((8, 0, 0), d)
  else if x.checked && !hit then ((3, 0, 0), d)
  else hdmaTransfer d ch x payload refetch hostOk

/-- HDMA_DESC_COMPLETE: payload, status entry, HEAD, vector, in this order (R108); a poison fill of the die holds it up (R303). -/
def hdmaComplete (d : Dev) (ch : Nat) (payload refetch : List Byte) (hostOk statusOk : Bool) : Dev :=
  match (getHdma d ch).cur with
  | none => d
  | some x =>
    if fillBlocked d x.ppa.toNat x.bytes.toNat then d
    else
    let r := hdmaMove d ch x payload refetch hostOk
    let d := putHdma r.2 ch { getHdma r.2 ch with cur := none }
    if !statusOk then raiseErr (putHdma d ch { getHdma d ch with stopped := true }) pgHdma 2 0x100 ch 0
    else
      let head := regN d (chReg ch 0x18)
      let entry := toBytes 4 (r.1.1 + 2 ^ 31) ++ toBytes 4 r.1.2.1 ++ toBytes 8 r.1.2.2
      let d := emit d (.hostWrite (BitVec.ofNat 64 (reg64 d (chReg ch 0x0C) + 16 * head)) entry)
      let d := setRegN d (chReg ch 0x18) (if regN d (chReg ch 0x08) = 0 then 0 else (head + 1) % regN d (chReg ch 0x08))
      let d := countEvt (countEvt d pgHdma 0x1000 ch 1) pgHdma 0x1001 ch (ceilDiv r.1.2.1 64)
      if x.irq then msixSend d (20 + ch) else d

/-! ## Re-measurement (R130) -/

def remeasure (d : Dev) (s : Nat) (dieFw stub : Digest) : Dev :=
  if !dieUp d s ∨ (dieFw = d.sealU.dieDigest ∧ stub = d.sealU.stubDigest) then d else raiseX d pgSeal 0x103
/-- The periodic one, which a PERIOD of 0 disables. -/
def remeasurePeriodic (d : Dev) (s : Nat) (dieFw stub : Digest) : Dev :=
  if rfld d (pgSeal + 0x800) 0 8 = 0 then d else remeasure d s dieFw stub

end Sys2Proof.Machine
end

