-- ==== Sys2Proof/Machine/Hbm.lean ====
section
/-!
DEFINITION. HBM and SRAM accesses by name (R285, R286, R296 to R299), scrubbing (R301), the fence of a stack and the poison fill
(R302, R303).
-/
namespace Sys2Proof.Machine

/-- The writer that a memory command names. -/
def memWriter : MemAgent → Writer
  | .die s => .die s.val
  | .postmaster s _ => .die s.val
  | .host => .host
  | .hdma => .hdma
  | .manager => .manager

/-- Disturb the stored symbols and tag of HBM word g. -/
def disturb (d : Dev) (g : Nat) (x : Disturb) : Dev :=
  let e := (List.range 19).map (fun i => ((x.symbols.filter (fun s => s.1.val == i)).map (·.2)).foldl (· ^^^ ·) 0)
  { d with hbmErr := sput noErr d.hbmErr g (errXor (sget noErr d.hbmErr g) e)
           hbmTag := sput noTag d.hbmTag g (sget noTag d.hbmTag g ^^^ x.tag) }

/-- Whether an agent may reach a range of device memory (R99, R109, R286): the host through an enabled mailbox entry alone, the host DMA
through one while a sealed job runs. -/
def agentMay (d : Dev) (a : MemAgent) (ppa n : Nat) (write : Bool) : Bool :=
  match a with
  | .host => barsOpen d && !d.board.halted && tableAllows d ppa n write
  | .hdma => !sealedJob d || tableAllows d ppa n write
  | _ => true
/-- Data read arrives at its agent: a postmaster core that takes data marked poisoned raises PM_POISON on its DIE page (R300). -/
def dataTaken (d : Dev) (a : MemAgent) (ppa : Nat) (bs : List Byte) (poison : Bool) : Dev :=
  let d := emit d (.memData bs poison)
  match a with
  | .postmaster s _ => if poison then raiseErr d (pgDie s.val) 2 0x104 (ppa % 2 ^ 32) (ppa / 2 ^ 32) else d
  | _ => d

/-- An agent reads the 32-byte word at an address of HBM, now; an absent one reads as data marked poisoned (R286, R297).
(DEDUCED, log entry 37) -/
def readNow (d : Dev) (a : MemAgent) (ppa : Nat) (x : Disturb) : Dev :=
  let g := ppa / 32
  match locate d (32 * g) with
  | .hbm _ _ _ =>
    let r := readPiece (disturb d g x) (g, 0, 32) 0
    dataTaken r.2.2 a ppa r.1 r.2.1
  | .absent => dataTaken d a ppa (List.replicate 32 0) true
  | _ => d
/-- An agent that may reads a word of HBM, after a poison fill of its die (R303). -/
def hbmRead (d : Dev) (a : MemAgent) (ppa : Nat) (x : Disturb) : Dev :=
  if !agentMay d a (32 * (ppa / 32)) 32 false then d
  else if fillBlocked d (32 * (ppa / 32)) 32 then { d with fillWait := d.fillWait ++ [.read a ppa x] }
  else readNow d a ppa x

/-- An agent that may writes bytes within HBM: whole words, and merged parts of words (R286, R299). -/
def hbmWrite (d : Dev) (a : MemAgent) (ppa : Nat) (bs : List Byte) (poison : Bool) : Dev :=
  if !agentMay d a ppa bs.length true then d
  else match locate d ppa with
  | .hbm _ _ _ => agentWrite d (memWriter a) ppa bs poison
  | .absent => if bs = [] then d else agentWrite d (memWriter a) ppa bs poison
  | _ => d

/-- An agent that may reads an 8-byte word of a cluster store or a core memory, or writes bytes there; `flips` disturbs the word read
first (R153, R286, R298, R299). -/
def sramAccess (d : Dev) (a : MemAgent) (ppa : Nat) (wr : Option (List Byte)) (poison : Bool) (flips : BitVec 72) : Dev :=
  let word := ppa / 8
  match wr with
  | some bs =>
    if !agentMay d a ppa bs.length true then d
    else match locate d ppa with
    | .store _ _ _ | .cmem _ _ _ => agentWrite d (memWriter a) ppa bs poison
    | .absent => if bs = [] then d else absentWrite d (memWriter a) ppa
    | _ => d
  | none =>
    if !agentMay d a (8 * word) 8 false then d
    else match locate d ppa with
    | .store _ _ _ | .cmem _ _ _ =>
      let d := { d with sramErr := sput noFlip d.sramErr word (sget noFlip d.sramErr word ^^^ flips) }
      let r := readPiece d (word / 4, 8 * (word % 4), 8) 0
      dataTaken r.2.2 a ppa r.1 r.2.1
    | .absent => dataTaken d a ppa (List.replicate 8 0) true
    | _ => d

/-! ## Scrubbing (R301) -/

def scrubKey (site stack : Nat) : Nat := 3 * site + stack
def scrubHours (d : Dev) (site stack : Nat) : Nat := rfld d (pgHbmc site stack + 0x800) 0 8
/-- A scrub read happens: the stack is RUNNING, and a pass is paced by HOURS or runs at full rate. -/
def scrubbing (d : Dev) (site stack : Nat) : Bool :=
  running d (pgHbmc site stack) && (scrubHours d site stack != 0 || sget noFlag d.scrubFull (scrubKey site stack))

/-- The next word of the pass is read; at the end of the stack the pass is counted and a new one begins (R297, R301). -/
def scrubRead (d : Dev) (site stack : Nat) (x : Disturb) : Dev :=
  if !scrubbing d site stack then d
  else
    let page := pgHbmc site stack
    let pos := reg64 d (page + 0x834)
    let g := hbmEncode site stack pos (dieStacks d site) / 32
    let r := hbmReadWord (disturb d g x) page g 2
    let d := countEvt r.2.2 page 0x1003 0 1
    if pos + 32 < stackBytes then setReg64 d (page + 0x834) (pos + 32)
    else
      let d := incSat (setReg64 d (page + 0x834) 0) (page + 0x83C)
      { d with scrubFull := sput noFlag d.scrubFull (scrubKey site stack) false }

/-- SCRUB_NOW.START: the pass begins again at 0 and runs at full rate (R301). -/
def scrubNow (d : Dev) (site stack val : Nat) : Dev :=
  if tbit val 0 ∧ running d (pgHbmc site stack) then
    let d := setReg64 d (pgHbmc site stack + 0x834) 0
    { d with scrubFull := sput noFlag d.scrubFull (scrubKey site stack) true }
  else d

/-! ## A fenced stack (R302, R303) -/

/-- Every word of the die's remaining stacks is poisoned; what was stored there is lost. -/
def poisonDie (d : Dev) (s : Nat) : Dev :=
  let lo := s * hbmSpan / 32
  let hi := (s + 1) * hbmSpan / 32 - 1
  let d := { d with filled := setBv d.filled s true, fillDue := setBv d.fillDue s true
                    hbmErr := sclear d.hbmErr lo hi, hbmTag := sclear d.hbmTag lo hi }
  { d with poison := sclear d.poison lo hi }

/-- A class F of stack k of a die: a die that is RUNNING loses its HBM contents (R303). A stack that fails its training in start-up only
shrinks the map (R76, R302). -/
def stackLost (d : Dev) (s k : Nat) : Dev :=
  if running d (pgDie s) ∧ (rfld d (pgBase + 0x84C) 0 2 ≠ 0 ∨ rfld d (pgHbmc s k + 0x820) 0 1 = 1) then poisonDie d s else d

/-- The remaining controllers begin to write every word poisoned (R303). With none left the accesses that wait are decoded at once. -/
def fillStart (d : Dev) (s : Nat) : Dev :=
  if bvBit d.fillDue s then { d with fillDue := setBv d.fillDue s false, filling := setBv d.filling s true } else d
/-- An access that has waited for a fill is decoded under the new map, or waits on for the fill of another die. -/
def fillServe (d : Dev) (x : FillAccess) : Dev :=
  match x with
  | .write w a bs poison => agentWrite d w a bs poison
  | .read a ppa noise =>
    if fillBlocked d (32 * (ppa / 32)) 32 then { d with fillWait := d.fillWait ++ [x] } else readNow d a ppa noise
  | .hostRead off len => bar2Read d off len
  | .doorbell n v => jobDbWrite d n v
/-- The fill ends, once the stack's page is FENCED and the map has moved: the accesses that waited go on in their order (R303). -/
def fillEnd (d : Dev) (s : Nat) : Dev :=
  if !bvBit d.filling s ∨ dieStacks d s ≠ stacksLeft d s then d
  else d.fillWait.foldl fillServe { d with filling := setBv d.filling s false, fillWait := [] }

/-- STACK_STAT of R309: TRAINED is stored in bit 0, FILL, MAP and PKG_STACK follow the die. -/
def stackStat (d : Dev) (site stack : Nat) : Nat :=
  let page := pgHbmc site stack
  let fill := bvBit d.filling site && (stacksLeft d site).contains stack
  rfld d (page + 0x820) 0 1 + 2 * fill.toNat + 4 * (dieStacks d site).length + 256 * (3 * site + stack)

/-! ## The address-book replica of a die (R470) -/

def replicaKey (site g : Nat) : Nat := 256 * site + g
/-- The manager rewrites a die's replica from the base copy. -/
def replicaRewrite (d : Dev) (site : Nat) : Dev :=
  { d with book := { d.book with damaged := sclear d.book.damaged (replicaKey site 0) (replicaKey site 255) } }

end Sys2Proof.Machine
end

