-- ==== Sys2Proof/Machine/Sorter.lean ====
section
/-!
DEFINITION. A die's Sorter: accepting dockets (R386 to R393), starting them (R389, R392), sending and receiving chunks with
their end-to-end check and alive counts (R371 to R379, R390, R406 to R408), held mail (R411), failure (R412 to R414), and
completion with status record, ledger and digests (R394, R403 to R405, R409, R410).
-/
namespace Sys2Proof.Machine

/-! ## Dockets of a Sorter -/

def findDocket (d : Dev) (s id : Nat) : Option Docket := (getSorter d s).dockets.find? (fun k => k.id == id)
/-- The accepted docket of a class and CSEQ. -/
def docketOf (d : Dev) (s cls : Nat) (cseq : W32) : Option Docket :=
  (getSorter d s).dockets.find? (fun k => dkOp k.post.word != opOptstep && k.klass == cls && k.cseq == cseq)
def putDocket (d : Dev) (s : Nat) (k : Docket) : Dev :=
  let x := getSorter d s
  putSorter d s { x with dockets := x.dockets.map (fun y => if y.id = k.id then k else y) }
def dropDocket (d : Dev) (s id : Nat) : Dev :=
  let x := getSorter d s
  putSorter d s { x with dockets := x.dockets.filter (fun y => y.id != id) }
def nextCseq (d : Dev) (s cls : Nat) : W32 := reg d (pgSorter s + 0xB20 + 4 * cls)
/-- A sequence number at or above another, modulo 2^32. -/
def atOrAbove (a b : W32) : Bool := decide ((a - b).toNat < 2 ^ 31)
/-- The docket's counter increments once it has completed or failed (R181, R426). -/
def docketBump (d : Dev) (s : Nat) (p : Posted) : Dev :=
  if p.ctrEn then ctrInc d (ctxKey s p.core.val p.ctx.val) p.ctr.toNat else d

/-- A DOCKET entry of the trace: STATUS, or 0 at acceptance (R514, R515). -/
def traceDocket (d : Dev) (s : Nat) (w : DocketWord) (cseq status : Nat) : Dev :=
  tracePage d (pgSorter s) 2 status cseq (dkGroup w + 256 * dkOp w)
/-- The twin unit holds a die's Sorter (R450). -/
def sorterHeld (d : Dev) (s : Nat) : Bool := tbit (regN d (pgTwin 0 + 0xA00)) (8 + s)

/-! ## Records (R394, R409, R410) -/

def statUsable (d : Dev) (s a : Nat) : Bool := a % 64 == 0 && dieRange d s a 64
/-- The 64-byte status record. -/
def statusRecord (status cseq origin nanM nanE ovf sent recv number : Nat) : List Byte :=
  toBytes 4 status ++ toBytes 4 cseq ++ toBytes 2 origin ++ toBytes 2 nanM ++ toBytes 4 nanE ++ toBytes 4 ovf ++ toBytes 4 0
  ++ toBytes 8 sent ++ toBytes 8 recv ++ toBytes 8 number ++ toBytes 16 0
/-- A chunk comes before another in ledger order: member, phase, chunk. -/
def recBefore (a b : ChunkRec) : Bool :=
  decide (a.peer < b.peer ∨ (a.peer = b.peer ∧ (a.phase < b.phase ∨ (a.phase = b.phase ∧ a.index < b.index))))
def insertRec (l : List ChunkRec) (c : ChunkRec) : List ChunkRec :=
  l.takeWhile (fun x => recBefore x c) ++ c :: l.dropWhile (fun x => recBefore x c)
/-- A ledger value: CRC-64/ECMA-182 over the CHECK fields in order. -/
def ledgerValue (l : List ChunkRec) : Nat := crc64 ((l.foldl insertRec []).flatMap (fun c => toBytes 8 (chCheck c.header)))
/-- The 32-byte ledger entry. -/
def ledgerEntry (cseq op status sent recv number : Nat) : List Byte :=
  toBytes 4 cseq ++ toBytes 1 op ++ toBytes 1 0 ++ toBytes 2 status ++ toBytes 8 sent ++ toBytes 8 recv ++ toBytes 8 number
def ledgerBase (d : Dev) (s : Nat) : Nat :=
  fld (regN d (pgSorter s + 0x810)) 16 16 * 65536 + rfld d (pgSorter s + 0x814) 0 8 * 2 ^ 32

/-- CRC-64/ECMA-182 continued from a value (R370: it starts from 0 and ends with no XOR). -/
def crc64From (c : Nat) (bs : List Byte) : Nat := bs.foldl (fun c b => crc64Bits 0x42F0E1EBA9EA3693 8 (c ^^^ b.toNat * 2 ^ 56)) c
/-- SENT and RECV of a docket enter its class digest in CSEQ order (R410): those of dockets that none still in progress precedes
enter the base, the others wait behind it. -/
def classDigest (d : Dev) (s cls id : Nat) (bs : List Byte) : Dev :=
  let x := getSorter d s
  let w := x.digWait ++ [(cls, id, bs)]
  let own := w.filter (fun e => e.1 == cls)
  let sorted := own.foldl (fun acc e => acc.takeWhile (fun y => decide (y.2.1 < e.2.1)) ++ e :: acc.dropWhile (fun y => decide (y.2.1 < e.2.1))) []
  let live (e : Nat × Nat × List Byte) : Bool :=
    x.dockets.any (fun k => dkOp k.post.word != opOptstep && k.klass == cls && decide (k.id < e.2.1))
  let ready := sorted.takeWhile (fun e => !live e)
  let rest := sorted.dropWhile (fun e => !live e)
  let base := crc64From (sget zero64 x.digBase cls).toNat (ready.flatMap (·.2.2))
  let d := putSorter d s { x with digBase := sput zero64 x.digBase cls (BitVec.ofNat 64 base), digWait := w.filter (fun e => e.1 != cls) ++ rest }
  setReg64 d (pgSorter s + 0xB60 + 8 * cls) (crc64From base (rest.flatMap (·.2.2)))

/-- Status record, ledger entry and digest of a docket that ends (R394, R409, R410). The docket has left the list. -/
def writeRecords (d : Dev) (s : Nat) (k : Docket) (status origin : Nat) : Dev :=
  let w := dkWord k
  let sent := ledgerValue k.sent
  let recv := ledgerValue k.got
  let cs := k.cseq.toNat
  let rec' := statusRecord status cs origin k.nanMember k.nanElem k.ovf sent recv k.number.toNat
  let d := if statUsable d s (dkStat w) then srtWrite d s (dkStat w) rec' else d
  let d := if tbit (regN d (pgSorter s + 0x800)) 1 then
      srtWrite d s (ledgerBase d s + (64 * dkGroup w + k.number.toNat % 64) * 32) (ledgerEntry cs (dkOp w) status sent recv k.number.toNat)
    else d
  classDigest d s k.klass k.id (toBytes 8 sent ++ toBytes 8 recv)

/-! ## Failure (R413) -/

/-- The SORTER code of a status; an ABORTED docket raises none (R413, R469). -/
def statusCode (status : Nat) (byNotice : Bool) : Option Nat :=
  if status = stAborted then none
  else if byNotice then some 0x105
  else if status = stMismatch then some 0x100
  else if status = stStall then some 0x101
  else if status = stBad then some 0x102
  else if status = stPoison then some 0x103
  else if status = stLength then some 0x104
  else if status = stOverrun then some 0x124
  else if status = stE2e then some 0x120
  else if status = stGap then some 0x121
  else if status = stRetry then some 0x122
  else if status = stLane then some 0x123
  else none

/-- The output ranges of a docket on this member: address and length. -/
def outputRanges (d : Dev) (s : Nat) (k : Docket) : List (Nat × Nat) :=
  let w := dkWord k
  let op := dkOp w
  let c := dkCount w
  let blk := elemBytes (dkItype w) c
  if op = opAllreduce ∨ op = opReduceScatter ∨ (op = opReduce ∧ k.self = dkPeer w) then [(dkDst w, c * outBytes w)]
  else if op = opBroadcast ∨ op = opRecv then [(dkDst w, blk)]
  else if op = opAllgather ∨ op = opAlltoall ∨ op = opAlltoallv then [(dkDst w, dkN d k * blk)]
  else if op = opNorm then [(dkDst w, 8)]
  else if op = opGather then
    (List.range k.place.length).flatMap (fun j => (List.range k.runs).map (fun r =>
      (slotBase d s (dkRegion w) + gatherOff k j r, (k.place.getD j (0, 0, 0)).2.2)))
  else []
/-- Write poison over ranges of memory. -/
def poisonRanges (d : Dev) (s : Nat) (l : List (Nat × Nat)) : Dev :=
  l.foldl (fun d r => agentWrite d (.die s) r.1 (List.replicate r.2 0) true) d

def aliveKey (lane group peer : Nat) : Nat := (lane * 256 + group) * 65536 + peer
def bumpRx (d : Dev) (s lane group peer : Nat) : Dev :=
  let x := getSorter d s
  let k := aliveKey lane group peer
  putSorter d s { x with aliveRx := sput zero32 x.aliveRx k (sget zero32 x.aliveRx k + 1) }

/-- The retry requests of a docket that ends are void, and their chunks' counts are passed (R377). -/
def dropRetries (d : Dev) (s group : Nat) (cseq : W32) : Dev :=
  let x := getSorter d s
  let mine := x.retries.filter (fun r => r.group == group && r.cseq == cseq)
  mine.foldl (fun d r => bumpRx d s r.lane r.group r.peer)
    (putSorter d s { x with retries := x.retries.filter (fun r => !(r.group == group && r.cseq == cseq)) })

/-- FAIL notices to the members a docket exchanges chunks with; to every other member where its plan exchanges none. -/
def sendNotices (d : Dev) (s : Nat) (k : Docket) (status origin : Nat) : Dev :=
  let ex := exchanged (planIn d k)
  let dsts := if ex = [] then (List.range (dkN d k)).filter (· ≠ k.self) else ex
  dsts.foldl (fun d j => emit d (.failNotice s j
    ⟨Fin.ofNat 256 (dkGroup (dkWord k)), k.cseq, BitVec.ofNat 8 status, BitVec.ofNat 16 origin⟩)) d

/-- The qualifier of a docket that is of no overlap class: an OPTSTEP, or one whose group is not known (R388, R507, R511). -/
def noClass : Nat := 256

def docketInfo0 (k : Docket) (status origin : Nat) : Nat :=
  dkGroup (dkWord k) + 256 * k.klass + 4096 * (status % 16) + 65536 * (origin % 65536)

/-- A docket fails with a status (R413). `origin` is where the failure arose, `byNotice` that a FAIL notice told of it.
(DEDUCED, log entry 39) -/
def failDocket (d : Dev) (s : Nat) (k : Docket) (status origin : Nat) (byNotice : Bool) : Dev :=
  let d := traceDocket (dropDocket d s k.id) s (dkWord k) k.cseq.toNat status
  if dkOp (dkWord k) = opOptstep then docketBump (countEvt d (pgSorter s) 0x1002 noClass 1) s k.post
  else
    let d := dropRetries d s (dkGroup (dkWord k)) k.cseq
    let d := if status = stAborted then d else sendNotices d s k status origin
    let d := if status = stBad ∧ !byNotice then d else poisonRanges d s (outputRanges d s k)
    let d := writeRecords d s k status origin
    let d := addSat d (pgSorter s + 0xB08) k.ovf
    let d := countEvt d (pgSorter s) 0x1002 k.klass 1
    let d := match statusCode status byNotice with
      | some c => raiseErr d (pgSorter s) 2 c (docketInfo0 k status origin) k.cseq.toNat
      | none => d
    docketBump d s k.post

/-- A docket of a class and CSEQ fails on its own member; one still to be accepted will. (DEDUCED, log entry 39) -/
def failFor (d : Dev) (s cls group : Nat) (cseq : W32) (status : Nat) : Dev :=
  match docketOf d s cls cseq with
  | some k => if dkGroup (dkWord k) = group then failDocket d s k status k.self false else d
  | none =>
    if atOrAbove cseq (nextCseq d s cls) then
      let x := getSorter d s
      putSorter d s { x with fates := x.fates ++ [⟨cls, group, cseq, status, 0xFFFF, false⟩] }
    else d

/-- Store what a docket has become, or fail it. (DEDUCED, log entry 39) -/
def settleDocket (d : Dev) (s : Nat) (k : Docket) : Dev :=
  let d := putDocket d s k
  if k.doom = 0 then d else failDocket d s k k.doom k.self false

/-! ## Taking chunks in (R390, R399, R407, R408) -/

/-- SEND and RECV are one collective (R401). -/
def chunkOpFits (op chunkOp : Nat) : Bool :=
  if op = opSend then chunkOp == opRecv else if op = opRecv then chunkOp == opSend else chunkOp == op

/-- The transfer of a docket that a chunk belongs to: of its sender, PHASE modulo 256, not yet complete. -/
def xferOf (d : Dev) (k : Docket) (h : BitVec 512) : Option Xfer :=
  (expects (planIn d k)).find? (fun x => x.snd == chSrc h && x.ph % 256 == chPhase h && !complete k x)

def enginePhases (d : Dev) (k : Docket) : Nat := hasPhase (planOf (planIn d k)) + 2

/-- Debug mode with trace of data granted (R146, R516). -/
def dataTraced (d : Dev) : Bool := match d.sealU.debugBits with | some f => f.getLsbD 2 | none => false

/-- A docket in progress takes a tested chunk. -/
def acceptChunk (d : Dev) (s : Nat) (k : Docket) (lane : Nat) (c : Chunk) : Dev :=
  let h := c.header
  match xferOf d k h with
  | none => failDocket d s k stMismatch k.self false
  | some x =>
    let want := expectedTotal d k x
    if chDst h ≠ k.self then failDocket d s k stMismatch k.self false
    else if dkOp (dkWord k) = opAlltoallv ∧ dkCount (dkWord k) < chTotal h then failDocket d s k stOverrun k.self false
    else if want.isSome ∧ want ≠ some (chTotal h) then failDocket d s k stLength k.self false
    else
      let sl := pgSlane s lane
      let d := countEvt (incSat d (sl + 0x804)) sl 0x1001 0 1
      let d := if dataTraced d then traceWrite d s 6 0x26 lane (chIndex h) (chCseq h).toNat (ofBytes (c.payload.take 8)) else d
      let k := { k with got := k.got ++ [⟨x.snd, x.ph, chIndex h, lane, h, c.payload, false⟩] }
      if chPois h then failDocket (putDocket d s k) s k stPoison k.self false
      else
        let adds := match x.item with
          | .part _ | .node => c.payload.length * 8 / Fp.width (sumType (dkWord k))
          | _ => 0
        let d := if adds = 0 then d else countEvt (setReg64 d (sl + 0x808) ((reg64 d (sl + 0x808) + adds) % 2 ^ 48)) sl 0x1002 0 adds
        let r := if chLast h then advance (enginePhases d k) d s k else (d, k)
        settleDocket r.1 s r.2

/-- A docket that meets a chunk of another group or operation fails, and so does the Sorter's docket in progress of the chunk's
group (R390). -/
def mismatch (d : Dev) (s : Nat) (k : Docket) (group : Nat) : Dev :=
  let d := failDocket d s k stMismatch k.self false
  match (getSorter d s).dockets.find? (fun y => y.started && dkOp y.post.word != opOptstep && dkGroup y.post.word == group) with
  | some y => failDocket d s y stMismatch y.self false
  | none => d

def chunkSize (c : Chunk) : Nat := 64 + c.payload.length
def heldMail : Nat := 16777216
def heldBytes (d : Dev) (s : Nat) : Nat := regN d (pgSorter s + 0xB04)
def setHeld (d : Dev) (s n : Nat) : Dev := setRegN d (pgSorter s + 0xB04) n
/-- The name of a chunk on the lane that receives it. -/
def chunkName (lane : Nat) (h : BitVec 512) : Retry := ⟨lane, chGroup h, chSrc h, chCseq h, chPhase h, chIndex h⟩
/-- The message that asks a chunk's sender for it, or holds it. -/
def noticeName (r : Retry) : ChunkName :=
  ⟨Fin.ofNat 256 r.group, r.cseq, BitVec.ofNat 16 r.peer, BitVec.ofNat 8 r.phase, BitVec.ofNat 32 r.index⟩

/-- Put a chunk into held mail, or refuse it with a HOLD notice (R411). -/
def holdChunk (d : Dev) (s : Nat) (lane : Fin 4) (c : Chunk) : Dev :=
  let x := getSorter d s
  let size := heldBytes d s + chunkSize c
  if heldMail < size then
    let r := chunkName lane.val c.header
    emit (putSorter d s { x with refused := x.refused ++ [r] }) (.holdNotice s (noticeName r))
  else countEvt (setHeld (putSorter d s { x with held := x.held ++ [(lane, c)] }) s size) (pgSorter s) 0x1004 0 1

def chunkInfo0 (h : BitVec 512) : Nat := chGroup h + 256 * chClass h + 65536 * chSrc h

/-- Compare a tested chunk with the local docket of its class and CSEQ (R390). (DEDUCED, log entry 38) -/
def placeChunk (d : Dev) (s : Nat) (lane : Fin 4) (c : Chunk) : Dev :=
  let h := c.header
  match docketOf d s (chClass h) (chCseq h) with
  | some k =>
    if dkGroup (dkWord k) ≠ chGroup h ∨ !chunkOpFits (dkOp (dkWord k)) (chOp h) then mismatch d s k (chGroup h)
    else if k.started then acceptChunk d s k lane.val c
    else holdChunk d s lane c
  | none =>
    if atOrAbove (chCseq h) (nextCseq d s (chClass h)) then holdChunk d s lane c
    else raiseErr (incSat d (pgSorter s + 0xB0C)) (pgSorter s) 1 0x108 (chunkInfo0 h) (chCseq h).toNat

/-! ## Check, alive count and retry (R371 to R378) -/

/-- The check of a chunk: payload, then the header with CHECK as 0 (R371). -/
def chunkCheck (poly : Nat) (h : BitVec 512) (payload : List Byte) : Nat :=
  checkOf poly (payload ++ toBytes 64 (setFld h.toNat 256 64 0))
def pgLaneMark (s lane : Nat) : Nat := pgPostmark s (13 + lane)

/-- An outcome of a postmark unit (R375 to R378): recorded on its page for the pair; one that ends a collective never escalates
further. Answers the final class. -/
def markOutcome (d : Dev) (s lane : Nat) (cls code group peer : Nat) (alive : W32) : Nat × Dev :=
  let a := pgLaneMark s lane
  let u := group + 256 * peer
  let e := sget escDefault d.esc (escKey a u)
  let d := { d with esc := sput escDefault d.esc (escKey a u) { e with d := none } }
  raise d a cls code u (group + 65536 * peer) alive.toNat

/-- A retry request is outstanding: the chunk has not yet arrived again with a good check (R376). -/
def outstanding (x : Sorter) (r : Retry) : Bool :=
  x.retries.contains r && !x.reorder.any (fun e => chunkName e.1.val e.2.header == r)

/-- An escalated error of a pair fails the collective in progress for its group (R378): the chunk's own where that is in progress, else
the earliest of the group; with none in progress, the chunk's own. (DEDUCED, log entry 38) -/
def failInProgress (d : Dev) (s cls group : Nat) (cseq : W32) (status : Nat) : Dev :=
  let mine (k : Docket) : Bool := k.started && dkOp k.post.word != opOptstep && dkGroup k.post.word == group
  let l := (getSorter d s).dockets.filter mine
  match l.find? (fun k => k.cseq == cseq), l with
  | some k, _ => failDocket d s k status k.self false
  | none, k :: _ => failDocket d s k status k.self false
  | none, [] => failFor d s cls group cseq status

/-- A chunk fails its check: discarded, and asked for again once (R375). -/
def badCheck (d : Dev) (s lane : Nat) (h : BitVec 512) : Dev :=
  let r := chunkName lane h
  let x := getSorter d s
  let a := chAlive h
  if outstanding x r then
    let d := putSorter d s { x with retries := x.retries.filter (· ≠ r) }
    failFor (bumpRx (markOutcome d s lane 2 0x101 r.group r.peer a).2 s lane r.group r.peer) s (chClass h) r.group r.cseq stE2e
  else
    let o := markOutcome d s lane 1 0x100 r.group r.peer a
    if 2 ≤ o.1 then failInProgress (bumpRx o.2 s lane r.group r.peer) s (chClass h) r.group r.cseq stE2e
    else
      let x := getSorter o.2 s
      let d := putSorter o.2 s { x with retries := x.retries.filter (· ≠ r) ++ [r] }
      emit (incSat d (pgLaneMark s lane + 0x828)) (.retryRequest s (noticeName r))

/-- How many chunks of a sender, docket and phase have been taken in order: accepted, or in held mail. -/
def takenCount (d : Dev) (s : Nat) (h : BitVec 512) : Nat :=
  let r := chunkName 0 h
  ((getSorter d s).held.filter (fun e => chunkName 0 e.2.header == { r with index := chIndex e.2.header })).length +
  match docketOf d s (chClass h) (chCseq h) with
  | some k => match xferOf d k h with
    | some x => (gotOf k x.snd x.ph).length
    | none => chIndex h
  | none => 0
/-- The defined order of the chunks of a pair: CSEQ, phase, index (R374, R408). -/
def orderedBefore (a b : Retry) : Bool :=
  if a.cseq ≠ b.cseq then atOrAbove b.cseq a.cseq
  else if a.phase ≠ b.phase then decide ((b.phase + 256 - a.phase) % 256 < 128)
  else decide (a.index < b.index)
/-- The HBM of a die awaits or runs a poison fill: what its Sorter would read or write there waits (R303). -/
def dieFills (d : Dev) (s : Nat) : Bool := bvBit d.filling s || bvBit d.fillDue s
/-- A chunk that must wait: for an earlier chunk of its sender and phase (R408), behind a requested one of its pair that comes before it
(R377), or for a poison fill (R303). (DEDUCED, log entry 38) -/
def mustWait (d : Dev) (s : Nat) (lane : Fin 4) (h : BitVec 512) : Bool :=
  let r := chunkName lane.val h
  let x := getSorter d s
  let late := (docketOf d s (chClass h) (chCseq h)).isNone && !atOrAbove (chCseq h) (nextCseq d s (chClass h))
  dieFills d s
  || x.retries.any (fun q => q.lane == r.lane && q.group == r.group && q.peer == r.peer && orderedBefore q r)
  || (!late && decide (takenCount d s h < chIndex h))

/-- A chunk's turn has come: its alive count is tested (R374), then it is placed. A chunk refused before has had its count.
(DEDUCED, log entry 38) -/
def takeChunk (d : Dev) (s : Nat) (lane : Fin 4) (c : Chunk) : Dev :=
  let h := c.header
  let r := chunkName lane.val h
  let x := getSorter d s
  let a := pgLaneMark s lane.val
  if x.refused.contains r then
    placeChunk (putSorter d s { x with refused := x.refused.filter (· ≠ r), retries := x.retries.filter (· ≠ r) }) s lane c
  else
    let want := sget zero32 x.aliveRx (aliveKey lane.val r.group r.peer)
    if chAlive h = want then
      placeChunk (bumpRx (putSorter d s { x with retries := x.retries.filter (· ≠ r) }) s lane.val r.group r.peer) s lane c
    else if atOrAbove (chAlive h) want then
      failFor (markOutcome (incSat d (a + 0x830)) s lane.val 2 0x103 r.group r.peer (chAlive h)).2 s (chClass h) r.group r.cseq stGap
    else
      let o := markOutcome (incSat d (a + 0x82C)) s lane.val 1 0x102 r.group r.peer (chAlive h)
      if 2 ≤ o.1 then failInProgress o.2 s (chClass h) r.group r.cseq stGap else o.2

/-- Take every waiting chunk whose turn has come (R377, R408). -/
def drainReorder : Nat → Dev → Nat → Dev
  | 0, d, _ => d
  | n + 1, d, s =>
    let x := getSorter d s
    match x.reorder.findIdx? (fun e => !mustWait d s e.1 e.2.header) with
    | none => d
    | some i =>
      match x.reorder[i]? with
      | none => d
      | some e => drainReorder n (takeChunk (putSorter d s { x with reorder := x.reorder.eraseIdx i }) s e.1 e.2) s
def drain (d : Dev) (s : Nat) : Dev := drainReorder ((getSorter d s).reorder.length + 1) d s

/-- CHUNK_RECEIVE: a reassembled chunk is tested for its check, waits for its turn, and is taken (R371, R407, R408).
(DEDUCED, log entry 38) -/
def chunkReceive (d : Dev) (s : Nat) (lane : Fin 4) (c : Chunk) : Dev :=
  if !running d (pgSorter s) ∧ pageState d (pgSorter s) ≠ stDraining then d
  else
    let h := c.header
    let e := grp d (chGroup h)
    let a := pgLaneMark s lane.val
    let inj := injectUnit d a 1
    let d := if inj.1.isSome then incSat inj.2 (a + 0x834) else inj.2
    let got := if inj.1.isSome then checkInvert (gPoly e) (chCheck h) else chCheck h
    let ok := gEnable e && got == chunkCheck (gPoly e) h c.payload
    let d := countEvt (incSat d (a + 0x820)) a 0x1000 0 1
    let d :=
      if !ok then badCheck (countEvt (incSat d (a + 0x824)) a 0x1001 0 1) s lane.val h
      else if mustWait d s lane h then
        let x := getSorter d s
        let d := putSorter d s { x with reorder := x.reorder ++ [(lane, c)] }
        let sl := pgSlane s lane.val
        setRegN d (sl + 0x814) (max (regN d (sl + 0x814)) (x.reorder.filter (fun q => q.1 == lane)).length.succ)
      else takeChunk d s lane c
    drain d s

/-- RETRY_TIMEOUT: no resent chunk within TIMEOUT (R376). -/
def retryTimeout (d : Dev) (s : Nat) (lane group peer : Nat) : Dev :=
  let x := getSorter d s
  if regN d (pgLaneMark s lane + 0x800) = 0 then d
  else match x.retries.find? (fun r => r.lane == lane && r.group == group && r.peer == peer && outstanding x r) with
    | none => d
    | some r =>
      let want := sget zero32 x.aliveRx (aliveKey lane group peer)
      let d := putSorter d s { x with retries := x.retries.filter (· ≠ r) }
      let d := (markOutcome d s lane 2 0x104 group peer want).2
      drain (failFor (bumpRx d s lane group peer) s (gClass (grp d group)) group r.cseq stRetry) s

/-! ## Sending (R371, R373, R406) -/

/-- The COLL packets a chunk travels as (R406): header and payload in pieces of up to 2,048 bytes. -/
def chunkPackets (d : Dev) (s : Nat) (e : Nat) (c : Chunk) : List Packet :=
  let h := c.header
  let parts := toBytes 64 h.toNat :: chunksOf 2048 (c.payload.length + 1) c.payload
  (List.range parts.length).map (fun i =>
    let b := parts.getD i []
    { dst := BitVec.ofNat 16 (gMember d e (chDst h)), src := BitVec.ofNat 16 (selfWord d s), typ := 5
      flags := if chPois h then 1 else 0, len := BitVec.ofNat 16 b.length, addr := 0, tag := 0, route := 0
      tspec := BitVec.ofNat 96 (chGroup h + 256 * chClass h + 65536 * i + 2 ^ 32 * (chCseq h).toNat + 2 ^ 64 * chIndex h), body := b })

/-- One chunk leaves on a lane, with its check computed and, where INJECT asks for it, inverted (R371, R379). Answers the header
as sent. (DEDUCED, log entry 18) -/
def chunkOut (d : Dev) (s lane : Nat) (e : Nat) (h : BitVec 512) (payload : List Byte) : BitVec 512 × Dev :=
  let a := pgLaneMark s lane
  let poly := gPoly e
  let c := chunkCheck poly h payload
  let inj := injectUnit d a 0
  let d := if inj.1.isSome then incSat inj.2 (a + 0x834) else inj.2
  let h := BitVec.ofNat 512 (setFld h.toNat 256 64 (if inj.1.isSome then checkInvert poly c else c))
  let sl := pgSlane s lane
  (h, emit (countEvt (incSat d (sl + 0x800)) sl 0x1000 0 1) (.chunk s ⟨h, payload⟩ (chunkPackets d s e ⟨h, payload⟩)))

/-- The header of a chunk, CHECK 0 (R407). -/
def chunkHeader (k : Docket) (o : OutChunk) (alive : W32) : BitVec 512 :=
  let w := dkWord k
  let flags := k.klass + 16 * o.pois.toNat + 32 * o.last.toNat + 64 * (decide (o.payload = [])).toNat
  BitVec.ofNat 512 (dkOp w + 2 ^ 8 * dkGroup w + 2 ^ 16 * flags + 2 ^ 24 * (o.phase % 256) + 2 ^ 32 * k.cseq.toNat
    + 2 ^ 64 * k.self + 2 ^ 80 * o.dst + 2 ^ 96 * alive.toNat + 2 ^ 128 * o.index + 2 ^ 160 * o.payload.length
    + 2 ^ 192 * (o.elem % 2 ^ 32) + 2 ^ 224 * (o.total % 2 ^ 32) + 2 ^ 320 * (o.nanE % 2 ^ 32) + 2 ^ 352 * (o.nanM % 65536))

/-- Chunks of a link sent and not yet accepted, as far as this package can tell: a member elsewhere is taken to have accepted
(DEDUCED, log entry 18). -/
def inFlight (d : Dev) (k : Docket) (e rcv : Nat) : Nat :=
  let sent := (k.sent.filter (fun c => c.peer == rcv)).length
  let m := gMember d e rcv
  if fld m 0 11 ≠ selfId d (fld m 11 2) then 0
  else match docketOf d (fld m 11 2) k.klass k.cseq with
    | some y => sent - (y.got.filter (fun c => c.peer == k.self)).length
    | none => if atOrAbove k.cseq (nextCseq d (fld m 11 2) k.klass) then sent else 0

/-- The chunk a docket sends next on a lane, if its link takes one (R406). (DEDUCED, log entry 18) -/
def nextOut (d : Dev) (k : Docket) (lane : Nat) : Option OutChunk :=
  let e := dkEntry d k
  k.todo.find? (fun o => o.lane == lane && decide (inFlight d k e o.dst < gRing e))

/-- CHUNK_SEND: a lane sends the next chunk of the earliest docket that has one for it (R406). -/
def chunkSend (d : Dev) (s lane : Nat) : Dev :=
  let x := getSorter d s
  match x.dockets.find? (fun k => (nextOut d k lane).isSome) with
  | none => d
  | some k =>
    match nextOut d k lane with
    | none => d
    | some o =>
      let e := dkEntry d k
      let ak := aliveKey lane (dkGroup (dkWord k)) o.dst
      let alive := sget zero32 x.aliveTx ak
      let d := putSorter d s { x with aliveTx := sput zero32 x.aliveTx ak (alive + 1) }
      let r := chunkOut d s lane e (chunkHeader k o alive) o.payload
      putDocket r.2 s { k with
        todo := k.todo.erase o
        sent := k.sent ++ [⟨o.dst, o.phase, o.index, lane, r.1, o.payload, false⟩] }

/-- What a docket reads again of a transfer's source in the memory of its die (R375); sums and received data stay as they are. -/
def sourceAgain (d : Dev) (s : Nat) (k : Docket) (x : Xfer) : Dev × Docket :=
  let w := dkWord k
  let p := planIn d k
  let own : Dev × Docket := if dkOp w = opNorm ∧ dkNormSrc w then (d, k) else ownElems d s k
  match x.item with
  | .part sh => if (itemOf k (kPart sh)).isSome then (d, k) else own
  | .node =>
    if (expects p).any (fun y => y.item == .node) then (d, k) else (own.1, putItem own.2 kNode (getItem own.2 kOwn))
  | .raw _ _ =>
    if p.op = opAllgather ∨ k.self = p.root then
      let r := srtRead d (dkSrc w) p.blk
      let v : Elems := ⟨if p.op = opAllgather then k.self * p.blk else 0, r.1.map (·.toNat), r.2.1, []⟩
      (r.2.2, putItem k kBuf (overlayE (getItem k kBuf) v))
    else (d, k)
  | .direct => if dkOp w = opGather then startGather d s { k with doom := 0 } else (d, k)
  | _ => (d, k)
/-- The chunk of a record as the docket forms it now, and the device after its source is read. -/
def chunkAgain (d : Dev) (s : Nat) (k : Docket) (c : ChunkRec) : Dev × Option OutChunk :=
  match (sendsAt (planIn d k) c.phase).find? (fun x => x.rcv == c.peer) with
  | none => (d, none)
  | some x =>
    match x.item with
    | .hdr | .ack | .nan => (d, none)
    | _ =>
      let r := sourceAgain d s k x
      let f := formChunks r.1 { r.2 with todo := [] } x
      (f.1, f.2.todo.find? (fun o => o.index == c.index))

/-- E2E_RETRY_REQUEST: the chunk is read again from its source and sent again once, with a fresh check and its first alive count
(R373, R375, R377). -/
def retryRequest (d : Dev) (s : Nat) (n : ChunkName) : Dev :=
  let hit (c : ChunkRec) : Bool :=
    c.peer == n.peer.toNat && c.phase % 256 == n.phase.toNat && c.index == n.chunk.toNat && !c.again
  match (getSorter d s).dockets.find? (fun k =>
      dkOp k.post.word != opOptstep && dkGroup k.post.word == n.group.val && k.cseq == n.cseq && k.sent.any hit) with
  | none => d
  | some k =>
    match k.sent.find? hit with
    | none => d
    | some c =>
      let a := chunkAgain (incSat d (pgLaneMark s c.lane + 0x828)) s k c
      let h := match a.2 with | some o => chunkHeader k o (chAlive c.header) | none => c.header
      let r := chunkOut a.1 s c.lane (dkEntry d k) h (match a.2 with | some o => o.payload | none => c.payload)
      putDocket r.2 s { k with sent := k.sent.map (fun y => if y = c then { y with again := true } else y) }

/-- HOLD_NOTICE: the sender keeps the chunk (R411). -/
def holdReceived (d : Dev) (s : Nat) (n : ChunkName) : Dev :=
  let x := getSorter d s
  let all := x.past ++ (x.dockets.filter (fun k => dkOp k.post.word != opOptstep)).flatMap (fun k => k.sent.map (fun c => (dkGroup k.post.word, k.cseq, c)))
  match all.find? (fun e => e.1 == n.group.val && e.2.1 == n.cseq && e.2.2.peer == n.peer.toNat
      && e.2.2.phase % 256 == n.phase.toNat && e.2.2.index == n.chunk.toNat) with
  | none => d
  | some e => putSorter d s { x with kept := x.kept.filter (· ≠ e) ++ [e] }

/-- RESUME_NOTICE: the sender sends its kept chunks again (R411). -/
def resumeReceived (d : Dev) (s group : Nat) (cseq : W32) (peer : Nat) : Dev :=
  let x := getSorter d s
  let mine (e : Nat × W32 × ChunkRec) : Bool := e.1 == group && e.2.1 == cseq && e.2.2.peer == peer
  (x.kept.filter mine).foldl (fun d e => (chunkOut d s e.2.2.lane (grp d group) e.2.2.header e.2.2.payload).2)
    (putSorter d s { x with kept := x.kept.filter (fun e => !mine e) })

/-- HELD_EXPIRED: a chunk held longer than the watchdog is discarded (R411). -/
def heldExpired (d : Dev) (s idx : Nat) : Dev :=
  let x := getSorter d s
  if regN d (pgSorter s + 0x804) = 0 then d
  else match x.held[idx]? with
    | none => d
    | some e =>
      let d := setHeld (putSorter d s { x with held := x.held.eraseIdx idx }) s (heldBytes d s - chunkSize e.2)
      raiseErr d (pgSorter s) 1 0x109 (chunkInfo0 e.2.header) (chCseq e.2.header).toNat

/-- FAIL_NOTICE (R413). -/
def failNotice (d : Dev) (s : Nat) (i : FailInfo) : Dev :=
  let cls := gClass (grp d i.group.val)
  match docketOf d s cls i.cseq with
  | some k => if dkGroup (dkWord k) = i.group.val then drain (failDocket d s k i.status.toNat i.origin.toNat true) s else d
  | none =>
    if atOrAbove i.cseq (nextCseq d s cls) then
      let x := getSorter d s
      putSorter d s { x with fates := x.fates ++ [⟨cls, i.group.val, i.cseq, i.status.toNat, i.origin.toNat, true⟩] }
    else d

/-- WATCHDOG_EXPIRE: a docket in progress that has not moved for WATCHDOG_LIVE cycles (R412). -/
def watchdogExpire (d : Dev) (s id : Nat) : Dev :=
  match findDocket d s id with
  | some k =>
    if k.started ∧ dkOp (dkWord k) ≠ opOptstep ∧ regN d (pgSorter s + 0x804) ≠ 0 then drain (failDocket d s k stStall k.self false) s else d
  | none => d

/-- The lane whose DMA met an error response: that of the docket's next chunk, else the lowest lane of its group (DESIGN CHOICE, log entry 47). -/
def dmaLane (d : Dev) (k : Docket) : Nat :=
  match k.todo with
  | o :: _ => o.lane
  | [] => ((gLaneList (dkEntry d k)).head?).getD 0
/-- DOCKET_FAIL: a docket fails on its own member with a status of R394. With POISON, a lane's DMA met an error response: DMA_FAULT on
its SLANE page (R419). (DESIGN CHOICE, log entry 47) -/
def docketFail (d : Dev) (s id status : Nat) : Dev :=
  match findDocket d s id with
  | some k =>
    if 2 ≤ status ∧ status ≤ 12 ∧ dkOp (dkWord k) ≠ opOptstep then
      let d := if status = stPoison then raiseErr d (pgSlane s (dmaLane d k)) 2 0x101 (dkGroup (dkWord k)) k.cseq.toNat else d
      drain (failDocket d s k status k.self false) s
    else d
  | none => d

/-- Dockets whose group names a lane that is fenced fail (R414). -/
def laneDown (d : Dev) (s lane : Nat) : Dev :=
  ((getSorter d s).dockets.filter (fun k => dkOp k.post.word != opOptstep && tbit (gLanes (dkEntry d k)) lane)).foldl
    (fun d k => failDocket d s k stLane k.self false) d
/-- Every docket ends ABORTED (R413: soft reset, END, ABORT), those posted and not yet accepted without a record. -/
def abortDockets (d : Dev) (s : Nat) : Dev :=
  let x := getSorter d s
  let d := x.dockets.foldl (fun d k => failDocket d s k stAborted k.self false) d
  x.waiting.foldl (fun d p => docketBump d s p) (putSorter d s { getSorter d s with waiting := [] })
/-- A die fenced as a whole: its dockets fail LANE_DOWN, with notices and without records (R413). -/
def dieDockets (d : Dev) (s : Nat) : Dev :=
  let x := getSorter d s
  x.dockets.foldl (fun d k => if dkOp (dkWord k) = opOptstep then dropDocket d s k.id
    else dropDocket (sendNotices d s k stLane k.self) s k.id) (putSorter d s { x with waiting := [] })

/-! ## Accepting dockets (R386 to R393) -/

/-- ITYPE and OTYPE of an operation (R393). -/
def typesOk (w : DocketWord) : Bool :=
  let it := dkItype w
  let ot := dkOtype w
  let fl (t : Nat) : Bool := t == 0x2 || t == 0x3 || t == 0x4
  if isRed (dkOp w) then (fl it && fl ot) || (it == 0x9 && ot == 0x9)
  else if dkOp w = opNorm then it == 0x1 && ot == 0x1
  else decide (1 ≤ it ∧ it ≤ 0xB) && ot == it

/-- The ranges a docket names: address, bytes, alignment, and the words of the docket that hold their fields (R392). -/
def docketRanges (w : DocketWord) (n me : Nat) : List (Nat × Nat × Nat × List Nat) :=
  let aux : List Nat := [6, 7]
  let op := dkOp w
  let c := dkCount w
  let it := dkItype w
  let al (t : Nat) : Nat := max 1 (Fp.width t / 8)
  let src (k : Nat) : List (Nat × Nat × Nat × List Nat) := [(dkSrc w, elemBytes it k, al it, [1, 2, 3])]
  let dst (k : Nat) : List (Nat × Nat × Nat × List Nat) := [(dkDst w, elemBytes (outType w) k, al (outType w), [1, 4, 5])]
  let root := me == dkPeer w
  [(dkStat w, 64, 64, [8, 9])] ++
  (if op = opAllreduce then src c ++ dst c
   else if op = opReduceScatter then src (n * c) ++ dst c
   else if op = opAllgather then src c ++ dst (n * c)
   else if op = opBroadcast then (if root then src c else []) ++ dst c
   else if op = opReduce then src c ++ (if root then dst c else [])
   else if op = opAlltoall then src (n * c) ++ dst (n * c)
   else if op = opAlltoallv then [(dkSrc w, 0, al it, [2, 3]), (dkAux w, 16 * n, 1, aux)] ++ dst (n * c)
   else if op = opSend then src c
   else if op = opRecv then dst c
   else if op = opNorm then (if dkNormSrc w then [] else src 1) ++ dst 1
   else if op = opGather then [(dkSrc w, 0, al it, [2, 3]), (dkAux w, 32 + 32 * n, 1, aux)]
   else [])

/-- The checks of R393 on a docket of a known group: whether one fails, and the words of the docket that hold the fields it names.
(DEDUCED, log entry 24) -/
def docketChecks (d : Dev) (s : Nat) (w : DocketWord) (me : Nat) : List (Bool × List Nat) :=
  let e := grp d (dkGroup w)
  let n := gCount e
  let op := dkOp w
  [(op == 0 || decide (13 < op), [0])] ++ dkReservedAt.map (fun f => (dkF w f.1 f.2 != 0, [f.1 / 32])) ++
  [(dkOvf w == 3, [0]),
   (dkNoise w && !(hasFeature d s .noise && tbit (regN d (pgSorter s + 0x800)) 0), [0]),
   (!typesOk w, [0]),
   (dkAcc w && !((op == opAllreduce || op == opReduceScatter) && dkOtype w == 0x2), [0]),
   (dkNormAcc w && (!isRed op || match (getSorter d s).normClass with | some c => c != gClass e | none => false), [0]),
   ((op == opBroadcast || op == opReduce || op == opSend || op == opRecv) && decide (n ≤ dkPeer w), [0, 10]),
   ((op == opSend || op == opRecv) && (n != 2 || dkPeer w == me), [0, 10]),
   ((op == opBarrier && dkCount w != 0) || (op == opNorm && dkCount w != 1), [0, 1]),
   (op == opGather && slotSize d s (dkRegion w) == 0, [0, 10])]
  ++ (docketRanges w n me).map (fun r => (r.1 % r.2.2.1 != 0 || !dieRange d s r.1 r.2.1, r.2.2.2))
/-- What makes a docket of a known group fail with BAD_DOCKET (R393). -/
def docketBad (d : Dev) (s : Nat) (w : DocketWord) (me : Nat) : Bool := (docketChecks d s w me).any (·.1)

/-- A docket that fails before its group is known to contain the Sorter (R388, R394). (DEDUCED, log entry 39) -/
def earlyBad (d : Dev) (s : Nat) (p : Posted) : Dev :=
  let w := p.word
  let d := countEvt (countEvt (traceDocket d s w 0xFFFFFFFF 0) (pgSorter s) 0x1000 noClass 1) (pgSorter s) 0x1002 noClass 1
  let d := if dkOp w ≠ opOptstep ∧ statUsable d s (dkStat w) then
      srtWrite d s (dkStat w) (statusRecord stBad 0xFFFFFFFF 0xFFFF 0xFFFF 0xFFFFFFFF 0 0 0 (2 ^ 64 - 1))
    else d
  docketBump (raiseErr (traceDocket d s w 0xFFFFFFFF stBad) (pgSorter s) 2 0x102 (dkGroup w + 4096 * stBad + 65536 * 0xFFFF) 0xFFFFFFFF) s p

/-- The reading of a group entry from the die's replica (R470): 0 good, 1 corrected, 2 uncorrectable. -/
def replicaRead (d : Dev) (s group replica : Nat) : Dev :=
  if replica = 1 then (raise d pgBook 1 0x100 s 0 0).2
  else if replica = 2 then
    (raise { d with book := { d.book with damaged := sput noFlag d.book.damaged (replicaKey s group) true } } pgBook 2 0x101 s 0 0).2
  else d

def newDocket (id : Nat) (p : Posted) (cseq : W32) (cls self : Nat) (number : W64) : Docket :=
  { id := id, post := p, cseq := cseq, klass := cls, self := self, number := number, started := false, claimed := false
    next := 0, ended := false, got := [], sent := [], todo := [], items := [], place := [], runs := 0, stride := 0
    nanElem := noElem, nanMember := 0xFFFF, ovf := 0, doom := 0, report := [] }

def addDocket (d : Dev) (s : Nat) (k : Docket) : Dev :=
  let x := getSorter d s
  putSorter d s { x with dockets := x.dockets ++ [k], nextId := x.nextId + 1 }

/-- What awaits a docket at its acceptance: a chunk of another group or operation in held mail (R390), or a failure already
known (R413). -/
def checkHeld (d : Dev) (s : Nat) (k : Docket) : Dev :=
  let x := getSorter d s
  let g := dkGroup (dkWord k)
  let wrong := x.held.find? (fun e => chClass e.2.header == k.klass && chCseq e.2.header == k.cseq
    && (chGroup e.2.header != g || !chunkOpFits (dkOp (dkWord k)) (chOp e.2.header)))
  let mine (f : Fate) : Bool := f.klass == k.klass && f.group == g && f.cseq == k.cseq
  let d := putSorter d s { x with fates := x.fates.filter (fun f => !(f.klass == k.klass && f.cseq == k.cseq)) }
  match wrong, x.fates.find? mine with
  | some e, _ => mismatch d s k (chGroup e.2.header)
  | none, some f => failDocket d s k f.status (if f.notice then f.origin else k.self) f.notice
  | none, none => d

/-- Accept a docket (R386 to R388). -/
def acceptDocket (d : Dev) (s : Nat) (p : Posted) (replica : Nat) : Dev :=
  let a := pgSorter s
  let w := p.word
  let d := setRegN d (a + 0xB00) (regN d (a + 0xB00) + 1)
  let entry (d : Dev) (cseq : W32) : Dev := traceDocket d s w cseq.toNat 0
  if dkOp w = opOptstep then
    if w.toNat ≠ opOptstep + dkAux w * 2 ^ 192 ∨ dkAux w % 64 ≠ 0 ∨ !dieRange d s (dkAux w) 128 then earlyBad d s p
    else addDocket (countEvt (entry d 0xFFFFFFFF) a 0x1000 noClass 1) s (newDocket (getSorter d s).nextId p 0xFFFFFFFF 0 0 0)
  else
    let g := dkGroup w
    let d := replicaRead d s g replica
    if sget noFlag d.book.damaged (replicaKey s g) then earlyBad d s p
    else match memberIndex d s g with
      | none => earlyBad d s p
      | some me =>
        let cls := gClass (grp d g)
        let bad := docketBad d s w me
        let cseq := nextCseq d s cls
        let d := setReg d (a + 0xB20 + 4 * cls) (cseq + 1)
        let x := getSorter d s
        let k := newDocket x.nextId p cseq cls me (sget zero64 x.numbers g)
        let d := putSorter d s { x with
          numbers := sput zero64 x.numbers g (sget zero64 x.numbers g + 1)
          normClass := if dkNormAcc w ∧ !bad ∧ x.normClass.isNone then some cls else x.normClass }
        let d := addDocket (countEvt (entry d cseq) a 0x1000 cls 1) s k
        if bad then failDocket d s k stBad me false else checkHeld d s k

/-! ## Starting a docket (R389, R392, R411) -/

/-- The dockets of a class in progress. -/
def inProgress (d : Dev) (s cls : Nat) : Nat :=
  ((getSorter d s).dockets.filter (fun k => dkOp k.post.word != opOptstep && k.klass == cls && k.started)).length
/-- Whether a docket may start now: CSEQ order, at most 4 of its class. -/
def mayStart (d : Dev) (s : Nat) (k : Docket) : Bool :=
  running d (pgSorter s) && !k.started &&
  (dkOp (dkWord k) == opOptstep ||
   (decide (inProgress d s k.klass < 4) &&
    (getSorter d s).dockets.all (fun y => y.started || dkOp y.post.word == opOptstep || y.klass != k.klass || decide (k.id ≤ y.id))))

/-- Take the held chunks of a docket in, and let the senders that were refused resume (R411). -/
def takeHeld (d : Dev) (s : Nat) (k : Docket) : Dev :=
  let x := getSorter d s
  let g := dkGroup (dkWord k)
  let mine (e : Fin 4 × Chunk) : Bool := chClass e.2.header == k.klass && chCseq e.2.header == k.cseq && chGroup e.2.header == g
  let ref := (x.refused.filter (fun r => r.group == g && r.cseq == k.cseq)).map (·.peer) |>.eraseDups
  let l := x.held.filter mine
  let d := putSorter d s { x with held := x.held.filter (fun e => !mine e) }
  let d := setHeld d s (heldBytes d s - (l.map (fun e => chunkSize e.2)).foldl (· + ·) 0)
  let d := ref.foldl (fun d p => emit d (.resumeNotice s g k.cseq p)) d
  l.foldl (fun d e => match findDocket d s k.id with
    | some y => acceptChunk d s y e.1.val e.2
    | none => d) d

/-- A GATHER_DROP takes its slot once it is FREE: USES, FILLING, its own runs placed (R305, R400). -/
def claimSlot (d : Dev) (s : Nat) (k : Docket) : Dev × Docket :=
  let r := dkRegion (dkWord k)
  if k.claimed ∨ k.doom ≠ 0 ∨ slotState d s r ≠ slFree then (d, k)
  else
    let x := getSorter d s
    let d := putSorter d s { x with written := sput (fun _ => []) x.written r [] }
    let d := setRegN d (slotStat s r) (slFilling + 65536 * dkUses (dkWord k))
    let v := getItem k kBuf
    if v.pois then (d, doomed { k with claimed := true } stPoison)
    else (placeGather d s k k.self (v.vals.map (BitVec.ofNat 8)), { k with claimed := true })

/-- The element values a docket supplies, for NOISE (R405). -/
def noiseSource (d : Dev) (k : Docket) : Dev × Docket :=
  let w := dkWord k
  let op := dkOp w
  let c := dkCount w
  let cnt := if op = opAllgather ∨ op = opSend ∨ (op = opBroadcast ∧ k.self = dkPeer w) then c
    else if op = opAlltoall then dkN d k * c else 0
  if !dkNoise w ∨ isRed op ∨ op = opNorm ∨ cnt = 0 ∨ Fp.width (dkItype w) < 8 then (d, k)
  else
    let r := srtRead d (dkSrc w) (elemBytes (dkItype w) cnt)
    (r.2.2, putItem k kOwn ⟨0, valsOf (Fp.width (dkItype w) / 8) r.1, false, []⟩)

/-- A docket of an operation starts (R389, R392). -/
def startDocket (d : Dev) (s id op : Nat) : Dev :=
  match findDocket d s id with
  | none => d
  | some k =>
    if dkOp (dkWord k) ≠ op ∨ dieFills d s then d
    else if !k.started then
      if !mayStart d s k then d
      else if (gLaneList (dkEntry d k)).any (fun l => pageFenced d (pgSlane s l)) then drain (failDocket d s k stLane k.self false) s
      else
        let r := startData d s { k with started := true }
        let r := if r.2.doom = 0 then noiseSource r.1 r.2 else r
        let r := if op = opGather then claimSlot r.1 s r.2 else r
        let r := advance (enginePhases r.1 r.2) r.1 s r.2
        let x := getSorter r.1 s
        let d := if op = opNorm ∧ dkNormSrc (dkWord k) then putSorter r.1 s { x with normClass := none } else r.1
        let d := settleDocket d s r.2
        drain (if r.2.doom = 0 then takeHeld d s r.2 else d) s
    else if op = opGather ∧ !k.claimed then
      let r := claimSlot d s k
      let r := advance (enginePhases r.1 r.2) r.1 s r.2
      drain (settleDocket r.1 s r.2) s
    else d

/-! ## Completing a docket (R394, R403 to R405) -/

/-- Add squares to an FP64 accumulator register with add64, in order. -/
def foldSquares (d : Dev) (a : Nat) (l : List Fp.FVal) : Dev :=
  setReg64 d a (l.foldl (fun acc v => Fp.add64 acc (Fp.encode 0x1 (Fp.mulVal v v).1)) (reg64 d a))
/-- The results a member wrote as owner. -/
def ownedResults (k : Docket) : List Fp.FVal := (getItem k (kY k.self)).vals.map (Fp.decode (outType (dkWord k)))
/-- Its own contribution, converted to FP32. -/
def ownValues (k : Docket) : List Fp.FVal :=
  let w := dkWord k
  let t := if isRed (dkOp w) ∨ dkOp w = opNorm then sumType w else dkItype w
  (getItem k kOwn).vals.map (fun x => Fp.decode 0x2 (Fp.encode 0x2 (Fp.decode t x)))
/-- An earlier docket of the class still has to fold (R405). -/
def foldWaits (d : Dev) (s : Nat) (k : Docket) : Bool :=
  (getSorter d s).dockets.any (fun y => y.klass == k.klass && decide (y.id < k.id) && dkOp y.post.word != opOptstep &&
    ((dkNormAcc y.post.word && dkNormAcc k.post.word) || (dkNoise y.post.word && dkNoise k.post.word)))

/-- The first docket with a NaN since NAN_SEEN was cleared (R403, R415). -/
def noteNanSeen (d : Dev) (s : Nat) (k : Docket) : Dev :=
  let a := pgSorter s
  if k.nanElem = noElem then d
  else
    let d := if tbit (regN d (a + 0xF04)) 0 then d
      else setRegN (setRegN (setRegN d (a + 0xB10) (dkGroup (dkWord k) + 65536 * k.nanMember)) (a + 0xB14) k.nanElem) (a + 0xB18) k.cseq.toNat
    setRegN d (a + 0xF04) 1

/-- DOCKET_COMPLETE: every transfer is made and the results are written; the docket folds, writes its records and counts. -/
def docketComplete (d : Dev) (s id : Nat) : Dev :=
  match findDocket d s id with
  | none => d
  | some k =>
    if !k.ended ∨ k.todo ≠ [] ∨ k.doom ≠ 0 ∨ dkOp (dkWord k) = opOptstep ∨ foldWaits d s k ∨ dieFills d s then d
    else
      let a := pgSorter s
      let w := dkWord k
      let d := if dkNormAcc w then foldSquares d (a + 0xBE0) (ownedResults k) else d
      let d := if dkNoise w then foldSquares d (a + 0xBE8) (ownValues k) else d
      let d := dropRetries (dropDocket d s id) s (dkGroup w) k.cseq
      let d := traceDocket (writeRecords d s k stOk' k.self) s w k.cseq.toNat stOk'
      let x := getSorter d s
      let d := putSorter d s { x with past := x.past ++ k.sent.map (fun c => (dkGroup w, k.cseq, c)) }
      let d := noteNanSeen (addSat d (a + 0xB08) k.ovf) s k
      drain (docketBump (countEvt d a 0x1001 k.klass 1) s k.post) s

/-! ## Registers of the Sorter and its lanes (R415, R416, R418) -/

def normAccClear (d : Dev) (s : Nat) : Dev :=
  putSorter (setReg64 d (pgSorter s + 0xBE0) 0) s { getSorter d s with normClass := none }
def noiseAccClear (d : Dev) (s : Nat) : Dev := setReg64 d (pgSorter s + 0xBE8) 0
/-- Every CLASS_DIGEST takes the value of the empty sequence (R410). -/
def digestsClear (d : Dev) (s : Nat) : Dev :=
  let d := (List.range 16).foldl (fun d c => setReg64 d (pgSorter s + 0xB60 + 8 * c) 0) d
  putSorter d s { getSorter d s with digBase := [], digWait := [] }

/-- GRP_INFO of the group that GRP_SEL names. -/
def grpInfo (d : Dev) (s : Nat) : Nat :=
  let g := rfld d (pgSorter s + 0xF00) 0 8
  let e := grp d g
  (memberIndex d s g).getD 0xFFFF + 65536 * gClass e + 2 ^ 20 * (gEnable e).toNat
/-- ACTIVE of a lane: dockets in progress whose chunks travel on it. -/
def laneActive (d : Dev) (s lane : Nat) : Nat :=
  min 64 ((getSorter d s).dockets.filter (fun k =>
    k.started && dkOp k.post.word != opOptstep && tbit (gLanes (dkEntry d k)) lane)).length

/-- START of a job (R373, R388, R409, R410, R426, R427, R304). -/
def sorterStart (d : Dev) (s : Nat) : Dev :=
  let a := pgSorter s
  let d := (List.range 16).foldl (fun d c => setReg d (a + 0xB20 + 4 * c) 0) d
  let d := digestsClear d s
  let d := (List.range 64).foldl (fun d r => setReg d (slotStat s r) 0) d
  let d := setReg d (a + 0xE80) 0
  let x := getSorter d s
  putSorter d s { x with numbers := [], aliveTx := [], aliveRx := [], held := [], reorder := [], refused := [], kept := [], past := []
                         retries := [], fates := [], fill := [], written := [], trigStop := false }

end Sys2Proof.Machine
end

