-- ==== Sys2Proof/Machine/Gradient.lean ====
section
/-!
DEFINITION. The gradient path (chapter 15): buckets that trigger their own REDUCE_SCATTER (R423 to R429), and post boxes between
dies (R432 to R438).
-/
namespace Sys2Proof.Machine

/-! ## Buckets (R423, R426, R427) -/

def tplSlots (t : Nat) : Nat := fld t 360 16
def tplPeriod (t : Nat) : Nat := fld t 376 32
def tplNormPass (t : Nat) : Nat := fld t 408 16
/-- j of R426. -/
def bucketNext (d : Dev) (s : Nat) : Nat := regN d (pgSorter s + 0xE80)
def slotFill (d : Dev) (s k : Nat) : Nat := sget zeroNat (getSorter d s).fill k
/-- The docket that bucket j's template gives (R426). (DEDUCED, log entry 40) -/
def bucketDocket (t bb j : Nat) : DocketWord :=
  let w : DocketWord := BitVec.ofNat 512 (t % 2 ^ 360)
  let k := j % tplSlots t
  let passNo := j / tplPeriod t
  let norm := tplNormPass t ≠ 0 ∧ passNo % tplNormPass t = tplNormPass t - 1
  let x := setFld w.toNat 64 40 (dkSrc w + k * bb)
  let x := setFld x 128 40 (dkDst w + j % tplPeriod t * dkCount w * (Fp.width (dkOtype w) / 8))
  let x := setFld x 256 40 (dkStat w + 64 * k)
  BitVec.ofNat 512 (setBit x 27 (decide norm))
/-- Triggered dockets accepted and not yet completed. -/
def triggeredOut (d : Dev) (s : Nat) : Nat := ((getSorter d s).dockets.filter (fun k => k.post.triggered)).length
/-- Triggers that wait while the Sorter is held (R450). -/
def triggersHeld (d : Dev) (s : Nat) : Nat := ((getSorter d s).waiting.filter (fun p => p.triggered)).length

/-- The docket of bucket j is accepted: its slot's fill count, j, TRIG_CTR (R426). (DEDUCED, log entry 40) -/
def bucketAccept (d : Dev) (s : Nat) : Dev :=
  let a := pgSorter s
  let t := bucketTemplate d s
  let j := bucketNext d s
  let x := getSorter d s
  let d := putSorter d s { x with fill := sput zeroNat x.fill (j % tplSlots t) 0 }
  let d := countEvt (setRegN d (a + 0xE80) (j + 1)) a 0x1003 0 1
  let core := Fin.ofNat 128 (fld t 424 7)
  let ctx := Fin.ofNat 16 (fld t 431 4)
  let en := tbit t 443
  let d := if en then ctrInc d (ctxKey s core.val ctx.val) (fld t 435 4) else d
  drain (acceptDocket d s ⟨bucketDocket t (bucketBytes d s) j, core, ctx, en, BitVec.ofNat 4 (fld t 439 4), true⟩ 0) s

/-- A slot holds more than bb bytes: triggering stops at once, and BUCKET_OVERFILL is owed (R427). -/
def bucketOver (d : Dev) (s : Nat) : Bool := (getSorter d s).fill.any (fun e => decide (bucketBytes d s < e.2))

/-- BUCKET_TRIGGER: the next slot is full, none is overfilled and fewer than 16 triggered dockets are out; a held Sorter accepts the
docket at its turn after the release (R450). -/
def bucketTrigger (d : Dev) (s : Nat) : Dev :=
  let t := bucketTemplate d s
  let k := (bucketNext d s + triggersHeld d s) % tplSlots t
  if bucketBytes d s = 0 ∨ tplSlots t = 0 ∨ (getSorter d s).trigStop ∨ bucketOver d s ∨ slotFill d s k < bucketBytes d s ∨ 16 ≤ triggeredOut d s
      ∨ !running d (pgSorter s) ∨ tplSlots t ≤ triggersHeld d s then d
  else if sorterHeld d s ∨ triggersHeld d s ≠ 0 then
    let x := getSorter d s
    putSorter d s { x with waiting := x.waiting ++ [⟨0, 0, 0, false, 0, true⟩] }
  else bucketAccept d s

/-- DOCKET_ACCEPT: the docket posted or triggered first is accepted while the Sorter runs and is not held (R48, R181, R388, R450). -/
def docketAccept (d : Dev) (s replica : Nat) : Dev :=
  let x := getSorter d s
  match x.waiting with
  | [] => d
  | p :: rest =>
    if !running d (pgSorter s) ∨ sorterHeld d s ∨ (p.triggered ∧ 16 ≤ triggeredOut d s) then d
    else
      let d := putSorter d s { x with waiting := rest }
      if p.triggered then bucketAccept d s else drain (acceptDocket d s p replica) s

/-- BUCKET_OVERFILL: a fill count above bb stops automatic triggering. -/
def bucketOverfill (d : Dev) (s k : Nat) : Dev :=
  let x := getSorter d s
  if bucketBytes d s = 0 ∨ slotFill d s k ≤ bucketBytes d s ∨ x.trigStop then d
  else raiseErr (putSorter d s { x with trigStop := true }) (pgSorter s) 2 0x10B (k % 256) (bucketNext d s)

/-- BUCKET_FILL: the fill count of slot j mod NBUCKETS. -/
def bucketFillReg (d : Dev) (s : Nat) : Nat :=
  let n := tplSlots (bucketTemplate d s)
  if n = 0 then 0 else slotFill d s (bucketNext d s % n)

/-! ## Post boxes: sending (R434) -/

/-- The begun KIND 1 use of a box that its owner's register holds: register and stream. -/
def boxStream (d : Dev) (s k n b kind : Nat) : Option (Nat × Stream) :=
  (getCtx d (ctxKey s k n)).d.find? (fun e =>
    e.2.active && e.2.begun && dscKind e.2.desc == kind && dscBox e.2.desc == b)
/-- The begun copy of a box: slot and operation. -/
def boxCopy (d : Dev) (s k n b kind : Nat) : Option (Nat × CopyOp) :=
  (getCore d (coreKey s k)).copies.findSome? (fun e => match e.2 with
    | some o => if o.ctx.val = n ∧ o.begun ∧ dscKind o.desc = kind ∧ dscBox o.desc = b then some (e.1, o) else none
    | none => none)

/-- A message leaves in packets of up to 2,048 bytes, and the box's sequence moves on. (DEDUCED, log entry 35) -/
def sendMessage (d : Dev) (s b : Nat) (msg : List Byte) : Dev :=
  let bx := getBox d s b
  let parts := match chunksOf 2048 (msg.length + 1) msg with | [] => [[]] | l => l
  let d := putBox d s b { bx with seq := bx.seq + 1 }
  (List.range parts.length).foldl (fun d i =>
    emit d (.postbox s (pbPacket d s b 0 i bx.seq.toNat msg.length (parts.getD i [])))) d

/-- POSTBOX_SEND: the last packet of the message has entered the egress, and the use completes (R434). (DEDUCED, log entry 35) -/
def postboxSend (d : Dev) (s b : Nat) : Dev :=
  if !boxEnabled d s b ∨ boxReceives d s b then d
  else
    let (k, n) := boxOwner d s b
    let key := ctxKey s k n
    match boxStream d s k n b 1, boxCopy d s k n b 1 with
    | some (r, st), _ =>
      let size := dscSize st.desc
      if st.pos < size then d
      else
        let gap := freeBytes d (size - st.outBytes.length)
        let d := sendMessage gap.2 s b ((st.outBytes ++ gap.1).take size)
        let c := getCtx d key
        let d := putCtx d key (setD c r { dReg c r with active := false, outBytes := [] })
        boxKick (useDone d s key st.desc) s b
    | none, some (i, o) =>
      let x := cmemRead d s k o.off (dscSize o.desc)
      boxKick (copyDone (sendMessage x.2.2 s b x.1) s k i o) s b
    | none, none => d

/-! ## Post boxes: receiving (R433, R435, R437) -/

/-- A packet that a box does not take (R437). -/
def pbStray (d : Dev) (s : Nat) (p : PbPacket) (receives : Bool) : Bool :=
  let b := p.dstBox.toNat
  let peer := boxReg d s b 0xD40
  !boxEnabled d s b || boxReceives d s b != receives || p.srcPkg.toNat != fld peer 0 11 || p.srcSite.toNat != fld peer 11 2
  || p.srcBox.toNat != fld peer 13 4
def strayErr (d : Dev) (s : Nat) (p : PbPacket) : Dev := raiseErr d (pgSorter s) 2 0x10A p.dstBox.toNat p.seq.toNat

/-- Record packet `i` of a message among the messages of a box, kept in sequence order. -/
def storePacket (l : List PbMsg) (seq : W32) (len : Nat) (i : BitVec 16) : List PbMsg :=
  if l.any (fun m => m.seq == seq) then l.map (fun m => if m.seq = seq ∧ !m.packets.contains i then { m with packets := m.packets ++ [i] } else m)
  else l.takeWhile (fun m => pbBelow m.seq seq) ++ ⟨seq, len, [i]⟩ :: l.dropWhile (fun m => pbBelow m.seq seq)
/-- How many messages from sequence `n` on are whole, one after another. -/
def wholeFrom : Nat → List PbMsg → W32 → Nat
  | 0, _, _ => 0
  | fuel + 1, l, n => match l.find? (fun m => m.seq == n) with
    | some m => if pbWhole m then wholeFrom fuel l (n + 1) + 1 else 0
    | none => 0

/-- POSTBOX_DATA: the packet's bytes go into the message's slot; whole messages become present in sequence order (R435). -/
def postboxData (d : Dev) (s : Nat) (p : PbPacket) : Dev :=
  if p.pkind ≠ 0 then d
  else if pbStray d s p true then strayErr d s p
  else
    let b := p.dstBox.toNat
    let bx := getBox d s b
    if pbBelow p.seq bx.seq then d
    else
      let d := srtWrite d s (pbSlotAddr d s b p.seq.toNat + 2048 * p.index.toNat) p.body
      let l := storePacket bx.msgs p.seq p.length.toNat p.index
      let got := wholeFrom (l.length + 1) l bx.seq
      let d := putBox d s b { bx with msgs := l, seq := bx.seq + BitVec.ofNat 32 got }
      boxKick (if got = 0 then d else countEvt d (pgSorter s) 0x1006 b got) s b

/-- POSTBOX_GRANT: the peer's SLOTS as credits, and its slot size (R433). -/
def postboxGrant (d : Dev) (s : Nat) (p : PbPacket) : Dev :=
  if p.pkind ≠ 1 then d
  else if pbStray d s p false then strayErr d s p
  else
    let b := p.dstBox.toNat
    let bx := getBox d s b
    let slots := fld p.length.toNat 0 8
    boxKick (putBox d s b { bx with credits := slots, slots := slots, size := fld p.length.toNat 8 16 }) s b

/-- POSTBOX_CREDIT: returned credits (R435). -/
def postboxCredit (d : Dev) (s : Nat) (p : PbPacket) : Dev :=
  if p.pkind ≠ 2 then d
  else if pbStray d s p false then strayErr d s p
  else
    let b := p.dstBox.toNat
    let bx := getBox d s b
    boxKick (putBox d s b { bx with credits := bx.credits + p.length.toNat }) s b

/-- POSTBOX_RECEIVE_USE: a receive use that has read its whole message completes, and the credit goes back (R435). -/
def postboxReceiveUse (d : Dev) (s b : Nat) : Dev :=
  if !boxEnabled d s b ∨ !boxReceives d s b then d
  else
    let (k, n) := boxOwner d s b
    let key := ctxKey s k n
    match boxStream d s k n b 2, boxCopy d s k n b 2 with
    | some (r, st), _ =>
      if st.pos < dscSize st.desc then d
      else
        let c := getCtx d key
        messageTaken (useDone (putCtx d key (setD c r { dReg c r with active := false })) s key st.desc) s b
    | none, some (i, _) => fetchDone d s k i
    | none, none => d

/-- PB_STAT: credits held or messages present, and the next sequence (R440). -/
def pbStat (d : Dev) (s b : Nat) : Nat :=
  let bx := getBox d s b
  let avail := if boxReceives d s b then (bx.msgs.filter (fun m => pbBelow m.seq bx.seq)).length else bx.credits
  avail % 256 + 65536 * (bx.seq.toNat % 65536)

/-- START: boxes begin at sequence 0, and each receive box grants its slots to its peer (R433). -/
def boxesStart (d : Dev) (s : Nat) : Dev :=
  (List.range 16).foldl (fun d b =>
    let d := putBox d s b (boxDefault 0)
    if boxEnabled d s b ∧ boxReceives d s b then
      emit d (.postbox s (pbPacket d s b 1 0 0 (boxSlots d s b + 256 * (boxSize d s b / 65536)) []))
    else d) d
/-- END and ABORT discard all messages and credits (R438). -/
def boxesEnd (d : Dev) (s : Nat) : Dev := putSorter d s { getSorter d s with boxes := [] }

end Sys2Proof.Machine
end

