-- ==== Sys2Proof/Machine/Counters.lean ====
section
/-!
DEFINITION. Counters, trace and telemetry (chapter 19): EVCTL (R504 to R508), the freeze of a die (R513), MARK and trace entries
(R514 to R518), the telemetry record (R521), the cycles that pass at a tick (R505, R510, R511; DESIGN CHOICE, log entry 12), and the loopback tests
of a die with the test port (R35, R36, R146, R147).
-/
namespace Sys2Proof.Machine

/-! ## Event counters (R504 to R508) -/

def counterClear (d : Dev) (a n : Nat) : Dev := setReg64 d (a + oEvcnt + 8 * n) 0
/-- A write of EVCTL: RUN and FREEZE_OVF are stored, CLEAR clears, OVF is W1C, and a freeze holds over a thaw (R504, R506). -/
def evctlWrite (d : Dev) (a v : Nat) : Dev :=
  let d := (List.range 8).foldl (fun d n => if tbit v (8 + n) then counterClear d a n else d) d
  let old := regN d (a + oEvctl)
  let frozen := if tbit v 16 then true else if tbit v 17 then false else tbit old 18
  let ovf := (List.range 8).foldl (fun m n => if tbit old (24 + n) && !tbit v (24 + n) then m + 2 ^ n else m) 0
  irqAgain (setRegN d (a + oEvctl) (fld v 0 8 + 2 ^ 18 * frozen.toNat + 2 ^ 19 * fld v 19 1 + 2 ^ 24 * ovf)) a
/-- Only the bits of a mask are cleared. -/
def evctlClear (d : Dev) (a mask : Nat) : Dev := (List.range 8).foldl (fun d n => if tbit mask n then counterClear d a n else d) d
def evctlFreeze (d : Dev) (a : Nat) : Dev := setRegN d (a + oEvctl) (setBit (regN d (a + oEvctl)) 18 true)
def evctlThaw (d : Dev) (a : Nat) : Dev := setRegN d (a + oEvctl) (setBit (regN d (a + oEvctl)) 18 false)
def evctlOvfClear (d : Dev) (a mask : Nat) : Dev :=
  irqAgain ((List.range 8).foldl (fun d n =>
    if tbit mask n then setRegN d (a + oEvctl) (setBit (regN d (a + oEvctl)) (24 + n) false) else d) d) a
/-- COUNTER_WRAP: a running counter that stands at 2^48 − 1 counts one event more (R508). -/
def counterWrap (d : Dev) (a n : Nat) : Dev :=
  if evcnt d a n = 2 ^ 48 - 1 ∧ tbit (regN d (a + oEvctl)) n ∧ !frozen d a ∧ ownState d a ≠ stFenced then counterAdd d a n 1 else d

/-- FREEZE_ALL of a die: bit 0 freezes every page of the die, bit 1 thaws; a freeze holds over a thaw (R506, R513). -/
def freezeAll (d : Dev) (s v : Nat) : Dev :=
  if tbit v 0 then (diePages s).foldl evctlFreeze d
  else if tbit v 1 then (diePages s).foldl evctlThaw d
  else d

/-! ## Trace (R514 to R518) -/

def markWrite (d : Dev) (s v : Nat) : Dev := traceWrite d s 5 0 0 0 0 v
/-- TRACE_ENTRY_WRITE: an entry of a kind that a page of the die causes. -/
def traceEntry (d : Dev) (s kind a code seq data : Nat) : Dev :=
  match pageAt a with
  | none => d
  | some l =>
    if l.inBase ∨ l.site ≠ s ∨ kind = 0 ∨ 6 < kind ∨ (kind = 6 ∧ !dataTraced d) then d
    else if kind = 5 then markWrite d s data
    else traceWrite d s kind l.typ.code l.inst code seq data
/-- The 32 bytes of a trace entry; a slot never written holds KIND 0. -/
def traceBytes (e : TraceEntry) : List Byte :=
  toBytes 8 e.loc.toNat ++ toBytes 4 e.number.toNat ++ toBytes 2 e.typ.toNat ++ toBytes 2 e.inst.toNat ++ toBytes 1 e.kind.toNat
  ++ toBytes 1 0 ++ toBytes 2 e.code.toNat ++ toBytes 4 e.seq.toNat ++ toBytes 8 e.data.toNat
/-- RD_DATAw of the slot that RD_INDEX names. -/
def traceData (d : Dev) (s w : Nat) : Nat :=
  bytesAt (traceBytes (sget traceDefault d.trace (traceSlots * s + rfld d (pgTrace s + 0xF00) 0 18))) (4 * w) 4

/-! ## Telemetry (R521) -/

def hottest (d : Dev) (l : List Nat) : Nat := l.foldl (fun m k => max m (reading d k)) 0
/-- The 64-byte record with number `seq`. -/
def telemetryBytes (d : Dev) (seq : Nat) : List Byte :=
  let per (n : Nat) (f : Nat → Nat) : List Byte := (List.range 4).flatMap (fun s => toBytes n (if dieUp d s then f s else 0))
  toBytes 4 seq ++ toBytes 2 (regN d (pgBase + 0x840)) ++ toBytes 2 (rfld d (pgBase + 0xF00) 0 12)
  ++ per 2 (fun s => regN d (pgPmc s + 0x820)) ++ per 2 (fun s => rfld d (pgPmc s + 0x828) 0 12)
  ++ per 2 (fun s => hottest d [68 + 3 * s, 69 + 3 * s, 70 + 3 * s]) ++ toBytes 2 (hottest d [64, 65, 66, 67])
  ++ per 1 (fun s => rfld d (pgPmc s + 0x824) 0 5) ++ toBytes 2 (rfld d (pgBase + 0x848) 0 10) ++ List.replicate 24 0
/-- TELEMETRY_RECORD: the record is written whole. -/
def telemetryRecord (d : Dev) : Dev :=
  let bs := telemetryBytes d d.board.telem
  let d := (List.range 16).foldl (fun d w => setRegN d (pgBase + 0x880 + 4 * w) (bytesAt bs (4 * w) 4)) d
  { d with board := { d.board with telem := d.board.telem + 1 } }
/-- The record as the board reads it: Block Read command 0x20. -/
def telemetryRead (d : Dev) : List Byte := (List.range 16).flatMap (fun w => toBytes 4 (regN d (pgBase + 0x880 + 4 * w)))

/-! ## A tick of 5 ns (R505, R510, R511; DESIGN CHOICE, log entry 12) -/

/-- Cycle-counting sources of one page for the `n` cycles of its clock that pass. (DESIGN CHOICE, log entry 12) -/
def pageTick (d : Dev) (a n : Nat) : Dev :=
  let d := countEvt (countEvt d a 0x0000 0 n) a 0x0002 0 n
  let d := if running d a then countEvt d a 0x0001 0 n else d
  match pageAt a with
  | none => d
  | some l =>
    match l.typ with
    | .pmc => (List.range 16).foldl (fun d c =>
        if clockHalved d l.site c then
          let i := 16 * l.site + c
          countEvt d a 0x1001 c (sget zeroNat (arrayClockNext d) i / 8 - sget zeroNat d.board.arrayClock i / 8)
        else d) d
    | .router => (List.range 50).foldl (fun d p =>
        if siteOfPort p = l.site ∧ (getPort d p).held ≠ [] then countEvt d a 0x1002 p n else d) d
    | .sorter => (List.range 16).foldl (fun d c =>
        let ks := (getSorter d l.site).dockets.filter (fun k => dkOp k.post.word != opOptstep && k.klass == c)
        if ks.any (fun k => !k.started && ks.any (fun y => decide (y.id < k.id))) then countEvt d a 0x1005 c n else d) d
    | _ => d

/-- The pages whose counters are set up, but for the CORE pages, whose array cycles the issue of bundles counts.
(DESIGN CHOICE, log entry 12) -/
def countingPages (d : Dev) : List Nat :=
  (d.regs.filter (fun e => e.1 % 0x1000 == oEvctl && (match pageAt e.1 with | some l => l.typ != .core | none => false))).map
    (fun e => pageBase e.1)
/-- The time of a tick passes: 5 ns, the array cycles of each cluster at its own clock, the running time in units of 2^32 service cycles
(R71, R86, R492). (DESIGN CHOICE, log entry 12) -/
def pass (d : Dev) : Dev :=
  { d with clock := d.clock + 1, board := { d.board with arrayClock := arrayClockNext d }
           flash := { d.flash with life := d.flash.life + BitVec.ofNat 64 (2 * (d.clock + 1) / 2 ^ 32 - 2 * d.clock / 2 ^ 32) } }
/-- One tick: every clock of the package advances by its cycles of 5 ns. (DESIGN CHOICE, log entry 12) -/
def tick (d : Dev) : Dev :=
  let next := pass d
  pass ((countingPages d).foldl (fun e a => pageTick e a (pageCycles next a - pageCycles d a)) d)

/-! ## Loopback (R35, R36) -/

/-- A test starts, or one without blocks is over at once (R36); MODE 0 with blocks starts none. (DEDUCED, log entry 43) -/
def loopStart (d : Dev) (s ctrl count : Nat) : Dev :=
  let d := setRegN d (pgDie s + 0x824) 0
  setRegN d (pgDie s + 0x820) (if count = 0 then 2 else if fld ctrl 0 2 = 0 then 0 else 1)
/-- LOOPBACK_DONE: the errors of the run and where the first one was. (DEDUCED, log entry 43) -/
def loopbackDone (d : Dev) (s errs unit lane : Nat) : Dev :=
  let a := pgDie s + 0x820
  if !tbit (regN d a) 0 then d
  else setRegN (setRegN d (pgDie s + 0x824) errs) a (if errs = 0 then 2 else 6 + 256 * unit + 65536 * lane)
/-- Whether a debug token has granted a feature; bits 3 and 4 in service mode only (R146). -/
def granted (d : Dev) (bit : Nat) : Bool :=
  (match d.sealU.debugBits with | some f => f.getLsbD bit | none => false) && (decide (bit < 3) || d.board.service)
/-- The test port: loopback selection and the boundary scan are always open, further wrapper access where a token opens it; what such an
access reads or sets changes no state that the spec describes (R146, R147). (DEDUCED, log entry 43) -/
def testPort (d : Dev) : TestReq → Dev
  | .loopback s ctrl count => if (dieFact d s.val).fitted then loopStart d s.val ctrl.toNat count.toNat else d
  | .boundaryScan => d
  | .wrapper s => emit d (.wrapper s.val (granted d 3))

end Sys2Proof.Machine
end

