-- ==== Sys2Proof/Machine/Twin.lean ====
section
/-!
DEFINITION. The twin unit (chapter 16): step seals (R449 to R452), recopy (R453, R454), the loss of a twin (R455, R456), joining
and resynchronisation (R457, R458), mirror fences (R459, R460) and the TWIN_CTL actions (R462). The package-level registers of the
two TWIN pages are one set, held on the page of site 0 (R463).
-/
namespace Sys2Proof.Machine

/-! ## States and registers (R463, R464) -/

def twOff : Nat := 0
def twJoining : Nat := 1
def twTwinned : Nat := 2
def twHold : Nat := 3
def twSend : Nat := 4
def twRecv : Nat := 5
def twDiverged : Nat := 6
def twSolo : Nat := 7
def twArmed : Nat := 8
def twResync : Nat := 9

/-- A package-level register of the TWIN pages. -/
def twReg (off : Nat) : Nat := pgTwin 0 + off
def twinState (d : Dev) : Nat := rfld d (twReg 0xA00) 0 4
def setTwinState (d : Dev) (st : Nat) : Dev := setRfld d (twReg 0xA00) 0 4 st
def heldDies (d : Dev) : Nat := rfld d (twReg 0xA00) 8 4
def setHeldDies (d : Dev) (m : Nat) : Dev := setRfld d (twReg 0xA00) 8 4 m
def recopyDies (d : Dev) : Nat := rfld d (twReg 0xA00) 12 4
def setRecopy (d : Dev) (m : Nat) : Dev := setRfld d (twReg 0xA00) 12 4 m
def lastStep (d : Dev) : Nat := reg64 d (twReg 0xA04)
/-- The dies released and not fenced. -/
def upMask (d : Dev) : Nat := (List.range 4).foldl (fun m s => if dieUp d s then m + 2 ^ s else m) 0
def stateList (d : Dev) (s r : Nat) : Nat × Nat :=
  (regN d (twReg (0x900 + 0x40 * s + 8 * r)) * 65536, regN d (twReg (0x904 + 0x40 * s + 8 * r)) * 65536)
/-- The CRC-64 of the state list registers, in the order of their addresses (R454). -/
def listCrc (d : Dev) : Nat :=
  crc64 ((List.range 4).flatMap (fun s => (List.range 8).flatMap (fun r =>
    toBytes 4 (regN d (twReg (0x900 + 0x40 * s + 8 * r))) ++ toBytes 4 (regN d (twReg (0x904 + 0x40 * s + 8 * r))))))

/-- The page that twin errors are raised on (R464). -/
def twinPage (d : Dev) : Nat := if dieUp d 0 then pgTwin 0 else pgTwin 2
/-- A twin error: class, code, CODE, DIES, UNIT, STEP. -/
def twinErr (d : Dev) (cls code what dies unit step : Nat) : Dev :=
  raiseErr d (twinPage d) cls code (what % 256 + 256 * (dies % 16) + 65536 * unit) (step % 2 ^ 32)
/-- The Sorters are released: no die is held (R450, R452). -/
def releaseSorters (d : Dev) : Dev := setHeldDies d 0

/-! ## Fenced units (R457, R460) -/

/-- The kind, site and index of a fence of R460. -/
def unitOf (t : FenceT) : Option (Nat × Nat × Nat) :=
  match t with
  | .die s => some (6, s, 0)
  | .page a =>
    match pageAt a with
    | none => none
    | some l =>
      match l.typ with
      | .core => some (1, l.site, l.inst)
      | .cluster => some (2, l.site, l.inst)
      | .hbmc => some (3, l.site, l.inst)
      | .port => some (4, l.site, l.inst)
      | .slane => some (5, l.site, l.inst)
      | _ => none
  | _ => none
/-- What a notice of R460 names. -/
def unitTarget (kind site index : Nat) : Option FenceT :=
  match kind with
  | 1 => if index < 128 then some (.page (pgCore site index)) else none
  | 2 => if index < 16 then some (.page (pgCluster site index)) else none
  | 3 => if index < 3 then some (.page (pgHbmc site index)) else none
  | 4 => if index < 12 then some (.page (pgPort site index)) else none
  | 5 => if index < 4 then some (.page (pgSlane site index)) else none
  | 6 => if index = 0 then some (.die site) else none
  | _ => none
def unitFenced (d : Dev) (t : FenceT) : Bool :=
  match t with
  | .page a => pageFenced d a
  | .die s => dieFenced d s
  | _ => false
/-- The page of a unit of R460. -/
def unitPage (t : FenceT) : Nat := match t with | .page a => a | .die s => pgDie s | _ => 0
/-- The fenced units in ascending order, three bytes each: kind, site, index. -/
def fencedBytes (d : Dev) : List Byte :=
  ([(1, 128), (2, 16), (3, 3), (4, 12), (5, 4), (6, 1)] : List (Nat × Nat)).flatMap (fun kn =>
    (List.range 4).flatMap (fun s => (List.range kn.2).flatMap (fun i =>
      match unitTarget kn.1 s i with
      | some t => if unitFenced d t then toBytes 1 kn.1 ++ toBytes 1 s ++ toBytes 1 i else []
      | none => [])))
def fencedCrc (d : Dev) : Nat := crc64 (fencedBytes d)

/-- A twin message without payload. -/
def sendTwin (d : Dev) (code a b c : Nat) : Dev := emit d (.twinMsg code (BitVec.ofNat 64 a) (BitVec.ofNat 64 b) (BitVec.ofNat 64 c))
/-- JOIN: LAST_STEP, the state, the CRC of the fenced units (R457). -/
def sendJoin (d : Dev) : Dev := sendTwin d 2 (lastStep d) (twinState d) (fencedCrc d)

/-! ## Seals (R449, R451) -/

def sealF (x : BitVec 768) (byte n : Nat) : Nat := fld x.toNat (8 * byte) (8 * n)
def sealStep (x : BitVec 768) : Nat := sealF x 8 8
def sealMask (x : BitVec 768) : Nat := sealF x 16 1
def sealLedger (x : BitVec 768) (s : Nat) : Nat := sealF x (32 + 8 * s) 8
def sealShard (x : BitVec 768) (s : Nat) : Nat := sealF x (64 + 8 * s) 8
/-- BASE_EVENTS plus all EVENTSd. -/
def sealEvents (x : BitVec 768) : Nat := sealF x 18 2 + ((List.range 4).map (fun s => sealF x (20 + 2 * s) 2)).foldl (· + ·) 0
/-- The dies whose LEDGER or SHARD differ. -/
def sealDiff (x y : BitVec 768) : Nat :=
  (List.range 4).foldl (fun m s => if sealLedger x s ≠ sealLedger y s ∨ sealShard x s ≠ sealShard y s then m + 2 ^ s else m) 0

def stepOf (d : Dev) (s : Nat) : Nat := reg64 d (twReg (0xF10 + 0x10 * s))
def shardDigest (d : Dev) (s : Nat) : Nat := reg64 d (twReg (0xF18 + 0x10 * s))

/-- The 96 bytes of a seal. -/
def sealBytes (d : Dev) (mask step : Nat) : List Byte :=
  let ev (k : Nat) : List Byte := toBytes 2 (min 0xFFFF (sget zeroNat d.twin.events k))
  let per (f : Nat → List Byte) (n : Nat) : List Byte := (List.range 4).flatMap (fun s => if tbit mask s then f s else List.replicate n 0)
  toBytes 4 0x4C535453 ++ toBytes 2 1 ++ toBytes 2 (d.job.packageId.toNat % 1024) ++ toBytes 8 step ++ toBytes 1 mask ++ toBytes 1 0
  ++ ev 4 ++ per ev 2 ++ toBytes 4 0 ++ per (fun s => toBytes 8 (sget zero64 d.twin.ledgers s).toNat) 8
  ++ per (fun s => toBytes 8 (shardDigest d s)) 8
def showSeal (d : Dev) (off : Nat) (x : BitVec 768) : Dev :=
  (List.range 24).foldl (fun d w => setRegN d (twReg (off + 4 * w)) (fld x.toNat (32 * w) 32)) d

/-- A die contributes: its class digests are taken and emptied in one act, and its Sorter is held (R449, R450). -/
def contribute (d : Dev) (s : Nat) : Dev :=
  if !dieUp d s ∨ bvBit d.twin.given s then d
  else
    let digests := (List.range 16).flatMap (fun c => toBytes 8 (reg64 d (pgSorter s + 0xB60 + 8 * c)))
    let d := digestsClear d s
    let d := { d with twin := { d.twin with given := setBv d.twin.given s true
                                            ledgers := sput zero64 d.twin.ledgers s (BitVec.ofNat 64 (crc64 digests)) } }
    setHeldDies d (setBit (heldDies d) s true)

/-! ## Verdict and recopy (R452 to R454, R458) -/

/-- A verdict other than MATCH. -/
def verdictReg (d : Dev) (code diff reason : Nat) : Dev :=
  let d := setRegN d (twReg 0xA0C) (code + 16 * diff + 256 * reason)
  if code = 1 then d else incSat d (twReg 0xA14)

/-- The package sends nothing more of a recopy, or gets no more: it is DIVERGED (R454). -/
def recopyFail (d : Dev) (what : Nat) : Dev :=
  let dies := recopyDies d
  let d := twinErr d 2 0x10A what dies 0 (lastStep d)
  let d := setRecopy (setTwinState d twDiverged) 0
  { d with twin := { d.twin with resync := none, joiner := false } }

/-- The bytes of one die's ranges in packets of up to 2,048: range, offset, address. -/
def recopyPlan (d : Dev) (s : Nat) : List (Nat × Nat × Nat) :=
  (List.range 8).flatMap (fun r =>
    let x := stateList d s r
    (List.range (x.2 / 2048)).map (fun i => (r, 2048 * i, x.1 + 2048 * i)))
/-- Send one die; a poisoned word is sent flagged and ends it. Answers the CRC of what was sent and whether it stopped. -/
def sendDie (d : Dev) (s : Nat) : Nat × Bool × Dev :=
  (recopyPlan d s).foldl (fun acc p =>
    if acc.2.1 then acc
    else
      let x := memRead acc.2.2 p.2.2 2048
      let d := emit x.2.2 (.recopyData s p.1 p.2.1 x.1 x.2.1)
      let d := setReg64 d (twReg 0xA18) ((reg64 d (twReg 0xA18) + 2048) % 2 ^ 64)
      (crc64From acc.1 x.1, x.2.1, d)) (0, false, d)
/-- The sender's side of a recopy (R454 steps 1 and 3). -/
def sendRecopy (d : Dev) (dies : Nat) : Dev :=
  let d := sendTwin (setRecopy (setTwinState d twSend) dies) 3 dies (listCrc d) 0
  let r := (List.range 4).foldl (fun acc s =>
    if !tbit dies s ∨ acc.1 then acc
    else
      let x := sendDie acc.2 s
      if x.2.1 then (true, x.2.2) else (false, sendTwin x.2.2 5 x.1 s 0)) (false, d)
  if r.1 then recopyFail r.2 4 else r.2

/-- The verdict on two seals (R452). -/
def decideSeals (d : Dev) (own peer : BitVec 768) : Dev :=
  let d := { d with twin := { d.twin with peerSeal := none } }
  let diff := sealDiff own peer
  let step := sealStep own
  let mine := sealEvents own
  let theirs := sealEvents peer
  let diverged (reason dies : Nat) : Dev :=
    twinErr (setTwinState (verdictReg d 4 diff reason) twDiverged) 2 0x108 reason dies 0 step
  if step ≠ sealStep peer then diverged 1 diff
  else if sealMask own ≠ sealMask peer then diverged 2 diff
  else if diff = 0 then releaseSorters (setTwinState (verdictReg d 1 0 0) twTwinned)
  else if mine ≠ 0 ∧ theirs = 0 then
    let d := setRecopy (setTwinState (verdictReg d 3 diff 0) twRecv) diff
    { d with twin := { d.twin with recopyCrc := 0 } }
  else if mine = 0 ∧ theirs ≠ 0 then sendRecopy (verdictReg d 2 diff 0) diff
  else diverged 3 diff

/-- The twin's seal at hand is compared once this package holds its own (R452). -/
def compareSeals (d : Dev) : Dev :=
  if twinState d ≠ twHold then d
  else match d.twin.ownSeal, d.twin.peerSeal with
    | some o, some p => decideSeals d o p
    | _, _ => d

/-- The survivor's own seal while it waits for a resynchronisation (R458). -/
def armedSeal (d : Dev) (x : BitVec 768) : Dev :=
  if d.twin.resync ≠ some (BitVec.ofNat 64 (sealStep x)) then releaseSorters d
  else if d.twin.peerJoined then sendRecopy (emit d (.twinSeal x)) (sealMask x)
  else
    let d := twinErr d 2 0x10A 2 (sealMask x) 0 (sealStep x)
    releaseSorters (setTwinState { d with twin := { d.twin with resync := none } } twSolo)

/-- Every die that takes part has contributed: the seal is formed (R449, R451, R456, R458). -/
def formSeal (d : Dev) : Dev :=
  let mask := d.twin.given.toNat
  let dies := (List.range 4).filter (tbit mask)
  let step := match dies with | s :: _ => stepOf d s | [] => 0
  let d0 := { d with twin := { d.twin with given := 0 } }
  if dies.any (fun s => stepOf d s != step) then
    let d := setTwinState (verdictReg d0 4 0 1) twDiverged
    twinErr d 2 0x10B 1 mask 0 step
  else
    let x : BitVec 768 := BitVec.ofNat 768 (ofBytes (sealBytes d mask step))
    let d := { d0 with twin := { d0.twin with ownSeal := some x, events := [] } }
    let d := setReg64 (incSat (showSeal d 0xB00 x) (twReg 0xA10)) (twReg 0xA04) step
    let st := twinState d
    if st = twTwinned then compareSeals (setTwinState (emit d (.twinSeal x)) twHold)
    else if st = twSolo then releaseSorters d
    else if st = twArmed then armedSeal d x
    else d
/-- Form the seal once no die is missing. -/
def trySeal (d : Dev) : Dev :=
  if twinState d ≠ twOff ∧ d.twin.given ≠ 0 ∧ (List.range 4).all (fun s => !dieUp d s || bvBit d.twin.given s) then formSeal d else d

/-- SEAL_GO: bits name the dies that contribute (R449). -/
def sealGo (d : Dev) (dies : Nat) : Dev :=
  if twinState d = twOff then d
  else trySeal ((List.range 4).foldl (fun d s => if tbit dies s then contribute d s else d) d)

/-- TWIN_SEAL: the twin's seal arrives. -/
def twinSeal (d : Dev) (x : BitVec 768) : Dev :=
  if twinState d = twOff then d
  else compareSeals { showSeal d 0xB80 x with twin := { d.twin with peerSeal := some x } }

/-- RECOPY_BEGIN: the receiver compares the state lists; a JOINING package becomes the receiver (R454, R458). (DEDUCED, log entry 20) -/
def recopyBegin (d : Dev) (mask crc : Nat) : Dev :=
  let st := twinState d
  if st ≠ twRecv ∧ st ≠ twJoining then d
  else
    let d := if st = twJoining then
        setTwinState { d with twin := { d.twin with joiner := true } } twRecv
      else d
    let d := setRecopy { d with twin := { d.twin with recopyCrc := 0 } } mask
    if crc = listCrc d then d else recopyFail (sendTwin d 6 1 0 0) 3

/-- RECOPY_DATA: the bytes are written clean within their range (R453, R454). (DEDUCED, log entry 20) -/
def recopyData (d : Dev) (s r off : Nat) (bs : List Byte) (poison : Bool) : Dev :=
  if twinState d ≠ twRecv ∨ !tbit (recopyDies d) s then d
  else if poison then recopyFail d 4
  else
    let x := stateList d s r
    let bs := bs.take (x.2 - off)
    let d := agentWrite d .manager (x.1 + off) bs false
    let d := setReg64 d (twReg 0xA18) ((reg64 d (twReg 0xA18) + bs.length) % 2 ^ 64)
    { d with twin := { d.twin with recopyCrc := BitVec.ofNat 64 (crc64From d.twin.recopyCrc.toNat bs) } }

/-- The receiver's seal takes the sender's values for the dies of a recopy (R454 step 5). -/
def adoptSeal (own peer : BitVec 768) (dies : Nat) : BitVec 768 :=
  BitVec.ofNat 768 ((List.range 4).foldl (fun x s =>
    if tbit dies s then
      setFld (setFld x (8 * (32 + 8 * s)) 64 (sealLedger peer s)) (8 * (64 + 8 * s)) 64 (sealShard peer s)
    else x) own.toNat)
/-- The twin's seal that TWIN_SEAL shows. -/
def shownPeer (d : Dev) : BitVec 768 :=
  BitVec.ofNat 768 ((List.range 24).foldl (fun x w => x + regN d (twReg (0xB80 + 4 * w)) * 2 ^ (32 * w)) 0)

/-- The end of a recopy on the receiver: TWINNED, or RESYNC_HOLD for a joiner, whose LAST_STEP becomes the survivor's step
(R454, R458; DEDUCED, log entry 20). -/
def recopyDone (d : Dev) : Dev :=
  let dies := recopyDies d
  let peer := shownPeer d
  let d := setRecopy d 0
  if d.twin.joiner then
    let d := setReg64 d (twReg 0xA04) (sealStep peer)
    setTwinState { d with twin := { d.twin with joiner := false, peerSeal := none } } twResync
  else
    let d := match d.twin.ownSeal with
      | some o =>
        let x := adoptSeal o peer dies
        showSeal { d with twin := { d.twin with ownSeal := some x } } 0xB00 x
      | none => d
    releaseSorters (setTwinState d twTwinned)

/-- RECOPY_END of one die: its CRC is compared; after the last die of the recopy the receiver answers status 0 (R454).
(DEDUCED, log entry 20) -/
def recopyEnd (d : Dev) (s crc : Nat) : Dev :=
  let dies := recopyDies d
  if twinState d ≠ twRecv ∨ !tbit dies s then d
  else if crc ≠ d.twin.recopyCrc.toNat then recopyFail (sendTwin d 6 2 0 0) 5
  else
    let d := { d with twin := { d.twin with recopyCrc := 0 } }
    if (List.range 4).any (fun t => decide (s < t) && tbit dies t) then d
    else recopyDone (sendTwin d 6 0 0 0)

/-- RECOPY_ACK at the sender. (DEDUCED, log entry 20) -/
def recopyAck (d : Dev) (status : Nat) : Dev :=
  if twinState d ≠ twSend then d
  else if status ≠ 0 then recopyFail d 6
  else
    let d := setRecopy d 0
    if d.twin.resync.isSome then setTwinState { d with twin := { d.twin with resync := none, peerSeal := none } } twResync
    else releaseSorters (setTwinState d twTwinned)

/-! ## The loss of a twin (R455, R456) -/

/-- The Sorters that SOLO does not hold: those of dies that have not contributed to the next seal. -/
def enterSolo (d : Dev) (what : Nat) : Dev :=
  let st := twinState d
  let d := twinErr d 2 0x109 what (heldDies d) 0 (lastStep d)
  if st = twSend ∨ st = twRecv then recopyFail d what
  else
    let d := setHeldDies (setTwinState d twSolo) d.twin.given.toNat
    { d with twin := { d.twin with peerSeal := none, sentFences := [] } }
/-- A state in which a loss makes the package enter SOLO. -/
def canLose (d : Dev) : Bool :=
  let st := twinState d
  st != twOff && st != twSolo && st != twArmed

/-- STOPPED (R455). -/
def twinStopped (d : Dev) : Dev := if canLose d then enterSolo d 9 else d
/-- SEAL_WAIT has passed since the own seal was sent. -/
def sealWaitExpire (d : Dev) : Dev :=
  if twinState d = twHold ∧ rfld d (twReg 0x880) 0 16 ≠ 0 then enterSolo d 1 else d
/-- A twin port is UP or in RETRAIN (R366). -/
def twinPortUp (d : Dev) : Bool :=
  [48, 49].any (fun n => let st := rfld d (pgOfPort n + 0x840) 0 4; st == 7 || st == 8)
def lostWaitExpire (d : Dev) : Dev := if canLose d ∧ !twinPortUp d then enterSolo d 0 else d

/-! ## Joining (R457, R458) -/

/-- JOIN_RESEND: every 10 ms until the twin's JOIN has come. -/
def joinResend (d : Dev) : Dev := if twinState d = twJoining ∧ !d.twin.peerJoined then sendJoin d else d

/-- JOIN: last step, state and CRC of the twin's fenced units. A package that is alone answers it with its own JOIN (log
entry 20). -/
def twinJoin (d : Dev) (peerState crc : Nat) : Dev :=
  let st := twinState d
  if st = twOff then d
  else if st ≠ twJoining ∧ st ≠ twSolo ∧ st ≠ twArmed then enterSolo d 2
  else
    let d := if st = twJoining then d else sendJoin d
    let d := { d with twin := { d.twin with peerJoined := decide (st = twJoining ∨ peerState = twJoining) } }
    let agree := decide (crc = fencedCrc d)
    let d := if st ≠ twJoining ∧ peerState = twJoining then twinErr d 1 0x10D 2 0 0 (lastStep d) else d
    if !agree then twinErr d 2 0x10A 2 0 0 (lastStep d)
    else if st = twJoining ∧ peerState = twJoining then releaseSorters (setTwinState d twTwinned)
    else d

/-- START of a twin-mode job: JOINING, every Sorter held, JOIN sent (R457). -/
def twinStart (d : Dev) : Dev :=
  if !d.job.twinMode then d
  else
    let d := { d with twin := { Twin.reset with events := d.twin.events } }
    sendJoin (setHeldDies (setRecopy (setTwinState d twJoining) 0) (upMask d))
/-- END or ABORT of a twin-mode job is complete: STOPPED is sent, but by a package in SOLO, which sends nothing (R456). -/
def twinEnd (d : Dev) : Dev :=
  let st := twinState d
  if st = twOff then d
  else
    let d := if st = twSolo then d else sendTwin d 9 0 0 0
    let d := { d with twin := { Twin.reset with events := d.twin.events } }
    setHeldDies (setRecopy (setTwinState d twOff) 0) 0

/-! ## Mirror fences (R459, R460) -/

def jobFenced (d : Dev) : Dev := if sealedJob d then setRfld d jobStatReg 8 1 1 else d
/-- A fence is complete: the twin is told of a unit of R460, a recopy fails, a seal may now be complete. -/
def twinFenced (d : Dev) (t : FenceT) : Dev :=
  let st := twinState d
  let d := match unitOf t with
    | none => d
    | some u =>
      if d.twin.noticed.contains u then { d with twin := { d.twin with noticed := d.twin.noticed.filter (· ≠ u) } }
      else if st = twTwinned ∨ st = twHold ∨ st = twSend ∨ st = twRecv then
        sendTwin { d with twin := { d.twin with sentFences := d.twin.sentFences ++ [u] } } 7 u.1 u.2.1 u.2.2
      else d
  let d := if st = twSend ∨ st = twRecv then recopyFail d 7 else d
  trySeal d

/-- MIRROR_FENCE: the same unit is fenced here and acknowledged (R459). -/
def mirrorFence (d : Dev) (kind site index : Nat) : Dev :=
  if twinState d = twOff then d
  else match unitTarget kind site index with
    | none => d
    | some t =>
      if unitFenced d t then sendTwin d 8 kind site index
      else
        let d := twinErr d 1 0x10C 7 (2 ^ site) (kind % 16 + 16 * site + 256 * index) (lastStep d)
        let d := { d with twin := { d.twin with noticed := d.twin.noticed ++ [(kind, site, index)] } }
        sendTwin (incSat (jobFenced (raiseErr d (unitPage t) 3 0x002 0 0)) (twReg 0xA20)) 8 kind site index
/-- FENCE_ACK: the notice is acknowledged. -/
def fenceAck (d : Dev) (kind site index : Nat) : Dev :=
  { d with twin := { d.twin with sentFences := d.twin.sentFences.filter (· ≠ (kind, site, index)) } }
def mirrorAckTimeout (d : Dev) : Dev :=
  if d.twin.sentFences = [] ∨ !canLose d then d else enterSolo d 7

/-! ## TWIN_CTL (R455, R458, R462) -/

/-- RESULT: the state after the command and LAST_STEP, of which RESULT bit 0 is bit 96 of the response. -/
def twinResult (d : Dev) : BitVec 160 := BitVec.ofNat 160 (twinState d + lastStep d * 2 ^ 32)
/-- An action that the states of R462 allow; none otherwise. -/
def ctlSolo (d : Dev) : Option Dev :=
  let st := twinState d
  if st = twTwinned ∨ st = twHold ∨ st = twDiverged then some (releaseSorters (enterSolo d 0)) else none
def ctlResync (d : Dev) (step : Nat) : Option Dev :=
  if twinState d = twSolo ∧ lastStep d < step then
    some (setTwinState { d with twin := { d.twin with resync := some (BitVec.ofNat 64 step) } } twArmed)
  else none
def ctlRelease (d : Dev) : Option Dev :=
  if twinState d = twResync then some (releaseSorters (setTwinState d twTwinned)) else none

end Sys2Proof.Machine
end

