-- ==== Sys2Proof/Machine/Fence.lean ====
section
/-!
DEFINITION. Fencing and halt (chapter 17): what ends when a unit leaves service (R478, R479, R522), a die fenced as a whole, the end
of the fence sequence, the halt (R481, R485, R148), and what every command carries out before it is over: the fences it asked
for, the progress of the start-up, a halt.
-/
namespace Sys2Proof.Machine

/-! ## What a fence ends (R479) -/

/-- A core's issued operations and copies end; its contexts are HALTED, those that wait on a barrier of a fenced cluster apart. The uses that
end so without completing count toward their slots (R305, R479). -/
def endCore (d : Dev) (s k : Nat) (keepBarrier : Bool) : Dev :=
  let d := (List.range 16).foldl (fun d n =>
    let c := getCtx d (ctxKey s k n)
    let atBarrier := match c.wait with | .barrier _ => true | _ => false
    if (c.cstate = .running ∨ c.cstate = .waiting) ∧ !(keepBarrier && c.cstate == .waiting && atBarrier) then
      putCtx d (ctxKey s k n) { c with cstate := .halted, wait := .none, stopping := false, packs := [] }
    else d) d
  let c := getCore d (coreKey s k)
  let d := putCore d (coreKey s k)
    { emptyBuffers (emptySets c) with queue := [], cur := none, drain := none, copies := [], armed := false }
  let d := c.copies.foldl (fun d e => match e.2 with
    | some o => if dscKind o.desc = 3 then slotUseDone d s (dscBox o.desc) else d
    | none => d) d
  (List.range 16).foldl (fun d n =>
    if (getCtx d (ctxKey s k n)).cstate = .waiting then d else abandonUses d s k n true) d

/-- The package port of a PORT or TWIN page. -/
def portOfPage (l : PageLoc) : Nat := if l.typ = .twin then (if l.site = 0 then 48 else 49) else 12 * l.site + l.inst

/-- Work that a fenced page's block holds ends (R478 step 1, R479). -/
def endWork (d : Dev) (a : Nat) : Dev :=
  match pageAt a with
  | none => d
  | some l =>
    match l.typ with
    | .core => endCore d l.site l.inst false
    | .cluster =>
      (List.range 8).foldl (fun d i =>
        let k := 8 * l.inst + i
        setState (endCore d l.site k true) (pgCore l.site k) stFenced) d
    | .d2d => if l.inst < 2 then edgeEnd d l.site l.inst else d
    | .port | .twin => portEnd d (portOfPage l)
    | .slane => laneDown d l.site l.inst
    | _ => d

/-- A page reaches FENCED: its work ends, the job and the twin are told (R478 steps 1 and 3). -/
def reachFenced (d : Dev) (a : Nat) : Dev :=
  if ownState d a = stFenced then d
  else twinFenced (jobFenced (setState (endWork d a) a stFenced)) (.page a)

/-- A die as a whole is FENCED: its Sorter's dockets fail, its contexts, links and ports end, the facing edges are fenced, and every
page of it records DIE_FENCED (R413, R326, R479). -/
def endDie (d : Dev) (s : Nat) : Dev :=
  if dieFenced d s then d
  else
    let d := dieDockets d s
    let d := (List.range 128).foldl (fun d k => endCore d s k false) d
    let d := setState d (pgDie s) stFenced
    let d := (List.range 2).foldl (fun d e => edgeFence (edgeEnd d s e) s e) d
    let d := ((List.range 12).map (12 * s + ·) ++ (if s = 0 then [48] else if s = 2 then [49] else [])).foldl portEnd d
    let d := ((diePages s).filter (fun a => a != pgDie s && ownState d a != stFenced)).foldl
      (fun d a => setState (recordErr d a 3 0x003 0 0) a stFenced) d
    twinFenced (jobFenced d) (.die s)

/-- The block of a page ends its drain or its time runs out: FENCED. -/
def drainFenced (d : Dev) (a : Nat) : Dev :=
  match pageAt a with
  | some l => if l.typ = .die then endDie d l.site else reachFenced d a
  | none => d

/-! ## The start of a fence (R48, R478, R522) -/

/-- What happens at the class F itself, before the block has drained. (DEDUCED, log entry 41) -/
def fenceStart (d : Dev) (a : Nat) : Dev :=
  match pageAt a with
  | none => d
  | some l =>
    match l.typ with
    | .hbmc => stackLost d l.site l.inst
    | .d2d => if l.inst < 2 then edgeFence d l.site l.inst else d
    | .slane => laneDown d l.site l.inst
    | _ => d

/-- The page that a fence is complete on (R478 step 4). (DEDUCED, log entry 41) -/
def fencePage : FenceT → Nat
  | .page a => a
  | .module k => modPage k
  | .lane j _ => pgOpt j
  | .channel _ => pgHdma
  | .die s => pgDie s
def fencingNow (d : Dev) (t : FenceT) : Bool := d.board.fencing.any (fun f => f.target == t)
/-- MGR.DIES after a fence is over, or was asked for of a unit that is out already. -/
def clearRecovering (d : Dev) : Dev :=
  (List.range 4).foldl (fun d s =>
    let live := d.board.fencing ++ d.board.fences
    let rec' := live.any (fun f => targetSite f.target == some s)
    let fen := live.any (fun f => f.target == .die s)
    setRegN d (pgMgr + 0x820) (setBit (setBit (regN d (pgMgr + 0x820)) (4 + s) rec') (8 + s) fen)) d
def noteFence (d : Dev) (f : Fencing) : Dev :=
  if fencingNow d f.target then d else { d with board := { d.board with fencing := d.board.fencing ++ [f] } }

/-- A page's block goes on its way out: at once from OFF and STARTING, through DRAINING from RUNNING (R48). -/
def fencePath (d : Dev) (a : Nat) : Dev :=
  let st := ownState d a
  if st = stRunning then
    fenceStart (setState (setCtrl d a (setBit (pageCtrl d a) 2 true)) a stDraining) a
  else if st = stDraining then fenceStart (setCtrl d a (setBit (pageCtrl d a) 2 true)) a
  else drainFenced (fenceStart d a) a

/-- A fence that a class F asks for begins. -/
def startFence (d : Dev) (f : Fencing) : Dev :=
  match f.target with
  | .page a => if ownState d a = stFenced then clearRecovering d else fencePath (noteFence d f) a
  | .die s => if dieFenced d s then clearRecovering d else fencePath (noteFence d f) (pgDie s)
  | .module k => moduleDisable (jobFenced (noteFence d f)) k
  | .lane j x => laneLost (jobFenced (noteFence d f)) j x
  | .channel ch => putHdma (jobFenced (noteFence d f)) ch { getHdma d ch with fenced := true }

/-- The fences asked for begin in the order in which they were raised; a halt ends them. -/
def runFences : Nat → Dev → Dev
  | 0, d => d
  | n + 1, d =>
    if d.board.haltReq.isSome then d
    else match d.board.fences with
      | [] => d
      | f :: rest => runFences n (startFence { d with board := { d.board with fences := rest } } f)

/-! ## The end of a fence (R478 steps 2 and 4) -/

/-- Whether the unit of a fence is out of service and its routes are rewritten. (DEDUCED, log entry 41) -/
def fenceOver (d : Dev) (t : FenceT) : Bool :=
  match t with
  | .page a =>
    ownState d a == stFenced && (match pageAt a with | some l => l.typ != .d2d || !d.board.routeChange | none => true)
  | .die s => dieFenced d s && !d.board.routeChange
  | .module k => (getMod d k).mstate == 2 && !(getMod d k).leaving
  | .lane _ _ | .channel _ => true

/-- FENCE_COMPLETE: the manager records the fence, and the die is no longer recovering or being fenced. (DEDUCED, log entry 41) -/
def fenceComplete (d : Dev) (a : Nat) : Dev :=
  match d.board.fencing.find? (fun f => fencePage f.target == a && fenceOver d f.target) with
  | none => d
  | some f =>
    let d := wearEvent d f.page 3 f.code
    let d := incSat { d with board := { d.board with fencing := d.board.fencing.filter (fun g => g.target != f.target) } } (pgMgr + 0x890)
    clearRecovering d

/-- FENCE_DRAIN_TIMEOUT: work that has not reached a safe point within 100 µs is ended. -/
def fenceTimeout (d : Dev) (a : Nat) : Dev :=
  if ownState d a = stDraining ∧ fenceReqd d a then drainFenced d a else d
/-- FENCE_SEQUENCE: a class F of a unit in service. -/
def fenceSequence (d : Dev) (a code unit : Nat) : Dev :=
  match pageAt a with
  | none => d
  | some l => if (!l.inBase && !dieUp d l.site) || ownState d a == stFenced then d else (raise d a 3 code unit 0 0).2
/-- CTRL.FENCE_REQ by an agent: acts where FENCE_OK is 1; an edge raises EDGE_FENCE on both sides (R48, R326, R468). -/
def fenceRequest (d : Dev) (a : Nat) : Dev :=
  match pageAt a with
  | none => d
  | some l =>
    if !(capBits l).2.2 ∨ ownState d a = stFenced ∨ fenceReqd d a then d
    else if l.typ = .d2d then edgeFence d l.site l.inst
    else (raise d a 3 0x002 0 0 0).2

/-! ## Halt (R481, R485, R148) -/

/-- Every key is erased. -/
def eraseKeys (d : Dev) : Dev :=
  let d := (List.range 50).foldl eraseSession d
  let d := setSec (setSec d 2 false) 5 false
  { d with job := { d.job with key := none, ckptKeyed := false }
           sealU := { d.sealU with udsHeld := false, flashKey := none, aliasSeed := 0, aliasHeld := false } }

/-- A pending commit of every page is rejected with code 3 (R58). -/
def rejectCommits (d : Dev) : Dev := (d.commits.map (·.1)).foldl (fun d a => if commitPending d a then commitEnd d a 3 0 else d) d

/-- The halt controller: the first trigger is recorded and nothing in the package moves any more. (DEDUCED, log entry 23) -/
def halt (d : Dev) (c : HaltCause) : Dev :=
  let a := c.page.toNat
  let typ := match pageAt a with | some l => l.typ.code | none => 0
  let loc := match pageAt a with | some l => 16 * l.inst + 65536 * l.site + 2 ^ 18 * l.inBase.toNat | none => 0
  let d := eraseKeys (rejectCommits d)
  let d := setRegN (setRegN d (pgMgr + 0x8A0) (0x4000 + c.code.toNat + 65536 * typ)) (pgMgr + 0x8A4) (loc + 2 ^ 31)
  let d := setRegN (setRegN d (pgMgr + 0x8A8) (regN d (a + oInfo0))) (pgMgr + 0x8AC) (regN d (a + oInfo1))
  msixSend { d with board := { d.board with halted := true, haltReq := none, haltRec := some c, alertN := false, optics := false
                                            fences := [] } } 1

/-! ## The end of a command -/

/-- The start-up goes on where it waited for a die or a stack that is now out of service (R75, R76). -/
def bootProgress (d : Dev) : Dev :=
  let d := edgesStep (levelStep d)
  if d.board.bootStep = 6 ∧ d.board.trainNext < 12
      ∧ ownState d (pgHbmc (d.board.trainNext / 3) (d.board.trainNext % 3)) ≠ stStarting then trainFrom d d.board.trainNext
  else d

/-- What is left of a command: the fences it asked for, the start-up, a halt. Errors that follow from them arise in later cycles (R51). -/
def settle (d : Dev) : Dev :=
  if d.board.halted then { d with fresh := [], board := { d.board with haltReq := none, fences := [] } }
  else
    let d := runFences 4096 (bootProgress (runFences 4096 { d with fresh := [] }))
    let d := match d.board.haltReq with
      | some c => halt d c
      | none => d
    { d with fresh := [] }

/-- A command of a powered package that is not halted; else nothing happens. (DESIGN CHOICE, log entry 1) -/
def gated (f : Dev → Dev) (s : State) : Host.Outcome State Fault Refusal :=
  .next { s with dev := if s.dev.board.pwrOk && !s.dev.board.halted then settle (f s.dev) else s.dev }
/-- A command that acts on a powered package, halted or not. (DESIGN CHOICE, log entry 1) (DEDUCED, log entry 23) -/
def powered (f : Dev → Dev) (s : State) : Host.Outcome State Fault Refusal :=
  .next { s with dev := if s.dev.board.pwrOk then settle (f s.dev) else s.dev }

end Sys2Proof.Machine
end

