-- ==== Sys2Proof/Machine/Commit.lean ====
section
/-!
DEFINITION. The commit rule (R54 to R61): a request copies the shadow area, the page checks the copy in the order of R57, and the
block replaces its live copy at its safe point. The checks of each page type are the ones its chapter gives.
-/
namespace Sys2Proof.Machine

/-! ## Where a register is held -/

/-- The package-level registers of a TWIN page are one set, which either page reaches (R463). -/
def twinShared (off : Nat) : Bool :=
  off == 0x180 || (decide (0x200 ≤ off) && decide (off < 0x400)) || off == 0x880 || (decide (0x900 ≤ off) && decide (off < 0xC00))
  || (decide (0xF10 ≤ off) && decide (off ≤ 0xF50))
/-- The address that holds a register: itself, but for that set. -/
def regHome (addr : Nat) : Nat :=
  match pageAt addr with
  | some l => if l.typ = .twin ∧ twinShared (addr % 0x1000) then pgTwin 0 + addr % 0x1000 else addr
  | none => addr

/-- The implemented bits of a shadow register; a reserved or absent one has none (R39, R46). -/
def shadowMask (d : Dev) (l : PageLoc) (off : Nat) : Nat :=
  match ownReg l off with
  | some r => if l.typ = .sorter ∧ off = 0x100 ∧ !hasFeature d l.site .noise then setBit r.mask 0 false else r.mask
  | none => 0

/-! ## The pending copy -/

def isShadow (off : Nat) : Bool := decide (0x100 ≤ off) && decide (off < 0x800)
/-- The shadow area as it stands, by the address that holds each register. -/
def shadowCopy (d : Dev) (a : Nat) : Sparse W32 :=
  d.regs.filter (fun e => isShadow (e.1 % 0x1000) && (pageBase e.1 == a || regHome (a + e.1 % 0x1000) == e.1))
/-- A register of the pending copy, its reserved bits included. -/
def pendRaw (p : PendingCommit) (a off : Nat) : Nat := (sget regDefault p.regs (regHome (a + off))).toNat
/-- The value of the pending copy in the register's implemented bits. -/
def pendVal (d : Dev) (l : PageLoc) (p : PendingCommit) (a off : Nat) : Nat :=
  (BitVec.ofNat 32 (pendRaw p a off) &&& BitVec.ofNat 32 (shadowMask d l off)).toNat
/-- Shadow registers of the pending copy that hold a reserved or absent bit. -/
def reservedSet (d : Dev) (l : PageLoc) (p : PendingCommit) (a : Nat) : List Nat :=
  ((p.regs.filter (fun e => pageBase e.1 == a || l.typ == .twin)).map (fun e => e.1 % 0x1000)).filter
    (fun off => pendRaw p a off != pendVal d l p a off)

/-- Every shadow register of a page type with the offset of its live copy. -/
def shadowPairs (t : PageType) : List (Nat × Nat) :=
  (pageRegs t).flatMap (fun r => match r.live with
    | some l => (List.range r.count).map (fun i => (r.first + r.stride * i, l + r.stride * i))
    | none => [])
/-- The shadow registers whose pending value differs from the live one. -/
def changedRegs (d : Dev) (l : PageLoc) (p : PendingCommit) (a : Nat) : List Nat :=
  ((shadowPairs l.typ).filter (fun x => !absentReg l x.1 && pendVal d l p a x.1 != regN d (regHome (a + x.2)))).map (·.1)

/-! ## Step 1: fields that disagree (R57) -/

/-- A check of a page: whether it fails, and the shadow registers that hold a field it names. -/
abbrev Check := Bool × List Nat

/-- Two ranges of addresses that share a byte. -/
def overlap (a n b m : Nat) : Bool := n != 0 && m != 0 && decide (a < b + m) && decide (b < a + n)
/-- A range wholly within a die's present HBM (R293). -/
def hbmRange (d : Dev) (s a n : Nat) : Bool := decide (a < 0xF000000000) && dieRange d s a n
/-- Pairs i < j below n. -/
def pairsBelow (n : Nat) : List (Nat × Nat) := (List.range n).flatMap (fun j => (List.range j).map (fun i => (i, j)))

/-- R36. -/
def dieChecks (site : Nat) (v : Nat → Nat) : List Check :=
  let mode := fld (v 0x100) 0 2
  let ports := fld (v 0x100) 4 12
  [((mode == 1 || mode == 2) && (fld (v 0x100) 2 2 == 0 || ports != 0), [0x100]),
   (mode == 3 && ports == 0 && !tbit (v 0x100) 16, [0x100]),
   (tbit (v 0x100) 16 && site % 2 == 1, [0x100])]

/-- R100. (DEDUCED, log entry 24) -/
def hostChecks (v : Nat → Nat) : List Check :=
  let base (r : Nat) : Nat := v (0x100 + 0x10 * r)
  let size (r : Nat) : Nat := v (0x104 + 0x10 * r)
  let ppa (r : Nat) : Nat := v (0x108 + 0x10 * r)
  (pairsBelow 64).map (fun x => (overlap (base x.1) (size x.1) (base x.2) (size x.2),
    [0x100 + 0x10 * x.1, 0x104 + 0x10 * x.1, 0x100 + 0x10 * x.2, 0x104 + 0x10 * x.2]))
  ++ (List.range 64).flatMap (fun r =>
    [(size r != 0 && decide (0x3FFFF < base r + size r), [0x100 + 0x10 * r, 0x104 + 0x10 * r]),
     (size r != 0 && !(decide (ppa r + size r ≤ 0xF00000) || (decide (0xF00000 ≤ ppa r) && decide (ppa r + size r ≤ 0xFF0000))),
      [0x104 + 0x10 * r, 0x108 + 0x10 * r])])

/-- R191. (DEDUCED, log entry 24) -/
def coreChecks (v : Nat → Nat) : List Check :=
  let len := v 0x10C
  [(decide (24576 < v 0x108 + len), [0x108, 0x10C]),
   (tbit (v 0x104) 4 && !tbit (v 0x100) (fld (v 0x104) 0 4), [0x100, 0x104])]
  ++ (List.range 16).map (fun n => (tbit (v 0x100) n && decide (len ≤ v (0x140 + 4 * n)), [0x10C, 0x140 + 4 * n]))

/-- R364; a package entry is valid unless it is 62, and the own position is known once SELF.VALID is 1. A DLOG_SIZE above 4,096 is
outside its range. -/
def routerChecks (d : Dev) (site : Nat) (v : Nat → Nat) : List Check :=
  let ok := tbit (v 0x104) 16
  let id := fld (v 0x104) 0 11
  let grp (g : Nat) : Nat := v (0x200 + 4 * g)
  let pkg (q : Nat) : Nat := fld (v (0x280 + 4 * q)) 0 6
  let bad (x : Nat) : Bool := decide (50 ≤ x) && decide (x ≤ 61)
  let twin := fld (v 0x100) 8 6
  let size := v 0x110
  let log := fld (v 0x108) 7 25 * 128 + v 0x10C * 2 ^ 32
  (List.range 32).flatMap (fun g =>
    [(tbit (grp g) 5 && !ok, [0x104, 0x200 + 4 * g]),
     (tbit (grp g) 5 && ok && fld id 5 5 == g, [0x104, 0x200 + 4 * g]),
     (tbit (grp g) 5 && (bad (fld (grp g) 8 6) || bad (fld (grp g) 14 6) || bad (fld (grp g) 20 6) || bad (fld (grp g) 26 6)), [0x200 + 4 * g])])
  ++ (List.range 32).flatMap (fun q =>
    [(pkg q != 62 && !ok, [0x104, 0x280 + 4 * q]),
     (ok && (if fld id 0 5 == q then pkg q != 63 else pkg q == 63), [0x104, 0x280 + 4 * q]),
     (bad (pkg q), [0x280 + 4 * q])])
  ++ [(twin != 48 && twin != 49 && twin != 63, [0x100]), (decide (4096 < size), [0x110]),
      (size != 0 && !dieRange d site log (128 * size), [0x108, 0x10C, 0x110])]

/-- R367. (DEDUCED, log entry 24) -/
def linkChecks (v : Nat → Nat) : List Check :=
  let pool (i : Nat) : Nat := v (0x110 + 4 * i)
  (List.range 8).map (fun i => (decide (pool i < 33), [0x110 + 4 * i]))
  ++ [(decide (8192 < ((List.range 8).map pool).foldl (· + ·) 0), (List.range 8).map (fun i => 0x110 + 4 * i)),
      (tbit (v 0x104) 1 && !tbit (v 0x104) 0, [0x104])]

/-- R464. -/
def twinChecks (d : Dev) (v : Nat → Nat) : List Check :=
  let off (s r : Nat) : Nat := 0x200 + 0x40 * s + 8 * r
  let base (s r : Nat) : Nat := v (off s r) * 65536
  let size (s r : Nat) : Nat := v (off s r + 4) * 65536
  (List.range 4).flatMap (fun s =>
    (List.range 8).map (fun r => (!hbmRange d s (base s r) (size s r) && size s r != 0, [off s r, off s r + 4]))
    ++ (pairsBelow 8).map (fun x => (overlap (base s x.1) (size s x.1) (base s x.2) (size s x.2),
        [off s x.1, off s x.1 + 4, off s x.2, off s x.2 + 4])))

/-- R304: slots. -/
def slotChecks (d : Dev) (site : Nat) (v : Nat → Nat) : List Check :=
  let off (r : Nat) : Nat := 0x200 + 8 * r
  let base (r : Nat) : Nat := v (off r) * 65536
  let size (r : Nat) : Nat := v (off r + 4) * 65536
  (List.range 64).map (fun r => (size r != 0 && !hbmRange d site (base r) (size r), [off r, off r + 4]))
  ++ (pairsBelow 64).map (fun x => (overlap (base x.1) (size x.1) (base x.2) (size x.2), [off x.1, off x.1 + 4, off x.2, off x.2 + 4]))

/-- R441: post boxes. -/
def boxChecks (d : Dev) (site : Nat) (v : Nat → Nat) : List Check :=
  let off (b : Nat) : Nat := 0x400 + 0x10 * b
  let on (b : Nat) : Bool := tbit (v (off b)) 31
  let recv (b : Nat) : Bool := on b && tbit (v (off b + 4)) 16
  let slots (b : Nat) : Nat := fld (v (off b + 12)) 0 7
  let size (b : Nat) : Nat := fld (v (off b + 12)) 16 12
  let base (b : Nat) : Nat := v (off b + 8) * 65536
  let len (b : Nat) : Nat := slots b * size b * 65536
  let self := selfId d site + 2048 * site
  (List.range 16).flatMap (fun b =>
    [(recv b && (slots b == 0 || size b == 0 || decide (64 < slots b)), [off b + 12]),
     (recv b && !dieRange d site (base b) (len b), [off b + 8, off b + 12]),
     (on b && !recv b && v (off b + 8) != 0, [off b + 8]), (on b && !recv b && v (off b + 12) != 0, [off b + 12]),
     (on b && fld (v (off b)) 0 17 == self + 8192 * b, [off b])])
  ++ (pairsBelow 16).map (fun x => (recv x.1 && recv x.2 && overlap (base x.1) (len x.1) (base x.2) (len x.2), [off x.1 + 8, off x.1 + 12, off x.2 + 8, off x.2 + 12]))

/-- R424: the bucket template, while MIB is nonzero. A check made with the bucket's bytes names BUCKET_SIZE too. -/
def bucketChecks (d : Dev) (site : Nat) (v : Nat → Nat) : List Check :=
  let t := ((List.range 16).map (fun w => v (0x140 + 4 * w) * 2 ^ (32 * w))).foldl (· + ·) 0
  let w : DocketWord := BitVec.ofNat 512 (t % 2 ^ 360)
  let bb := fld (v 0x108) 0 10 * 1048576
  let e := grp d (dkGroup w)
  let n := gCount e
  let word (i : Nat) : Nat := 0x140 + 4 * i
  let width (c : Nat) : Nat := Fp.width c / 8
  if fld (v 0x108) 0 10 = 0 then []
  else
    [(dkOp w != opReduceScatter, [word 0]), (dkNormAcc w || dkNormSrc w, [word 0]), (dkAux w != 0, [word 6, word 7]),
     (dkPeer w != 0 || dkRegion w != 0, [word 10]), (dkUses w != 0, [word 10, word 11]),
     (dkCount w * n * width (dkItype w) != bb, [0x108, word 0, word 1]),
     (tplSlots t == 0, [word 11]), (tplPeriod t == 0, [word 11, word 12]),
     (!hbmRange d site (dkSrc w) (tplSlots t * bb), [0x108, word 2, word 3, word 11]),
     (!dieRange d site (dkStat w) (64 * tplSlots t), [word 8, word 9, word 11]),
     (!dieRange d site (dkDst w) (tplPeriod t * dkCount w * width (dkOtype w)), [word 0, word 1, word 4, word 5, word 11, word 12]),
     (!gEnable e, [word 0])]
    ++ (match memberIndex d site (dkGroup w) with
        | some me => (docketChecks d site w me).map (fun c => (c.1, c.2.map word))
        | none => [(true, [word 0])])

/-- R417, with R304, R424 and R441. -/
def sorterChecks (d : Dev) (site : Nat) (v : Nat → Nat) : List Check :=
  let ledger := fld (v 0x110) 16 16 * 65536 + v 0x114 * 2 ^ 32
  [(decide (512 < fld (v 0x108) 0 10), [0x108]),
   (tbit (v 0x100) 1 && !dieRange d site ledger 524288, [0x100, 0x110, 0x114])]
  ++ slotChecks d site v ++ boxChecks d site v ++ bucketChecks d site v

/-- The modules in service that a MOD_MASK leaves unmasked (R331). -/
def leftModules (d : Dev) (s e mask : Nat) : Nat :=
  ((edgeModules s e).filter (fun k => inService d k && !tbit mask (k % 32))).length

/-- The checks of step 1 on the page of a type. (DEDUCED, log entry 24) -/
def pageChecks (d : Dev) (l : PageLoc) (v : Nat → Nat) : List Check :=
  match l.typ with
  | .die => dieChecks l.site v
  | .hostlink => hostChecks v
  | .core => coreChecks v
  | .cluster => (List.range 8).map (fun b => (decide (128 < v (0x100 + 4 * b)), [0x100 + 4 * b]))
  | .pmc => [(decide (fld (v 0x108) 8 8 ≤ fld (v 0x108) 0 8) || decide (105 ≤ fld (v 0x108) 8 8), [0x108]),
             (fld (v 0x10C) 0 4 == 0 || fld (v 0x10C) 16 12 == 0, [0x10C])]
  | .irqr => (List.range 192).map (fun i => (decide (fld (v (0x100 + 4 * i)) 0 10 < 64 + 240 * l.site)
      || decide (304 + 240 * l.site ≤ fld (v (0x100 + 4 * i)) 0 10), [0x100 + 4 * i]))
  | .router => routerChecks d l.site v
  | .port => linkChecks v
  | .twin => linkChecks v ++ twinChecks d v
  | .opteng => [(fld (v 0x104) 0 10 == 0, [0x104]), (l.inst == 12 && (decide (v 0x100 < 100) || decide (180 < v 0x100)), [0x100])]
  | .d2d => [(l.inst < 2 && v 0x104 != regN d (pgD2d l.site l.inst + 0x804) && decide (leftModules d l.site l.inst (v 0x104) < 8), [0x104])]
  | .agemon => [(fld (v 0x104) 0 4 == 0, [0x104])]
  | .sorter => sorterChecks d l.site v
  | _ => []

/-! ## The address book (R68, R384, R385) -/

/-- Reserved bits of a group entry. -/
def groupReserved (e : Nat) : Bool := fld e 4 4 != 0 || fld e 72 8 != 0 || fld e 112 400 != 0
/-- A nonzero radix follows a zero one or lies outside 2 to 64, or the product is below COUNT. -/
def radicesBad (e : Nat) : Bool :=
  let l := [0, 1, 2, 3].map (gRadix e)
  l.any (fun r => r == 1 || decide (64 < r)) || (l.dropWhile (· ≠ 0)).any (· ≠ 0)
  || decide ((l.filter (· ≠ 0)).foldl (· * ·) 1 < gCount e)
/-- The rules of R385 on one enabled entry alone. -/
def groupBad (members : List Nat) (e : Nat) : Bool :=
  gCount e == 0 || decide (65536 < gBase e + gCount e) || gChunk e == 0 || decide (256 < gChunk e) || gRing e == 0
  || decide (64 < gRing e) || gPoly e == 3 || gLanes e == 0 || radicesBad e || decide (members.eraseDups.length < members.length)
def bookMember (m : Sparse W32) (i : Nat) : Nat := (sget zero32 m i).toNat % 8192
def bookMembers (m : Sparse W32) (e : Nat) : List Nat :=
  if 65536 < gBase e + gCount e then [] else (List.range (gCount e)).map (fun j => bookMember m (gBase e + j))
/-- The window offsets of entries and slots that hold a field named by a failing check. -/
def bookBad (gs : Sparse (BitVec 512)) (ms : Sparse W32) : List Nat :=
  let on := (gs.filter (fun x => gEnable x.2.toNat)).map (fun x => (x.1, x.2.toNat, bookMembers ms x.2.toNat))
  let res := (gs.filter (fun x => groupReserved x.2.toNat)).map (·.1)
  let bad := (on.filter (fun x => groupBad x.2.2 x.2.1)).map (·.1)
  let shared := (on.filter (fun x => on.any (fun y => gClass x.2.1 != gClass y.2.1 && x.2.2.any (y.2.2.contains ·)))).map (·.1)
  (res ++ bad ++ shared).map (fun g => 0x110000 + 64 * g)
  ++ (ms.filter (fun x => x.2.toNat / 8192 != 0)).map (fun x => 0x140000 + 4 * x.1)

/-! ## Steps 2 and 3 -/

/-- Fields outside the signed envelope (R90). -/
def envelopeBad (d : Dev) (l : PageLoc) (v : Nat → Nat) : List Nat :=
  if l.typ = .pmc then
    (if v 0x104 < dieMinW d ∨ dieMaxW d < v 0x104 then [0x104] else [])
    ++ (if throttleMaxC d < fld (v 0x108) 0 8 then [0x108] else [])
  else []

/-- A loopback selects an edge or a port that is not OFF, or the package is not in service mode; one of MODE 2 faces a die that is absent
or whose edge is not OFF. A powered die that is not released will do (R36). -/
def loopForbidden (d : Dev) (s ctrl : Nat) : Bool :=
  let edges := [0, 1].filter (fun e => tbit ctrl (2 + e))
  let off (a : Nat) : Bool := ownState d a == stOff
  !d.board.service || edges.any (fun e => !off (pgD2d s e))
  || (List.range 12).any (fun p => tbit ctrl (4 + p) && !off (pgPort s p)) || (tbit ctrl 16 && !off (pgTwin s))
  || (fld ctrl 0 2 == 2 && edges.any (fun e =>
      let f := facing s e
      !(dieFact d f.1).fitted || dieFenced d f.1 || !off (pgD2d f.1 f.2)))

/-- The state of the block, or of the package, forbids the change (R57 step 3). -/
def commitForbidden (d : Dev) (l : PageLoc) (a : Nat) (p : PendingCommit) : Bool :=
  let v := pendVal d l p a
  let changed := changedRegs d l p a
  ownState d a == stFenced || d.board.halted ||
  match l.typ with
  | .die => loopForbidden d l.site (v 0x100)
  | .core => (changed.any (· ≠ 0x118) && (List.range 16).any (fun n =>
        let c := getCtx d (ctxKey l.site l.inst n)
        c.cstate == .running || c.cstate == .waiting))
      || (v 0x118 != 0 && rfld d (pgSeal + 0x820) 1 1 == 0)
  | .cluster => changed != [] && sealedJob d && !isFirmware p.who
  | .port | .twin => ownState d a != stOff && changed.any (fun o => decide (0x110 ≤ o) && decide (o < 0x130))
  | .sorter =>
    (List.range 64).any (fun r => slotState d l.site r != slFree && (changed.contains (0x200 + 8 * r) || changed.contains (0x204 + 8 * r)))
    || (List.range 16).any (fun b => boxEnabled d l.site b && decide (3 ≤ jobState d)
        && [0, 4, 8, 12].any (fun o => changed.contains (0x400 + 0x10 * b + o)))
    || (sealedJob d && fld (v 0x108) 0 10 != 0 && fld (v 0x108) 0 10 != sget zeroNat d.job.sealedMib l.site)
  | .trace => tbit (v 0x100) 5 && !dataTraced d
  | .addrbook => sealedJob d
  | _ => false

/-! ## The end of a commit -/

/-- A rejection: status, the named register, and REJECT_AT of the address book (R56, R68). -/
def commitReject (d : Dev) (a status : Nat) (offs at_ : List Nat) : Dev :=
  let low (l : List Nat) : Nat := l.foldl min (l.headD 0)
  let d := if a = pgBook then setRegN d (pgBook + 0x820) (low at_) else d
  commitEnd d a status (low offs)

/-- What an applied commit sets in motion; `old` is the device before it, `changed` its changed registers. -/
def commitEffect (old d : Dev) (l : PageLoc) (a : Nat) (changed : List Nat) : Dev :=
  match l.typ with
  | .die => loopStart d l.site (regN d (a + 0x808)) (regN d (a + 0x80C))
  | .core =>
    let k := coreKey l.site l.inst
    let d := if changed.contains 0x104 then putCore d k { emptySets (resetMode (getCore d k)) with back := [] } else d
    if tbit (regN d (a + 0x818)) 1 then trapArm d l.site l.inst else d
  | .pmc => if changed.contains 0x100 ∧ fillerWindow d l.site = 0 then fillerStop d l.site else d
  | .d2d => if l.inst < 2 ∧ changed.contains 0x104 then maskApplied d l.site l.inst else d
  | .sorter =>
    let x := getSorter d l.site
    let mib := rfld d (a + 0x808) 0 10
    if mib ≠ 0 ∧ (changed.contains 0x108 ∨ x.trigStop) then
      setRegN (putSorter d l.site { x with fill := [], trigStop := false }) (a + 0xE80) 0
    else putSorter d l.site { x with trigStop := false }
  | .trace => if rfld d (a + 0x800) 0 1 = rfld old (a + 0x800) 0 1 then d else setRegN d (a + 0x824) (regN d (a + 0x820))
  | .addrbook =>
    setRegN { d with book := { d.book with liveG := d.book.copyG, liveM := d.book.copyM, copyG := [], copyM := [], damaged := [] } } (a + 0x820) 0
  | _ => d

/-- Step 5 with step 3 once more: the live copy is replaced, GENERATION counts it and STATUS is 1. -/
def commitApply (d : Dev) (l : PageLoc) (a : Nat) (p : PendingCommit) : Dev :=
  if commitForbidden d l a p then commitReject d a 3 [] []
  else
    let changed := changedRegs d l p a
    let new := (shadowPairs l.typ).foldl (fun d x =>
      if absentReg l x.1 then d else setRegN d (regHome (a + x.2)) (pendVal d l p a x.1)) d
    let new := commitEnd new a 1 0
    let new := setRegN new (a + oCommitStat) (setFld (regN new (a + oCommitStat)) 16 16 (fld (regN new (a + oCommitStat)) 16 16 + 1))
    countEvt (commitEffect d new l a changed) a 0x0004 0 1

/-- Pages that commit at once, after the checks (R61). (DEDUCED, log entry 45) -/
def commitsAtOnce (t : PageType) : Bool := t == .base || t == .mgr || t == .seal || t == .die || t == .trace || t == .addrbook

/-- The checks of steps 1 to 3 on the pending copy; a block at a safe point then applies it (R57). (DEDUCED, log entry 45) -/
def commitDecide (d : Dev) (l : PageLoc) (a : Nat) (p : PendingCommit) : Dev :=
  let v := pendVal d l p a
  let failed := (pageChecks d l v).filter (·.1)
  let res := reservedSet d l p a
  let at_ := if l.typ = .addrbook then bookBad d.book.copyG d.book.copyM else []
  if failed ≠ [] ∨ res ≠ [] ∨ at_ ≠ [] then commitReject d a 2 (res ++ failed.flatMap (·.2)) at_
  else if envelopeBad d l v ≠ [] then commitReject d a 4 (envelopeBad d l v) []
  else if commitForbidden d l a p then commitReject d a 3 [] []
  else if commitsAtOnce l.typ ∨ ownState d a = stOff then commitApply d l a p
  else d

/-- A valid key on a page that accepts COMMIT: the shadow area is copied and PENDING set, unless a commit is pending (R55, R58). While it
is pending STATUS keeps the outcome of the commit before and OFFSET reads 0 (DESIGN CHOICE, log entry 58). -/
def commitRequest (d : Dev) (who : Requester) (a : Nat) (key : Nat) : Dev :=
  match pageAt a with
  | none => d
  | some l =>
    if key ≠ 0x5EA1 ∨ commitPending d a ∨ !(capBits l).2.1 then d
    else
      let p : PendingCommit := ⟨who, shadowCopy d a, 0⟩
      let d := { d with commits := sput noCommit d.commits a (some p) }
      let d := if l.typ = .addrbook then { d with book := { d.book with copyG := d.book.stagedG, copyM := d.book.stagedM } } else d
      let d := setRegN d (a + oCommitStat) (setFld (setBit (regN d (a + oCommitStat)) 3 true) 4 12 0)
      commitDecide d l a p

/-! ## Safe points (R61) -/

/-- No array operation and no stream use of a core is active. -/
def coreQuiet (d : Dev) (s k : Nat) : Bool :=
  let c := getCore d (coreKey s k)
  c.queue.isEmpty && c.cur.isNone && c.drain.isNone && copiesInUse c == 0
  && (List.range 16).all (fun n => (activeRegs d s k n true).isEmpty)
/-- Whether the block of a page stands at its safe point. (DEDUCED, log entry 45) -/
def atSafePoint (d : Dev) (l : PageLoc) : Bool :=
  match l.typ with
  | .core => coreQuiet d l.site l.inst
  | .cluster => (List.range 8).all (fun b => regN d (barStat l.site l.inst b) % 256 == 0)
      && (List.range 8).all (fun i => coreTransfers d l.site (8 * l.inst + i) == 0)
  | .sorter => (getSorter d l.site).dockets.all (fun k => !k.started)
  | _ => true
/-- The safe point of HDMA is between descriptors, per channel: the channels at theirs replace their live copy, and the commit ends once
every channel has (R61). -/
def commitChannels (d : Dev) (l : PageLoc) (a : Nat) (p : PendingCommit) : Dev :=
  let now := (List.range 8).filter (fun ch => !bvBit p.parts ch && (getHdma d ch).cur.isNone)
  let q := { p with parts := now.foldl (fun m ch => setBv m ch true) p.parts }
  if q.parts = 0xFF ∨ commitForbidden d l a p then commitApply d l a p
  else
    let d := now.foldl (fun d ch => setRegN d (a + 0x800 + 4 * ch) (pendVal d l p a (0x100 + 4 * ch))) d
    { d with commits := sput noCommit d.commits a (some q) }

/-- COMMIT_SAFE_POINT: the pending commit is applied, unless the block drains: then the end of the drain decides it (R58).
(DEDUCED, log entry 45) -/
def commitSafePoint (d : Dev) (a : Nat) : Dev :=
  match pageAt a, sget noCommit d.commits a with
  | some l, some p =>
    if ownState d a = stDraining then d
    else if l.typ = .hdma then commitChannels d l a p
    else if atSafePoint d l then commitApply d l a p else d
  | _, _ => d
/-- The end of a drain decides a pending commit. -/
def commitAtDrainEnd (d : Dev) (a : Nat) : Dev :=
  match pageAt a, sget noCommit d.commits a with
  | some l, some p => commitApply d l a p
  | _, _ => d
/-- A soft reset discards a pending commit (R58). -/
def commitDrop (d : Dev) (a : Nat) : Dev := { d with commits := sput noCommit d.commits a none }

/-- REFRESH_WINDOW: the safe point of the controller, counted (R61, R294, R511). -/
def refreshWindow (d : Dev) (s k : Nat) : Dev :=
  let a := pgHbmc s k
  countEvt (commitSafePoint d a) a 0x1004 0 (running d a).toNat

end Sys2Proof.Machine
end

