-- ==== Sys2Proof/Machine/Regs.lean ====
section
/-!
DEFINITION. Register accesses: what a read of any page returns (R37 to R46, R54, R67, R68, R190, R193, R484), which writers a page
accepts (R62, R67, R91, R145), the latches and held halves of 64-bit values (R41), CTRL with soft reset (R47 to R49), the error
and injection registers (R50, R53), and the write of any register, which its owner's operation carries out.
-/
namespace Sys2Proof.Machine

/-! ## Reads -/

/-- The package ports, stacks, lanes, links, clusters and cores in service (R484, R116). -/
def portIn (d : Dev) (n : Nat) : Bool := dieUp d (siteOfPort n) && !pageFenced d (pgOfPort n)
def stackIn (d : Dev) (i : Nat) : Bool := dieUp d (i / 3) && !pageFenced d (pgHbmc (i / 3) (i % 3))
def slaneIn (d : Dev) (i : Nat) : Bool := dieUp d (i / 4) && !pageFenced d (pgSlane (i / 4) (i % 4))
def clusterIn (d : Dev) (s c : Nat) : Bool := dieUp d s && !pageFenced d (pgCluster s c)
def coreIn (d : Dev) (s k : Nat) : Bool := dieUp d s && !coreFenced d s k
/-- A mask of the numbers from `lo` on, `n` of them, that pass. -/
def maskOf (lo n : Nat) (f : Nat → Bool) : Nat := (List.range n).foldl (fun m i => if f (lo + i) then m + 2 ^ i else m) 0

/-- The MGR capability registers. -/
def mgrView (d : Dev) (off : Nat) : Nat :=
  if off = 0x820 then maskOf 0 4 (dieUp d) + 16 * rfld d (pgMgr + 0x820) 4 8
  else if off = 0x824 then maskOf 0 12 (stackIn d)
  else if off = 0x828 then maskOf 0 32 (portIn d)
  else if off = 0x82C then maskOf 32 18 (portIn d)
  else if off = 0x830 then maskOf 0 16 (slaneIn d)
  else if off = 0x834 then maskOf 0 4 (linkSurvives d)
  else if 0x840 ≤ off ∧ off < 0x850 then maskOf 0 16 (clusterIn d ((off - 0x840) / 4))
  else if 0x850 ≤ off ∧ off < 0x890 then maskOf (32 * ((off - 0x850) / 4 % 4)) 32 (coreIn d ((off - 0x850) / 16))
  else regN d (pgMgr + off)

/-- Word `w` of a digest, its bytes in ascending order (R149). -/
def digestWord (x : Digest) (w : Nat) : Nat := fld x.toNat (32 * w) 32
/-- The SEAL page's view of the seal unit. -/
def sealView (d : Dev) (off : Nat) : Nat :=
  if off = 0x824 then (rollback d 6).toNat
  else if 0x840 ≤ off ∧ off < 0x860 then (rollback d ((off - 0x840) / 4)).toNat
  else if 0x860 ≤ off ∧ off < 0x880 then digestWord (devidDigest d) ((off - 0x860) / 4)
  else if 0x880 ≤ off ∧ off < 0x8A0 then (if d.sealU.aliasHeld then digestWord (aliasDigest d) ((off - 0x880) / 4) else 0)
  else if 0x900 ≤ off ∧ off < 0xA00 then digestWord (meas d ((off - 0x900) / 0x20)) ((off - 0x900) / 4 % 8)
  else regN d (pgSeal + off)

/-- CTX_STAT and the other registers of a context (R189, R190). -/
def stateCode : CState → Nat
  | .idle => 0 | .running => 1 | .waiting => 2 | .halted => 3 | .faulted => 4
def ctxView (d : Dev) (s k n w : Nat) : Nat :=
  let c := getCtx d (ctxKey s k n)
  if w = 0 then stateCode c.cstate + 16 * c.cause + 65536 * (c.pc.toNat % 2 ^ 15)
  else if w = 1 then c.ovf.toNat + 2 * c.inv.toNat
  else if w = 2 then c.ovfCount.toNat
  else if w = 3 then c.invTile.toNat
  else if w = 4 then c.invKblk.toNat
  else if w = 5 then c.tileSeq.toNat
  else 0
def coreView (d : Dev) (s k off : Nat) : Nat :=
  let a := pgCore s k
  if 0x880 ≤ off ∧ off < 0xA80 then ctxView d s k ((off - 0x880) / 0x20) ((off - 0x880) / 4 % 8)
  else if off = 0xA80 then (if granted d 1 then regN d (a + off) else 0)
  else if off = 0xF00 ∨ off = 0xF04 then 0
  else if off = 0xF40 then (if granted d 0 then regN d (a + off) else 0)
  else if off = 0xF44 then (if granted d 0 then accData (getCore d (coreKey s k)) (regN d (a + 0xF40)) else 0)
  else regN d (a + off)

def sorterView (d : Dev) (s off : Nat) : Nat :=
  let a := pgSorter s
  if off = 0xD00 then grpInfo d s
  else if 0xE40 ≤ off ∧ off < 0xE80 then pbStat d s ((off - 0xE40) / 4)
  else if off = 0xE84 then bucketFillReg d s
  else if off = 0xF08 then 0
  else if (off = 0xBE8 ∨ off = 0xBEC) ∧ !hasFeature d s .noise then 0
  else if off = 0x800 ∧ !hasFeature d s .noise then setBit (regN d (a + off)) 0 false
  else regN d (a + off)

/-- The straps as the pads give them (R35). -/
def strapOf (d : Dev) (s : Nat) : Nat :=
  let f := dieFact d s
  if !f.fitted then 0
  else f.strapSite.toNat + 4 * f.strapRot.toNat + 16 * (f.strapSite.toNat == s && f.strapRot == f.strapSite).toNat

/-- A page's own register, at 0x100 or above. -/
def ownRead (d : Dev) (l : PageLoc) (a off : Nat) : Nat :=
  match l.typ with
  | .mgr => mgrView d off
  | .seal => sealView d off
  | .core => coreView d l.site l.inst off
  | .cluster => if off = 0x844 then ((List.range 8).map (fun i => coreTransfers d l.site (8 * l.inst + i))).foldl (· + ·) 0
      else regN d (a + off)
  | .d2d => if l.inst < 2 then (d2dView d l.site l.inst off).getD (regN d (a + off)) else regN d (a + off)
  | .hbmc => if off = 0x820 then stackStat d l.site l.inst
      else if off = 0x840 then fld (reading d (68 + 3 * l.site + l.inst)) 0 12
      else if off = 0xF00 then 0 else regN d (a + off)
  | .sorter => sorterView d l.site off
  | .slane => if off = 0x810 then laneActive d l.site l.inst else regN d (a + off)
  | .trace => if off = 0x830 then localCount d l.site % 2 ^ 32
      else if off = 0x834 then localCount d l.site / 2 ^ 32 % 2 ^ 32
      else if off = 0xF04 ∨ off = 0xF08 then 0
      else if 0xF10 ≤ off ∧ off < 0xF30 then traceData d l.site ((off - 0xF10) / 4)
      else regN d (a + off)
  | .base => if off = 0xF04 then 0 else regN d (a + off)
  | .port => if off = 0xF00 then 0 else regN d (a + off)
  | .twin => if off = 0xF00 ∨ off = 0xF50 then 0 else regN d (regHome (a + off))
  | .agemon => if off = 0xF00 then 0 else regN d (a + off)
  | .die => if off = 0x800 then strapOf d l.site
      else if off = 0x804 then setFld (regN d (a + off)) 0 8 (dieFact d l.site).level.toNat
      else regN d (a + off)
  | _ => regN d (a + off)

/-- The highest class whose bit ERR_STAT holds (R50). -/
def errClass (d : Dev) (a : Nat) : Nat :=
  let e := regN d (a + oErrStat)
  if tbit e 3 then 4 else if tbit e 2 then 3 else if tbit e 1 then 2 else if tbit e 0 then 1 else 0
/-- PAGE_REV (R45): the base's own stepping and level on a base page, those of its die on any other. Which stepping and level the base
has no rule says: Dev.reset holds A0 (letter 0, number 0) and level 1 (DESIGN CHOICE, log entry 10). -/
def pageRev (d : Dev) (l : PageLoc) : Nat :=
  if l.inBase then d.baseLevel.toNat + 256 * d.baseNum.toNat + 4096 * d.baseLetter.toNat
  else
    let f := dieFact d l.site
    f.level.toNat + 256 * f.stepNum.toNat + 4096 * f.stepLetter.toNat
/-- The common registers of a page below 0x100 (R37). -/
def commonRead (d : Dev) (l : PageLoc) (a off : Nat) : Nat :=
  if off = 0x000 then (pageId l).toNat
  else if off = 0x004 then pageRev d l
  else if off = 0x008 then (pageCaps l (levelInForce d l)).toNat
  else if off = 0x00C then (pageSite l).toNat
  else if off = oCtrl then pageCtrl d a
  else if off = oState then pageState d a
  else if off = oErrClass then errClass d a
  else if off = oInject then (if (capBits l).1 then setBit (regN d (a + off)) 31 (rfld d (a + off) 0 16 ≠ 0) else 0)
  else if off = oCommit then 0
  else regN d (a + off)

/-- A register of a page that is reachable. -/
def pageRead (d : Dev) (l : PageLoc) (a off : Nat) : Nat :=
  if off < 0x100 then commonRead d l a off
  else if isShadow off then (reg d (regHome (a + off)) &&& BitVec.ofNat 32 (shadowMask d l off)).toNat
  else match ownReg l off with
    | none => 0
    | some r => (BitVec.ofNat 32 (ownRead d l a off) &&& BitVec.ofNat 32 r.mask).toNat

/-- What the manager answers for the DIE page of a die never released, or fenced as a whole (R67). -/
def absentDieRead (d : Dev) (l : PageLoc) (a off : Nat) : Nat :=
  if l.typ ≠ .die then 0
  else if off = 0x000 ∨ off = 0x004 ∨ off = 0x00C ∨ off = oState ∨ off = oErrStat ∨ off = oErrClass ∨ off = oErrFirst ∨ off = oInfo0
      ∨ off = oInfo1 then commonRead d l a off
  else if off = 0x800 then strapOf d l.site
  else 0

/-- The areas of the ADDRBOOK window beside its page (R68). -/
def bookRead (d : Dev) (off : Nat) : Nat :=
  let word (e : BitVec 512) (o : Nat) : Nat := fld e.toNat (32 * (o / 4 % 16)) 32
  if 0x110000 ≤ off ∧ off < 0x114000 then word (sget noWord512 d.book.stagedG ((off - 0x110000) / 64)) off
  else if 0x120000 ≤ off ∧ off < 0x124000 then word (sget noWord512 d.book.liveG ((off - 0x120000) / 64)) off
  else if 0x140000 ≤ off ∧ off < 0x180000 then (sget zero32 d.book.stagedM ((off - 0x140000) / 4)).toNat
  else if 0x180000 ≤ off ∧ off < 0x1C0000 then (sget zero32 d.book.liveM ((off - 0x180000) / 4)).toNat
  else 0

/-- Registers that a halted package still shows (R482). -/
def haltShows (l : PageLoc) (off : Nat) : Bool :=
  decide (off ≤ 0x00C) || off == oState || l.typ == .mgr || (l.typ == .base && (off == 0x848 || off == 0x84C))

/-- What a 32-bit read at a BAR0 offset returns (R43, R67, R68, R482). -/
def readReg (d : Dev) (addr : Nat) : Nat :=
  let off := addr % 0x1000
  match pageAt addr with
  | none => if d.board.halted then 0 else bookRead d addr
  | some l =>
    if d.board.halted ∧ !haltShows l off then 0
    else if !l.inBase ∧ !dieUp d l.site then absentDieRead d l (pageBase addr) off
    else pageRead d l (pageBase addr) off

/-! ## The register mirror (R70) -/

/-- The register at a package physical address of the mirror, as the address of an access names it. -/
def mirrorAddr (ppa : Nat) : Option RegAddr :=
  if 0xFF00000000 ≤ ppa ∧ ppa < 0xFF09000000 then some (BitVec.ofNat 28 (ppa - 0xFF00000000)) else none
/-- The BAR0 offset that a requester's address stands for: itself below 2^27, and above it the region of the own die of a postmaster core. -/
def target (who : Requester) (addr : Nat) : Option Nat :=
  if addr < 0x8000000 then some addr
  else if 0x9000000 ≤ addr then none
  else match who with
    | .firmware s _ | .job s _ => some (0x1000000 * (s.val + 1) + (addr - 0x8000000))
    | _ => none

/-! ## 64-bit values (R37, R40, R41) -/

/-- The offset holds the _LO register of a 64-bit value. -/
def isLo (l : PageLoc) (off : Nat) : Bool :=
  (decide (0xC0 ≤ off) && decide (off < 0x100) && off % 8 == 0) ||
  match l.typ with
  | .mgr => off == 0x828
  | .hostlink => off == 0xC10 || off == 0xF00 || off == 0xF14
  | .hdma => decide (0xF00 ≤ off) && (off % 0x20 == 0 || off % 0x20 == 0xC)
  | .core => off == 0x110 || off == 0x810 || (decide (0xB00 ≤ off) && decide (off < 0xB68) && off % 8 == 0)
  | .router => off == 0x108 || off == 0x808
  | .hbmc => off == 0x82C || off == 0x834
  | .sorter => off == 0x110 || off == 0x810 || (decide (0xB60 ≤ off) && decide (off < 0xBF0) && off % 8 == 0)
  | .slane => off == 0x808
  | .trace => off == 0x830
  | .d2d => off == 0xF0C
  | .twin => off == 0xA04 || off == 0xA18 || (decide (0xF10 ≤ off) && decide (off < 0xF50) && off % 8 == 0)
  | _ => false
def isHi (l : PageLoc) (off : Nat) : Bool := decide (4 ≤ off) && isLo l (off - 4)

def assocGet (m : List ((Requester × Nat) × W32)) (who : Requester) (a : Nat) : Option W32 :=
  (m.find? (fun e => e.1 == (who, a))).map (·.2)
def assocDel (m : List ((Requester × Nat) × W32)) (who : Requester) (a : Nat) : List ((Requester × Nat) × W32) :=
  m.filter (fun e => e.1 != (who, a))

/-- LO_READ_LATCH: a full read of a _LO register latches the _HI half for its requester; a read of a register whose half is latched ends the
latch. (DEDUCED, log entry 26) -/
def loLatch (d : Dev) (who : Requester) (addr : Nat) : Dev :=
  match pageAt addr with
  | some l =>
    if addr % 4 ≠ 0 then d
    else
      let d := { d with loLatch := assocDel d.loLatch who addr }
      if isLo l (addr % 0x1000) then
        { d with loLatch := ((who, addr + 4), BitVec.ofNat 32 (readReg d (addr + 4))) :: assocDel d.loLatch who (addr + 4) }
      else d
  | none => d
/-- What the next read of a register by a requester returns: a latched half where it holds one. -/
def readAs (d : Dev) (who : Requester) (addr : Nat) : Nat :=
  match assocGet d.loLatch who addr with
  | some v => v.toNat
  | none => readReg d addr
/-- The bits of a word that byte enables address. -/
def beBits (be : BitVec 4) : W32 :=
  (List.range 4).foldl (fun m i => if be.getLsbD i then m ||| (0xFF : W32) <<< (8 * i) else m) 0
/-- A read with byte enables returns the addressed bytes of the word (R40). -/
def readBytes (d : Dev) (who : Requester) (addr : Nat) (be : BitVec 4) : Nat := (BitVec.ofNat 32 (readAs d who addr) &&& beBits be).toNat
/-- An aligned 64-bit access to a _LO and _HI pair (R40). -/
def pairAt (l : PageLoc) (off : Nat) : Bool := off % 8 == 0 && isLo l off
/-- An aligned 64-bit read of a pair: both halves at one instant. -/
def readPair (d : Dev) (addr : Nat) : Option Nat :=
  match pageAt addr with
  | some l => if pairAt l (addr % 0x1000) then some (readReg d addr + 2 ^ 32 * readReg d (addr + 4)) else none
  | none => none

/-! ## Who may write (R62, R67, R91, R145, R482) -/

/-- The run-time registers that the host may write while a sealed job runs (R145). (DEDUCED, log entry 25) -/
def hostMayWrite (l : PageLoc) (off : Nat) : Bool :=
  match l.typ with
  | .hostlink => [0xF00, 0xF04, 0xF08, 0xF0C, 0xF14, 0xF18, 0xF1C, 0xF24].contains off || (decide (0xF40 ≤ off) && decide (off < 0xF80))
  | .hdma => decide (0xF00 ≤ off) && decide (off % 0x20 ≤ 0x14)
  | _ => false

/-- A write of the host that the sealed job forbids. (DEDUCED, log entry 25) -/
def hostBarred (d : Dev) (who : Requester) (addr : Nat) : Bool :=
  who == .host && sealedJob d && !(match pageAt addr with | some l => hostMayWrite l (addr % 0x1000) | none => false)

/-- The write reaches its page: the link is up for the host, the board has its two registers, the page's die is released and not
fenced, and the SEAL page takes nothing from the host. (DEDUCED, log entry 25) -/
def writeReaches (d : Dev) (who : Requester) (addr : Nat) : Bool :=
  (who != .host || barsOpen d) && (who != .board || addr == pgBase + 0xF00 || addr == pgBase + 0xF04) && addr % 4 == 0 &&
  match pageAt addr with
  | some l => (l.inBase || dieUp d l.site) && !(l.typ == .seal && who == .host)
  | none => true

/-- A write to a register of a page discards the half that its requester holds for another register there (R41). (DEDUCED, log entry 26) -/
def dropHeld (d : Dev) (who : Requester) (addr : Nat) : Dev :=
  { d with hiHeld := d.hiHeld.filter (fun e => e.1.1 != who || pageBase e.1.2 != pageBase addr || e.1.2 == addr || e.1.2 == addr + 4) }

/-- A write by a requester: discarded and counted for the host of a sealed job, discarded where it does not reach.
(DEDUCED, log entry 26) -/
def access (d : Dev) (who : Requester) (addr : Nat) (f : Dev → Dev) : Dev :=
  if who = .host ∧ !barsOpen d then d
  else if hostBarred d who addr then incSat d (pgHost + 0xC08)
  else if !writeReaches d who addr then d
  else f (dropHeld d who addr)

/-! ## CTRL (R47 to R49, R77) -/

/-- The block of a page in OFF starts: a stack and a port in their turn (R77). -/
def startBlock (d : Dev) (l : PageLoc) (a : Nat) : Dev :=
  match l.typ with
  | .port | .twin => portGo d (portOfPage l)
  | .hbmc => stackEnable d (3 * l.site + l.inst)
  | _ => setState d a stStarting
/-- ENABLE set: a block in OFF starts. -/
def enableSet (d : Dev) (a : Nat) : Dev :=
  match pageAt a with
  | none => d
  | some l =>
    let d := setCtrl d a (setBit (pageCtrl d a) 0 true)
    if ownState d a = stOff then startBlock d l a else d
/-- ENABLE cleared: a RUNNING block drains. -/
def enableClear (d : Dev) (a : Nat) : Dev :=
  let d := setCtrl d a (setBit (pageCtrl d a) 0 false)
  if ownState d a = stRunning then setState d a stDraining else d

/-- START_DONE: a block whose page has no start of its own is RUNNING; a start that fails raises class F (R48, R467). -/
def ownStart (l : PageLoc) : Bool := l.typ == .port || l.typ == .twin || l.typ == .hbmc || (l.typ == .d2d && decide (l.inst < 2))
def startDone (d : Dev) (a : Nat) (ok : Bool) : Dev :=
  match pageAt a with
  | none => d
  | some l =>
    if ownState d a ≠ stStarting ∨ (!l.inBase && !dieUp d l.site) then d
    else if !ok then (raise d a 3 0x001 0 0 0).2
    else if ownStart l then d
    else enterRunning d a

/-- The block of a draining page has come to rest. -/
def atRest (d : Dev) (l : PageLoc) : Bool :=
  match l.typ with
  | .core => coreQuiet d l.site l.inst
  | .sorter => (getSorter d l.site).dockets.isEmpty
  | .slane => laneActive d l.site l.inst == 0
  | .hdma => (List.range 8).all (fun ch => (getHdma d ch).cur.isNone)
  | .cluster => atSafePoint d l
  | _ => true

/-- A block comes to OFF. -/
def turnOff (d : Dev) (l : PageLoc) (a : Nat) : Dev :=
  let d := match l.typ with
    | .port | .twin => portDrop (portDown d (portOfPage l) 0) (portOfPage l)
    | .d2d => if l.inst < 2 then edgeEnd d l.site l.inst else d
    | _ => d
  setState d a stOff
/-- DRAIN_DONE: FENCED where FENCE_REQ stands; else a pending commit is decided, and the block is OFF, or starts again where
ENABLE reads 1 (R48, R58). -/
def drainDone (d : Dev) (a : Nat) : Dev :=
  match pageAt a with
  | none => d
  | some l =>
    if ownState d a ≠ stDraining ∨ !atRest d l then d
    else if fenceReqd d a then drainFenced d a
    else
      let d := turnOff (commitAtDrainEnd d a) l a
      if tbit (pageCtrl d a) 0 then startBlock d l a else d

/-! ## Soft reset (R49) -/

/-- The transfers of a core that its cluster controller serves end without completing; KIND 3 uses among them count toward their slots
(R289, R305). -/
def dropTransfers (d : Dev) (s k : Nat) : Dev :=
  let c := getCore d (coreKey s k)
  let served (o : CopyOp) : Bool := !inOwnMemory s k o.desc
  let d := putCore d (coreKey s k) { c with copies := c.copies.filter (fun e => match e.2 with | some o => !served o | none => true) }
  c.copies.foldl (fun d e => match e.2 with
    | some o => if served o ∧ dscKind o.desc = 3 then slotUseDone d s (dscBox o.desc) else d
    | none => d) d
/-- Work and state of a page's block that a soft reset ends. (DEDUCED, log entry 13) -/
def resetBlock (d : Dev) (l : PageLoc) : Dev :=
  match l.typ with
  | .core =>
    let d := endCore d l.site l.inst false
    let d := (List.range 16).foldl (fun d n => putCtx d (ctxKey l.site l.inst n) (ctxDefault 0)) d
    let k := coreKey l.site l.inst
    putCore d k { arraysAtStart (getCore d k) with trapSet := false }
  | .cluster =>
    let d := (List.range 8).foldl (fun d i => dropTransfers d l.site (8 * l.inst + i)) d
    (List.range 128).foldl (fun d i =>
      let key := ctxKey l.site (8 * l.inst + i / 16) (i % 16)
      let c := getCtx d key
      match c.wait with
      | .barrier _ => putCtx d key { c with wait := .barrier 8 }
      | _ => d) d
  | .port => portDrop (portDown d (portOfPage l) 0) (portOfPage l)
  | .twin =>
    let d := { d with twin := { Twin.reset with events := d.twin.events } }
    portDrop (portDown d (portOfPage l) 0) (portOfPage l)
  | .hbmc =>
    { d with scrubFull := sput noFlag d.scrubFull (scrubKey l.site l.inst) false
             board := { d.board with trainWait := setBv d.board.trainWait (3 * l.site + l.inst) false } }
  | .hostlink => { d with resp := [] }
  | .d2d =>
    -- failed lanes and disabled modules stay until PWR_OK (R321, R324)
    if l.inst < 2 then (edgeModules l.site l.inst).foldl (fun d k =>
      let m := getMod d k
      putMod d k { moduleDefault 0 with failed := m.failed, disabled := m.disabled, mstate := if m.disabled then 2 else 0 }) (edgeEnd d l.site l.inst)
    else (sget noHeld d.relayHeld l.site).foldl (fun d p => errorAnswer d l.site p.pkt) { d with relayHeld := sput noHeld d.relayHeld l.site [] }
  | .sorter =>
    -- the alive counts stay (R373)
    let d := abortDockets d l.site
    putSorter d l.site { sorterDefault 0 with aliveTx := (getSorter d l.site).aliveTx, aliveRx := (getSorter d l.site).aliveRx }
  | .slane => laneDown d l.site l.inst
  | .hdma => (List.range 8).foldl (fun d ch => putHdma d ch { hdmaDefault 0 with fenced := (getHdma d ch).fenced }) d
  | .addrbook => { d with book := AddrBook.reset }
  | _ => d
/-- What a register that follows the block reads once it is reset. (DEDUCED, log entry 13) -/
def showReset (d : Dev) (l : PageLoc) : Dev :=
  match l.typ with
  | .agemon => showDie d l.site
  | .mgr => clearRecovering d
  | .base => setRegN d (pgBase + 0xF00) (pkgMaxW d)
  | _ => d

/-- The reset itself: work ends, every register of the page and every latch on it returns, the block is OFF. (DEDUCED, log entry 13) -/
def resetPage (d : Dev) (l : PageLoc) (a : Nat) : Dev :=
  let d := commitDrop (resetBlock d l) a
  let d := { d with regs := sclear d.regs a (a + 0xFFF)
                    hiHeld := d.hiHeld.filter (fun e => pageBase e.1.2 != a)
                    loLatch := d.loLatch.filter (fun e => pageBase e.1.2 != a)
                    esc := sclear d.esc (escKey a 0) (escKey (a + 1) 0 - 1)
                    recent := sclear d.recent a a }
  let d := if l.typ = .twin then { d with regs := d.regs.filter (fun e => pageBase e.1 != pgTwin 0 || !twinShared (e.1 % 0x1000)) } else d
  showReset (setCtrl (setRegN d (a + oState) (stOff + 1)) a 0) l

/-- ENABLE and FENCE_REQ of a write of CTRL: a fence takes precedence, and ENABLE is only stored beside it (R47 to R49). -/
def ctrlBits (d : Dev) (l : PageLoc) (a : Nat) (enable fence : Bool) : Dev :=
  if fence ∧ (capBits l).2.2 ∧ ownState d a ≠ stFenced then fenceRequest (setCtrl d a (setBit (pageCtrl d a) 0 enable)) a
  else if enable = tbit (pageCtrl d a) 0 then d else if enable then enableSet d a else enableClear d a
/-- SOFT_RESET with the other bits of the same write. -/
def softReset (d : Dev) (a : Nat) (enable fence : Bool) : Dev :=
  match pageAt a with
  | none => d
  | some l =>
    let st := ownState d a
    if st = stFenced then ctrlBits d l a enable fence
    else if st = stDraining ∧ fenceReqd d a then ctrlBits (drainFenced d a) l a enable fence
    else ctrlBits (resetPage d l a) l a enable fence

/-- A write of CTRL. -/
def ctrlWrite (d : Dev) (a v : Nat) : Dev :=
  if tbit v 1 then softReset d a (tbit v 0) (tbit v 2)
  else match pageAt a with
    | none => d
    | some l => ctrlBits d l a (tbit v 0) (tbit v 2)

/-! ## Error and injection registers (R50, R53) -/

/-- A W1C write of ERR_STAT: bits 3:1 all clear after it clear ERR_FIRST and its context; the line is judged again. -/
def errStatClear (d : Dev) (a mask : Nat) : Dev :=
  let e := reg d (a + oErrStat) &&& ~~~ BitVec.ofNat 32 mask
  let d := setReg d (a + oErrStat) e
  let d := if fld e.toNat 1 3 = 0 then setRegN (setRegN (setRegN d (a + oErrFirst) 0) (a + oInfo0) 0) (a + oInfo1) 0 else d
  irqAgain d a

/-- The highest injection point of a page type (R310, R311, R332, R367, R379). -/
def topPoint : PageType → Nat
  | .hbmc | .cluster | .d2d => 1
  | _ => 0
/-- A write of INJECT arms with COUNT nonzero and disarms with 0; another POINT is discarded. -/
def injectArm (d : Dev) (a v : Nat) : Dev :=
  match pageAt a with
  | none => d
  | some l => if !(capBits l).1 ∨ topPoint l.typ < fld v 17 3 then d else setRegN d (a + oInject) (v % 2 ^ 20)

/-! ## Writes of any register -/

/-- Implemented bits that a write of a common RW register sets. -/
def commonWrite (d : Dev) (who : Requester) (a off v : Nat) : Dev :=
  if off = oCtrl then ctrlWrite d a v
  else if off = oErrStat then errStatClear d a v
  else if off = oErrIrqEn then irqAgain (setReg d (a + off) (BitVec.ofNat 32 v &&& 0xFFFFFF1F)) a
  else if off = oEscWindow then setRegN d (a + off) v
  else if off = oInject then injectArm d a v
  else if off = oCommit then commitRequest d who a v
  else if 0x080 ≤ off ∧ off < 0x0A0 then irqUpdate (setRegN d (a + off) (v % 2 ^ 26)) a
  else if off = oEvctl then evctlWrite d a v
  else d

/-- A write of a register of a page's run-time area (R38, R42). -/
def runWrite (d : Dev) (who : Requester) (l : PageLoc) (a off v : Nat) : Dev :=
  match l.typ with
  | .base => if off = 0xF00 then pkgLimitWrite d who (v % 4096) else if off = 0xF04 then epdWrite d v else d
  | .hostlink =>
    if off = 0xF00 ∨ off = 0xF14 then ringBase d off (v / 4096 * 4096)
    else if off = 0xF04 ∨ off = 0xF18 then ringBase d off v
    else if off = 0xF08 then ringSize d false v
    else if off = 0xF1C then ringSize d true v
    else if off = 0xF0C then cmdqTail d v
    else if off = 0xF24 then rspqHead d v
    else if 0xF40 ≤ off ∧ off < 0xF80 then jobDbWrite d ((off - 0xF40) / 4) (BitVec.ofNat 32 v)
    else if 0xF80 ≤ off ∧ off < 0xFC0 then jobNote d who ((off - 0xF80) / 4) (BitVec.ofNat 32 v)
    else d
  | .hdma =>
    let ch := (off - 0xF00) / 0x20
    let o := off % 0x20
    if o = 0 ∨ o = 0xC then hdmaBase d ch o (v / 4096 * 4096)
    else if o = 4 ∨ o = 0x10 then hdmaBase d ch o v
    else if o = 8 then hdmaCount d ch v
    else if o = 0x14 then hdmaTail d ch v
    else d
  | .core =>
    if off = 0xF00 then maskFold v (fun d n => ctxGo d l.site l.inst n) d
    else if off = 0xF04 then maskFold v (fun d n => ctxStop d l.site l.inst n) d
    else if off = 0xF08 then setRegN d (a + off) (v % 65536)
    else if off = 0xF40 then (if granted d 0 then setRegN d (a + off) (v % 2 ^ 18) else d)
    else d
  | .pmc => if off = 0xF00 ∧ who = .manager then setRegN d (a + off) (v % 1024) else d
  | .port => if off = 0xF00 ∧ tbit v 0 then portRetrain d (portOfPage l) else d
  | .twin =>
    if off = 0xF00 then (if tbit v 0 then portRetrain d (portOfPage l) else d)
    else if off = 0xF50 then sealGo d (fld v 0 4)
    else if 0xF10 ≤ off ∧ off < 0xF50 then setRegN d (regHome (a + off)) v
    else d
  | .d2d => if off = 0xF00 ∧ l.inst < 2 then setReg d (a + off) (BitVec.ofNat 32 v &&& 0x7F1F) else d
  | .hbmc => if off = 0xF00 then scrubNow d l.site l.inst v else d
  | .sorter =>
    if off = 0xF00 then setRegN d (a + off) (v % 256)
    else if off = 0xF04 then (if tbit v 0 then setRegN d (a + off) 0 else d)
    else if off = 0xF08 then
      let d := if tbit v 0 then normAccClear d l.site else d
      let d := if tbit v 1 ∧ hasFeature d l.site .noise then noiseAccClear d l.site else d
      if tbit v 2 then digestsClear d l.site else d
    else d
  | .trace =>
    if off = 0xF00 then setRegN d (a + off) (v % 2 ^ 18)
    else if off = 0xF04 then markWrite d l.site v
    else if off = 0xF08 then freezeAll d l.site v
    else d
  | _ => d

/-- A 32-bit write that reached its page. -/
def pageWrite (d : Dev) (who : Requester) (l : PageLoc) (a off v : Nat) : Dev :=
  if off < 0x100 then commonWrite d who a off v
  else if isShadow off then (if (capBits l).2.1 then setRegN d (regHome (a + off)) v else d)
  else if 0xF00 ≤ off then runWrite d who l a off v
  else d

/-- The staged areas of the ADDRBOOK window; while a sealed job runs they are read-only to every agent (R68, R69). -/
def bookWrite (d : Dev) (off v : Nat) : Dev :=
  if sealedJob d then d
  else if 0x110000 ≤ off ∧ off < 0x114000 then
    let g := (off - 0x110000) / 64
    let e := (sget noWord512 d.book.stagedG g).toNat
    let e := BitVec.ofNat 512 (setFld e (32 * (off / 4 % 16)) 32 v)
    { d with book := { d.book with stagedG := sput noWord512 d.book.stagedG g e } }
  else if 0x140000 ≤ off ∧ off < 0x180000 then
    { d with book := { d.book with stagedM := sput zero32 d.book.stagedM ((off - 0x140000) / 4) (BitVec.ofNat 32 v) } }
  else d

/-- HI_WRITE_HOLD: in the run-time area the _HI half waits for its _LO (R41). (DEDUCED, log entry 26) -/
def hiHold (d : Dev) (who : Requester) (addr : Nat) (v : W32) : Dev :=
  match pageAt addr with
  | some l =>
    if 0xF00 ≤ addr % 0x1000 ∧ isHi l (addr % 0x1000) ∧ l.typ ≠ .d2d then { d with hiHeld := ((who, addr), v) :: assocDel d.hiHeld who addr } else d
  | none => d

/-- A full 32-bit write, or a 64-bit write of a _LO and _HI pair (R40, R41). -/
def regWrite (d : Dev) (who : Requester) (addr v : Nat) (hi : Option W32) : Dev :=
  match pageAt addr with
  | none =>
    match hi with
    | some h => if addr % 8 = 0 then bookWrite (bookWrite d addr v) (addr + 4) h.toNat else d
    | none => bookWrite d addr v
  | some l =>
    let a := pageBase addr
    let off := addr % 0x1000
    match hi with
    | some h =>
      if pairAt l off then
        let d := { d with hiHeld := assocDel d.hiHeld who (addr + 4) }
        pageWrite (pageWrite d who l a (off + 4) h.toNat) who l a off v
      else d
    | none =>
      if 0xF00 ≤ off ∧ isHi l off ∧ l.typ ≠ .d2d then hiHold d who addr (BitVec.ofNat 32 v)
      else match assocGet d.hiHeld who (addr + 4) with
        | some h =>
          if 0xF00 ≤ off ∧ isLo l off then
            let d := { d with hiHeld := assocDel d.hiHeld who (addr + 4) }
            pageWrite (pageWrite d who l a (off + 4) h.toNat) who l a off v
          else pageWrite d who l a off v
        | none => pageWrite d who l a off v

end Sys2Proof.Machine
end

