-- ==== Sys2Proof/Machine/Jobs.lean ====
section
/-!
DEFINITION. The host commands and the job life cycle (R116, R117): IDENTIFY, ATTEST (R134), LOAD_IMAGE, SEAL (R139 to R142, R350,
R446 to R448), START (R78), CHECKPOINT (R143) and restore (R144), END and ABORT (R12, R102, R148), READ_WEAR (R498), PROPOSE_OPTABLE
(R493, R494), DEBUG_TOKEN (R146, R147), TWIN_CTL (R462).
-/
namespace Sys2Proof.Machine

/-! ## Serving a command (R104) -/

def scOk : Nat := 0
def scBadOpcode : Nat := 1
def scBadState : Nat := 2
def scAuthFail : Nat := 3
def scLevel : Nat := 4
def scCapability : Nat := 5
def scHostDma : Nat := 6
def scBufShort : Nat := 7

/-- The opcodes of R116, R146 and R462. -/
def opcodes : List Nat := [0x1, 0x2, 0x10, 0x11, 0x12, 0x13, 0x14, 0x15, 0x20, 0x21, 0x30, 0x40]

/-- A response without data. -/
def reply (d : Dev) (tag : W32) (status opcode : Nat) : Dev := answer d tag status opcode 0
/-- The resident firmware, on the postmaster core that stands for it here. -/
def firmware : Requester := .firmware 0 0

/-- A command of the ring in one of its job states; BAD_STATE in any other (R116). (DEDUCED, log entry 27) -/
def serve (d : Dev) (tag : W32) (opcode : Nat) (states : List Nat) (f : Dev → Dev) : Dev :=
  if !cmdReady d then d
  else if states.contains (jobState d) then f d else reply d tag scBadState opcode

def anyState : List Nat := [jsNone, jsLoaded, jsSealed, jsRunning, jsEnding]

/-- A code that the tables of commands do not list. -/
def badOpcode (d : Dev) (tag : W32) (opcode : Nat) : Dev :=
  if !cmdReady d ∨ opcodes.contains opcode then d else reply d tag scBadOpcode opcode

/-! ## IDENTIFY and ATTEST -/

/-- A die's stepping as the report gives it: 0xFF when it is not released or is fenced. -/
def steppingByte (d : Dev) (s : Nat) : Nat :=
  if dieUp d s then (dieFact d s).stepNum.toNat + 16 * (dieFact d s).stepLetter.toNat else 0xFF
/-- Levels, steppings and present units. -/
def identity (d : Dev) : List Nat :=
  [pkgLevel d] ++ (List.range 4).map (steppingByte d)
  ++ ([0x820, 0x824, 0x828, 0x82C, 0x830, 0x834] ++ (List.range 4).map (0x840 + 4 * ·) ++ (List.range 16).map (0x850 + 4 * ·)).map (mgrView d)
def identify (d : Dev) (tag : W32) : Dev :=
  serve d tag 0x1 anyState (fun d => answer d tag scOk 0x1 (Config.identifyResult (identity d)))

/-- The bytes of 256 group entries and 65,536 member slots, in address order. -/
def bookBytes (gs : Sparse (BitVec 512)) (ms : Sparse W32) : List Byte :=
  (List.range 256).flatMap (fun g => toBytes 64 (sget noWord512 gs g).toNat) ++ (List.range 65536).flatMap (fun m => toBytes 4 (sget zero32 ms m).toNat)

/-- Bytes 0 to 511 of the report. -/
def reportBody (d : Dev) (nonce : Digest) : List Byte :=
  let seald := sealedJob d
  let topo : Digest := match d.job.topo with | some t => if seald then t.digest else 0 | none => 0
  toBytes 4 0x54505241 ++ toBytes 2 1
  ++ toBytes 2 (d.board.service.toNat + 2 * (debugMode d).toNat + 4 * seald.toNat + 8 * (seald && d.job.twinMode).toNat)
  ++ toBytes 2 (if seald then d.job.packageId.toNat else 0) ++ toBytes 1 (pkgLevel d) ++ [0]
  ++ (List.range 4).flatMap (fun s => toBytes 1 (steppingByte d s)) ++ toBytes 4 (bootCount d) ++ List.replicate 12 0
  ++ digestBytes nonce ++ (List.range 8).flatMap (fun m => digestBytes (meas d m))
  ++ digestBytes (imgDigest d.flash.buildRecord) ++ digestBytes (imgDigest d.flash.envelope)
  ++ digestBytes (if seald then d.job.digest else 0) ++ digestBytes (sm3 (bookBytes d.book.liveG d.book.liveM))
  ++ digestBytes topo ++ digestBytes (devidDigest d)
/-- The Alias certificate, then the DeviceID certificate, both DER. -/
def certificates (d : Dev) : List Byte := (d.sealU.aliasCert.elim [] (·.der)) ++ d.flash.devidCert.der
/-- The report with its Alias signature, whose random number is `k`, then the two certificates. -/
def report (d : Dev) (k : Nat) (nonce : Digest) : List Byte :=
  let body := reportBody d nonce
  body ++ sm2Sign (aliasPrivate d) k (sm3Bytes body) ++ certificates d
def attest (d : Dev) (tag : W32) (bufAddr : W64) (bufLen : W32) (nonce : Digest) : Dev :=
  serve d tag 0x2 anyState (fun d =>
    let x := drawScalar d
    let r := report d x.1 nonce
    if bufLen.toNat < r.length then reply d tag scBufShort 0x2 else answerAt x.2 tag scOk 0x2 r.length 0 bufAddr r)

/-! ## LOAD_IMAGE -/

def loadImage (d : Dev) (tag : W32) (img : List Byte) (bufOk : Bool) : Dev :=
  serve d tag 0x10 [jsNone, jsLoaded] (fun d =>
    if !bufOk then reply d tag scHostDma 0x10
    else reply (setJobState { d with job := { d.job with image := some img } } jsLoaded) tag scOk 0x10)

/-! ## SEAL: what the image declares (R140) -/

/-- The wrap entries whose digest is this package's Alias digest. -/
def wrapsHere (d : Dev) (bs : List Byte) : List (List Byte) :=
  ((List.range (jbWraps bs)).map (jbWrap bs)).filter (fun w => digestOf (w.take 32) == aliasDigest d)

/-- A topology record of the image breaks R350. -/
def topoBad (own : BitVec 11) (e : Section) : Bool :=
  e.typ == 4 && (match topoOf e.data with | some t => t.ownId != own | none => true)
/-- The present twin port entries of a record. -/
def twinEntries (t : Topology) : List (Nat × TopoEntry) :=
  [48, 49].filterMap (fun n => match t.entries[n]? with | some e => if e.present then some (n, e) else none | none => none)
/-- FLAGS disagree, or a twin port entry breaks R446. -/
def twinBad (x : Plan) (own : BitVec 11) : Bool :=
  match imgTopo x with
  | none => x.twin
  | some t =>
    t.twin != x.twin || (x.twin && (twinEntries t).any (fun e => e.2.klass != 2 || e.2.peer != own ^^^ 0x400 || e.2.peerPort.toNat != e.1))
/-- A package ID of a twin-mode image holds bit 10 (R447): member slots and PB_PEER.PACKAGE. -/
def planeBad (x : Plan) : Bool :=
  x.twin && ((imgSlots x).any (fun m => tbit m.2 10) ||
    (imgPairs x).any (fun p => match pageAt p.1 with
      | some l => l.typ == .sorter && decide (0x400 ≤ p.1 % 0x1000) && decide (p.1 % 0x1000 < 0x500) && p.1 % 16 == 0 && tbit p.2 10
      | none => false))

/-- A page that the image configures is there and in service. -/
def pageThere (d : Dev) (a : Nat) : Bool :=
  match pageAt a with
  | some l => (l.inBase || dieUp d l.site) && ownState d (pageBase a) != stFenced
  | none => false
/-- A member slot names a die of this package that is out of service. -/
def slotGone (d : Dev) (x : Plan) (own : BitVec 11) (v : Nat) : Bool :=
  let keep : Nat := if x.twin then 1024 else 2048
  (v % keep == own.toNat % keep) && !dieUp d (fld v 11 2)
/-- The value that the image's pairs leave in a register. -/
def pairValue (x : Plan) (addr : Nat) : Option Nat :=
  (imgPairs x).foldl (fun v p => if p.1 = addr then some p.2 else v) none
/-- A twin-mode image sets TWIN_PORT of every die in service to a present twin port (R448). -/
def twinPorts (d : Dev) (x : Plan) : Bool :=
  !x.twin || (List.range 4).all (fun s => !dieUp d s ||
    (match pairValue x (pgRouter s + 0x100), imgTopo x with
     | some v, some t => (twinEntries t).any (fun e => e.1 == fld v 8 6)
     | _, _ => false))
/-- Every unit and address that the image names is present (R141 step 5, R350, R446, R448). -/
def imagePresent (d : Dev) (x : Plan) (own : BitVec 11) : Bool :=
  (imgLoads x).all (fun l => presentRange d l.1 l.2.length)
  && (imgRegions x).all (fun e => decide (e.1 + e.2 ≤ 2 ^ 40) && presentRange d e.1 e.2)
  && (imgPairs x).all (fun p => pageThere d p.1)
  && (List.range 64).all (fun r => presentRange d (65536 * boxWord x (4 * r + 2)) (65536 * boxWord x (4 * r + 1)))
  && (imgSlots x).all (fun m => !slotGone d x own m.2)
  && (match imgTopo x with
      | some t => (List.range 50).all (fun n => match t.entries[n]? with | some e => !e.present || !pageFenced d (pgOfPort n) | none => true)
          && (!x.twin || twinEntries t != [])
      | none => true)
  && twinPorts d x

/-- Steps 1 to 5 of R141: the status of the first that fails; or the job key, the package ID of the wrap entry in use and the plan.
(DEDUCED, log entry 28) -/
def sealCheck (d : Dev) (bs : List Byte) : Except Nat (Key × BitVec 11 × Plan) :=
  if !jbHeadOk bs then .error scAuthFail
  else if pkgLevel d < jbLevel bs then .error scLevel
  else if !jbSigOk bs then .error scAuthFail
  else match wrapsHere d bs with
    | [w] =>
      match jbUnwrap (aliasPrivate d) w with
      | none => .error scAuthFail
      | some key =>
        match (jbOpen key bs).bind (planOfImage bs) with
        | none => .error scAuthFail
        | some x =>
          let own := wrapId w
          if x.secs.any (topoBad own) ∨ twinBad x own ∨ planeBad x then .error scAuthFail
          else if !imagePresent d x own then .error scCapability
          else .ok (key, own, x)
    | _ => .error scAuthFail

/-! ## SEAL: step 6 -/

/-- RUN_LEVEL of every die in service; a change switches the version of the edges (R12, R34, R313). -/
def setRunLevel (d : Dev) (f : Nat → Nat) : Dev :=
  let up := (List.range 4).filter (dieUp d)
  let changed := up.any (fun s => runLevel d s != f s)
  let d := up.foldl (fun d s => setRfld d (pgDie s + 0x804) 16 8 (f s)) d
  if changed then versionChange d else d
/-- PKG_LEVEL comes back into force. -/
def levelBack (d : Dev) : Dev := setRunLevel d (fun s => rfld d (pgDie s + 0x804) 8 8)

/-- The firmware commits a page, and answers whether the commit was applied; a page without a shadow area has nothing to commit. -/
def firmwareCommit (d : Dev) (a : Nat) : Bool × Dev :=
  match pageAt a with
  | none => (false, d)
  | some l =>
    if !(capBits l).2.1 then (true, d)
    else
      let d := commitSafePoint d a
      let d := commitSafePoint (commitRequest d firmware a 0x5EA1) a
      (!commitPending d a && rfld d (a + oCommitStat) 0 4 == 1, d)
/-- Go on only while every commit so far was applied. -/
def andCommit (r : Bool × Dev) (f : Dev → Bool × Dev) : Bool × Dev := if r.1 then f r.2 else r

/-- The address book with the given entries. -/
def bookInstall (d : Dev) (gs : List (Nat × BitVec 512)) (ms : List (Nat × Nat)) : Bool × Dev :=
  let g := gs.foldl (fun m e => sput noWord512 m e.1 e.2) []
  let m := ms.foldl (fun m e => sput zero32 m e.1 (BitVec.ofNat 32 e.2)) []
  firmwareCommit { d with book := { d.book with stagedG := g, stagedM := m } } pgBook
/-- The mailbox table with the given words. -/
def mailboxInstall (d : Dev) (w : Nat → Nat) : Bool × Dev :=
  firmwareCommit ((List.range 256).foldl (fun d i => setRegN d (pgHost + 0x100 + 4 * i) (w i)) d) pgHost
/-- The empty table: every word is 0, so that no reserved bit of an earlier one stands in the way (R102, R142). -/
def mailboxClear (d : Dev) : Dev := (mailboxInstall d (fun _ => 0)).2

/-- The pairs of the page configuration in order, each page committed after its last pair. -/
def pagesInstall (d : Dev) : List (Nat × Nat) → Bool × Dev
  | [] => (true, d)
  | p :: rest =>
    let a := pageBase p.1
    let d := regWrite d firmware p.1 p.2 none
    if rest.any (fun q => pageBase q.1 == a) then pagesInstall d rest
    else andCommit (firmwareCommit d a) (fun d => pagesInstall d rest)

/-- Step 6: measurements, level, book, mailbox, pages; then programs and data. (DEDUCED, log entry 28) -/
def sealInstall (d : Dev) (digest : Digest) (x : Plan) : Bool × Dev :=
  let d := extend (extend d 6 digest) 7
    (sm3 (bookBytes ((imgGroups x).foldl (fun m e => sput noWord512 m e.1 e.2) []) ((imgSlots x).foldl (fun m e => sput zero32 m e.1 (BitVec.ofNat 32 e.2)) [])))
  let d := match imgTopo x with | some t => extend d 7 t.digest | none => d
  let d := setRunLevel d (fun _ => x.level)
  let r := andCommit (bookInstall d (imgGroups x) (imgSlots x)) (fun d => andCommit (mailboxInstall d (boxWord x)) (fun d => pagesInstall d (imgPairs x)))
  andCommit r (fun d =>
    let d := (imgLoads x).foldl (fun d l => agentWrite d .manager l.1 l.2 false) d
    (true, match imgTopo x with | some t => topologyInstall d t | none => d))

/-- MEAS6 and MEAS7 are zero again. -/
def clearJobMeas (d : Dev) : Dev := setMeas (setMeas d 6 0) 7 0
/-- A failure in step 6 (R142). -/
def sealUndo (d : Dev) (x : Plan) : Dev :=
  let pages := ((imgPairs x).map (fun p => pageBase p.1)).eraseDups
  let d := pages.foldl (fun d a => softReset d a false false) d
  levelBack (clearJobMeas (bookInstall (mailboxClear d) [] []).2)

/-- What the sealed job holds from step 7 on. (DEDUCED, log entry 28) -/
def sealedWith (d : Dev) (bs : List Byte) (key : Key) (own : BitVec 11) (x : Plan) : Dev :=
  let region := (imgRegions x).getLast?.getD (d.job.ckptBase.toNat, d.job.ckptLen.toNat)
  let j := { d.job with
    key := some key, topo := imgTopo x, planeLevel := BitVec.ofNat 8 x.level, jobId := jbJobId bs, digest := jbDigest bs, packageId := own
    twinMode := x.twin, seals := d.job.seals + 1, ckptKeyed := false, ckptWanted := 0, signalled := 0
    restoreNo := (imgRestore x).elim d.job.restoreNo (BitVec.ofNat 64 ·), ckptBase := BitVec.ofNat 40 region.1, ckptLen := BitVec.ofNat 64 region.2
    sealedMib := (List.range 4).foldl (fun m s => sput zeroNat m s (rfld d (pgSorter s + 0x808) 0 10)) [] }
  setSec (setRfld (setJobState { d with job := j } jsSealed) jobStatReg 8 1 0) 2 true

/-- SEAL fails: the key is destroyed and JOB_STAT stays LOADED. (DEDUCED, log entry 28) -/
def sealFail (d : Dev) (tag : W32) (status : Nat) : Dev := reply (setSec { d with job := { d.job with key := none } } 2 false) tag status 0x11

/-! ## Job boundaries (R494) -/

/-- The pending table and the pending drops apply at a job boundary. -/
def jobBoundary (d : Dev) : Dev :=
  if d.board.pendTable.isNone ∧ !(List.range 64).any (dropPending d) then d
  else
    let d := optableApply d
    { d with job := { d.job with tableApplied := true } }

/-- Every page whose commit the image asks for stands where a commit is applied: SEAL waits for it (R61, R141). (DEDUCED, log entry 28) -/
def pageIdle (d : Dev) (a : Nat) : Bool :=
  match pageAt a with
  | some l => commitsAtOnce l.typ || ownState d a == stOff
      || (ownState d a != stDraining && atSafePoint d l && (l.typ != .hdma || (List.range 8).all (fun ch => (getHdma d ch).cur.isNone)))
  | none => true
/-- Steps 2 to 7 of R141 on a loaded image. -/
def sealRun (d : Dev) (tag : W32) (bs : List Byte) : Dev :=
  match sealCheck d bs with
  | .error st => sealFail d tag st
  | .ok (key, own, x) =>
    if !(pgHost :: (imgPairs x).map (fun p => pageBase p.1)).all (pageIdle d) then d
    else
      let r := sealInstall d (jbDigest bs) x
      if r.1 then reply (sealedWith r.2 bs key own x) tag scOk 0x11 else sealFail (sealUndo r.2 x) tag scCapability

/-- SEAL: BAD_STATE in service mode and in debug mode. The re-measurement of every released die comes first (R130): a SEAL whose report of
it lacks one has not done its first act and has no effect; then the job boundary. (DEDUCED, log entry 28) -/
def sealJob (d : Dev) (tag : W32) (remeasured : List (Site × Digest × Digest)) : Dev :=
  serve d tag 0x11 [jsLoaded] (fun d =>
    if d.board.service ∨ debugMode d then reply d tag scBadState 0x11
    else if !(List.range 4).all (fun s => !dieUp d s || remeasured.any (fun m => m.1.val == s)) then d
    else
      let d := remeasured.foldl (fun d m => remeasure d m.1.val m.2.1 m.2.2) d
      if d.board.haltReq.isSome then d
      else
        let d := if d.job.tableApplied then d else jobBoundary d
        match d.job.image with
        | some bs => sealRun d tag bs
        | none => sealFail d tag scAuthFail)

/-! ## START (R78, R106, R117) -/

/-- A core as START leaves it: every context IDLE, the arrays as at job start, IDLE_CNT at 0. (DEDUCED, log entry 29) -/
def coreStart (d : Dev) (s k : Nat) : Dev :=
  let d := (List.range 16).foldl (fun d n => putCtx d (ctxKey s k n) (ctxDefault 0)) d
  let d := (List.range 13).foldl (fun d i => setReg64 d (pgCore s k + 0xB00 + 8 * i) 0) d
  putCore d (coreKey s k) { arraysAtStart (getCore d (coreKey s k)) with copies := [], armed := false, back := [] }
/-- A die as START leaves it. (DEDUCED, log entry 29) -/
def dieStart (d : Dev) (s : Nat) : Dev :=
  if !dieUp d s then d
  else boxesStart (sorterStart ((List.range 128).foldl (fun d k => if coreFenced d s k then d else coreStart d s k) d) s) s
/-- Doorbells and notes return to 0. -/
def bellsReset (d : Dev) : Dev :=
  (List.range 16).foldl (fun d n => setRegN (setRegN d (pgHost + 0xF40 + 4 * n) 0) (pgHost + 0xF80 + 4 * n) 0) d
/-- START: the job is RUNNING, and BOOT_STAT shows the last step of the start-up (R75, R91). -/
def start (d : Dev) (tag : W32) : Dev :=
  serve d tag 0x12 [jsSealed] (fun d =>
    let d := (List.range 4).foldl dieStart (bellsReset d)
    let d := twinStart { d with job := { d.job with signalled := 0 } }
    reply (showStep (setJobState d jsRunning) 10) tag scOk 0x12)

/-- JOB_START_SIGNAL: the dies in site order; the clusters of the die are armed (R78). (DEDUCED, log entry 29) -/
def startSignal (d : Dev) (s : Nat) : Dev :=
  if jobState d ≠ jsRunning ∨ !dieUp d s ∨ bvBit d.job.signalled s
      ∨ (List.range s).any (fun t => dieUp d t && !bvBit d.job.signalled t) then d
  else
    let d := { d with job := { d.job with signalled := setBv d.job.signalled s true } }
    let d := (List.range 128).foldl (fun d k =>
      if coreFenced d s k then d else putCore d (coreKey s k) { getCore d (coreKey s k) with armed := true }) d
    emit d (.startSignal s)
/-- CLUSTER_ISSUE_START: the enabled contexts of the cluster's cores run (R78, R152). (DEDUCED, log entry 29) -/
def clusterStart (d : Dev) (s c : Nat) : Dev :=
  ((List.range 8).map (8 * c + ·)).foldl (fun d k =>
    let co := getCore d (coreKey s k)
    if !co.armed then d
    else maskFold (rfld d (pgCore s k + 0x800) 0 16) (fun d n => ctxGo d s k n) (putCore d (coreKey s k) { co with armed := false })) d

/-! ## Checkpoints (R143, R144) -/

def checkpoint (d : Dev) (tag : W32) : Dev :=
  serve d tag 0x13 [jsRunning] (fun d =>
    reply { d with job := { d.job with ckptWanted := BitVec.ofNat 4 (upMask d) } } tag scOk 0x13)

/-- The first 8 bytes of this package's DeviceID digest, behind its boot count and seal number: header bytes 48 to 63. -/
def ckptWriter (d : Dev) : List Byte := toBytes 4 (bootCount d) ++ toBytes 4 d.job.seals.toNat ++ (digestBytes (devidDigest d)).take 8
/-- The initialisation vector: package ID, site, zero, segment index. -/
def ckptIv (d : Dev) (s i : Nat) : List Byte := toBytes 2 d.job.packageId.toNat ++ toBytes 1 s ++ [0] ++ toBytes 8 i
/-- The 64-byte header of a segment. (DEDUCED, log entry 30) -/
def ckptHeader (d : Dev) (s number step i len : Nat) : List Byte :=
  toBytes 4 0x50435443 ++ toBytes 4 0 ++ toBytes 8 number ++ toBytes 8 step ++ toBytes 2 d.job.packageId.toNat ++ toBytes 1 s ++ [0]
  ++ toBytes 4 i ++ toBytes 4 len ++ ckptIv d s i ++ ckptWriter d
/-- The segments lie in the checkpoint region and hold at most 64 MiB each. (DEDUCED, log entry 30) -/
def ckptFits (d : Dev) (segs : List (BitVec 40 × Nat × BitVec 40)) : Bool :=
  segs.all (fun g => decide (g.2.1 ≤ 67108864) && decide (d.job.ckptBase.toNat ≤ g.2.2.toNat)
    && decide (g.2.2.toNat + 80 + g.2.1 ≤ d.job.ckptBase.toNat + d.job.ckptLen.toNat))
/-- One segment: header, ciphertext and tag. (DEDUCED, log entry 30) -/
def ckptSegment (d : Dev) (key : Key) (s number step i : Nat) (g : BitVec 40 × Nat × BitVec 40) : Dev :=
  let x := memRead d g.1.toNat g.2.1
  let h := ckptHeader d s number step i g.2.1
  let k := ckptKey key d.job.jobId number (ckptWriter d)
  let body := gcmSeal k (BitVec.ofNat 96 (ofBytes (ckptIv d s i))) h x.1
  agentWrite x.2.2 (.die s) g.2.2.toNat (h ++ body) x.2.1
/-- CHECKPOINT_WRITE: a die's Sorter DMA writes its state at the step boundary after CHECKPOINT. (DEDUCED, log entry 30) -/
def checkpointWrite (d : Dev) (s number step : Nat) (segs : List (BitVec 40 × Nat × BitVec 40)) : Dev :=
  match d.job.key with
  | none => d
  | some key =>
    if jobState d ≠ jsRunning ∨ !bvBit d.job.ckptWanted s ∨ !dieUp d s ∨ !ckptFits d segs then d
    else
      let d := { d with job := { d.job with ckptWanted := setBv d.job.ckptWanted s false, ckptKeyed := true } }
      ((List.range segs.length).zip segs).foldl (fun d g => ckptSegment d key s number step g.1 g.2) d
/-- RESTORE_SEGMENT: a segment of the expected checkpoint whose tag verifies is written; any other is counted. -/
def restoreSegment (d : Dev) (s : Nat) (g : Segment) : Dev :=
  match d.job.key with
  | none => d
  | some key =>
    if !sealedJob d ∨ !dieUp d s then d
    else
      let plain := if segNumber g.bytes = d.job.restoreNo.toNat then segOpen key d.job.jobId g.bytes else none
      match plain with
      | none => incSat d (pgSeal + 0x82C)
      | some bs => agentWrite { d with job := { d.job with ckptKeyed := true } } (.die s) g.ppa.toNat bs false

/-! ## END and ABORT -/

/-- Every restante slot of a die is FREE (R307). -/
def slotsFree (d : Dev) (s : Nat) : Dev :=
  let d := (List.range 64).foldl (fun d r => setReg d (slotStat s r) 0) d
  putSorter d s { getSorter d s with written := [] }
/-- The job's work on a die ends (R414, R438, R192, R307). -/
def dieEnd (d : Dev) (s : Nat) : Dev :=
  if !dieUp d s then d
  else slotsFree ((List.range 128).foldl (fun d k => endCore d s k false) (boxesEnd (abortDockets d s) s)) s
/-- Keys of the job are destroyed; JOB_STAT is NONE; FENCED stands until the next SEAL. -/
def jobForget (d : Dev) : Dev :=
  let d := setSec { d with job := { Job.reset with seals := d.job.seals } } 2 false
  setJobState d jsNone
/-- END or ABORT completes: work, keys, mailbox table, measurements and level, then the job boundary. -/
def jobComplete (d : Dev) : Dev :=
  let d := twinEnd ((List.range 4).foldl dieEnd d)
  jobBoundary (levelBack (clearJobMeas (mailboxClear (jobForget d))))

def endJob (d : Dev) (tag : W32) : Dev :=
  serve d tag 0x14 [jsSealed, jsRunning] (fun d =>
    if jobState d = jsSealed then reply (jobComplete d) tag scOk 0x14
    else setJobState { d with job := { d.job with endTag := some tag } } jsEnding)
/-- END_STEP_BOUNDARY: an END that waits for it completes; its response is formed unless a PERST_N has come between (R105). -/
def endStep (d : Dev) : Dev :=
  if jobState d ≠ jsEnding then d
  else match d.job.endTag with
    | some tag => reply (jobComplete d) tag scOk 0x14
    | none => jobComplete d
/-- ABORT stops the job at once; an END that waits has its response first. -/
def abort (d : Dev) (tag : W32) : Dev :=
  if !abortReady d then d
  else if jobState d = jsNone then reply d tag scBadState 0x15
  else
    let waiting := d.job.endTag
    let d := jobComplete d
    let d := match waiting with | some t => reply d t scOk 0x14 | none => d
    reply d tag scOk 0x15

/-! ## READ_WEAR and PROPOSE_OPTABLE -/

def readWear (d : Dev) (tag : W32) (bufAddr : W64) (bufLen : W32) (number : W64) : Dev :=
  serve d tag 0x20 anyState (fun d =>
    let bs := wearCopy d number.toNat bufLen.toNat
    answerAt d tag scOk 0x20 bs.length 0 bufAddr bs)

def proposeOptable (d : Dev) (tag : W32) (table : List Byte) (bufOk : Bool) : Dev :=
  serve d tag 0x21 anyState (fun d =>
    if !bufOk then reply d tag scHostDma 0x21
    else
      let t := tableOf table
      let r := tableReason d t
      if r ≠ 0 then answer (wearReplan d (sm3 table) r false) tag scCapability 0x21 (BitVec.ofNat 160 r)
      else
        let d := { d with board := { d.board with pendTable := t } }
        reply (if jobState d = jsNone ∨ jobState d = jsLoaded then jobBoundary d else d) tag scOk 0x21)

/-! ## DEBUG_TOKEN -/

/-- Every field check and signature of R146 and R147. (DEDUCED, log entry 44) -/
def tokenOk (d : Dev) (t : List Byte) : Bool :=
  tokHeadOk t && bytesAt t 12 4 == bootCount d && decide ((rollback d 5).toNat ≤ (tokEpoch t).toNat)
  && digestOf (bytesFrom t 32 32) == devidDigest d && tokSigned (rootKey d) t
/-- Every fabric and twin port is taken down. (DEDUCED, log entry 44) -/
def portsDown (d : Dev) : Dev :=
  (List.range 50).foldl (fun d n => if linkState d n = 0 ∨ linkState d n = 9 then d else portOff d n) d
/-- What an accepted token does (R147). (DEDUCED, log entry 44) -/
def enterDebug (d : Dev) (t : List Byte) : Dev :=
  let d := portsDown (if jobState d = jsNone then d else jobComplete d)
  let d := counterAccess (extend d 5 (sm3 t)) (fun d =>
    { d with flash := { d.flash with counters := raiseCounter d.flash.counters 5 (tokEpoch t) } })
  setReg (setSec { d with sealU := { d.sealU with debugBits := some (tokFeatures t) } } 1 true) (pgSeal + 0x830) (tokFeatures t)
def debugToken (d : Dev) (tag : W32) (t : List Byte) (bufOk : Bool) : Dev :=
  serve d tag 0x30 anyState (fun d =>
    if !bufOk then reply d tag scHostDma 0x30
    else if !tokenOk d t then reply d tag scAuthFail 0x30
    else reply (enterDebug d t) tag scOk 0x30)

/-! ## TWIN_CTL -/

/-- An action of R462; BAD_STATE outside RUNNING and in a twin state that does not allow it. -/
def twinCtl (d : Dev) (tag : W32) (f : Dev → Option Dev) : Dev :=
  serve d tag 0x40 [jsRunning] (fun d =>
    match f d with
    | some d => answer d tag scOk 0x40 (twinResult d)
    | none => answer d tag scBadState 0x40 (twinResult d))

end Sys2Proof.Machine
end

