-- ==== Sys2Proof/Machine/Power.lean ====
section
/-!
DEFINITION. PWR_OK (R26, R31, R75), and what the board management controller does over SMBus (R28, R83, R92, R482, R521).
-/
namespace Sys2Proof.Machine

/-! ## PWR_OK -/

/-- The package with no register, key or memory of an earlier power-up: boot flash, the fitted parts, what has left the package and
the count of free values stay. -/
def unpowered (d : Dev) : Dev :=
  { Dev.reset with dies := d.dies, baseLevel := d.baseLevel, baseLetter := d.baseLetter, baseNum := d.baseNum, uds := d.uds
                   rootDigest := d.rootDigest, caKey := d.caKey, flash := d.flash, free := d.free, out := d.out }
/-- A rising edge: SERVICE_MODE is sampled, and steps 1 to 3 of R75 run; `lasers` are the powers that the 16 laser inputs give then. -/
def powerUp (d : Dev) (service perstN pufOk : Bool) (lasers : BitVec 512) : Dev :=
  let d := unpowered d
  bootChain { d with board := { d.board with pwrOk := true, perstN := perstN, service := service, optics := true } } pufOk lasers
/-- A falling edge: all work stops, the transmitters are silent, every key is erased; THERM_TRIP_N stays as it is (R27).
(DEDUCED, log entry 23) -/
def powerDown (d : Dev) : Dev :=
  let trip := d.board.thermTrip
  let d := unpowered d
  { d with board := { d.board with thermTrip := trip } }

/-! ## SMBus -/

/-- Telemetry: the record of R521 as a block, or the readings of the BASE page; the halt record beside them while halted.
(DEDUCED, log entry 22) -/
def smbusTelemetry (d : Dev) (block : Bool) : Dev :=
  let words (l : List Nat) : List Byte := l.flatMap (fun a => toBytes 4 (regN d a))
  let rec' := if d.board.halted then words [pgMgr + 0x8A0, pgMgr + 0x8A4, pgMgr + 0x8A8, pgMgr + 0x8AC] else []
  emit d (.smbusData ((if block then telemetryRead d else words [pgBase + 0x840, pgBase + 0x844, pgBase + 0x848]) ++ rec'))
/-- PKG_LIMIT over SMBus; a halted package refuses it. (DEDUCED, log entry 22) -/
def smbusLimit (d : Dev) (w : Nat) : Dev := if d.board.halted then emit d .smbusRefusal else pkgLimitWrite d .board w
/-- The emergency power-down over SMBus; a halted package refuses it. (DEDUCED, log entry 22) -/
def smbusEpd (d : Dev) : Dev := if d.board.halted then emit d .smbusRefusal else epdWrite d 1

end Sys2Proof.Machine
end

