-- ==== Sys2Proof/Machine/ExecBoard.lean ====
section
/-!
DEFINITION. One meaning per command: the commands of board, power and start-up (chapters 1, 3 and 5). `gated` runs a
command on a package that is powered and not halted, `powered` on one that is powered (R481, R482); in any other it changes nothing.
-/
namespace Sys2Proof.Machine

/-- PWR_OK_RISE. A rising edge of PWR_OK starts the package start-up sequence. (R75) -/
def execPwrOkRise (serviceMode perstN : Bool) (readings : PowerReadings) (s : State) : Host.Outcome State Fault Refusal :=
  .next { s with dev := if s.dev.board.pwrOk then s.dev else settle (powerUp s.dev serviceMode perstN readings.pufOk readings.lasers) }
/-- RECOVERY_IMAGE. In recovery, base ROM accepts one manager image through the IEEE 1500 mailbox, verifies it and writes it to slot A. (R128) -/
def execRecoveryImage (img : SignedImage) (s : State) : Host.Outcome State Fault Refusal :=
  gated (fun d => recoveryImage d img) s
/-- PWR_OK_FALL. A falling PWR_OK stops all work, silences the transmitters and erases all keys within 100 µs. (R31) -/
def execPwrOkFall (s : State) : Host.Outcome State Fault Refusal :=
  .next { s with dev := if s.dev.board.pwrOk then powerDown s.dev else s.dev }
/-- PERST_N_ASSERT. PERST_N resets the host-link PCIe state, the ring registers and the HDMA run-time registers. (R96) -/
def execPerstNAssert (s : State) : Host.Outcome State Fault Refusal :=
  powered (fun d => perstAssert d) s
/-- PERST_N_DEASSERT. Release of PERST_N lets the host link train. (R75) -/
def execPerstNDeassert (s : State) : Host.Outcome State Fault Refusal :=
  powered (fun d => perstDeassert d) s
/-- REFCLK_LOSS. When REFCLK has no edges for 1 µs, the package enters class X. (R73) -/
def execRefclkLoss (s : State) : Host.Outcome State Fault Refusal :=
  gated (fun d => refclkLoss d) s
/-- PLL_UNLOCK. Loss of lock of a base, die or cluster loop halts the package or fences the die or cluster. (R73) -/
def execPllUnlock (which : ClockLoop) (s : State) : Host.Outcome State Fault Refusal :=
  gated (fun d => pllUnlock d which) s
/-- DIE_RELEASE. At 30 + 4d ms the manager releases die site d, which then locks its loops, applies its repairs and starts its clusters. (R75) -/
def execDieRelease (site : Site) (s : State) : Host.Outcome State Fault Refusal :=
  gated (fun d => dieRelease d site.val) s
/-- DIE_READY. A released die reports ready after its die firmware has started. (R75) -/
def execDieReady (site : Site) (stubDigest : Digest) (s : State) : Host.Outcome State Fault Refusal :=
  gated (fun d => dieReady d site.val stubDigest) s
/-- D2D_BRINGUP. The firmware enables the edges and runs the sideband exchange, repair and lane test of every link. (R320) -/
def execD2dBringup (mismatched : List (Fin 4)) (failed : List (ModRef × Fin 68)) (s : State) : Host.Outcome State Fault Refusal :=
  gated (fun d => d2dBringup d mismatched failed) s
/-- D2D_PEER_ABSENT. When the peer sideband stays silent for 1 ms, the edge is fenced with PEER_ABSENT. (R320) -/
def execD2dPeerAbsent (site : Site) (edgeB : Bool) (s : State) : Host.Outcome State Fault Refusal :=
  gated (fun d => peerAbsent d site.val edgeB.toNat) s
/-- D2D_BRINGUP_DONE. The edge logic writes the steering table, returns the initial credits and goes RUNNING. (R320) -/
def execD2dBringupDone (site : Site) (edgeB : Bool) (s : State) : Host.Outcome State Fault Refusal :=
  gated (fun d => bringupDone d site.val edgeB.toNat) s
/-- STACK_TRAIN_DONE. An HBM stack finishes training or fails and is fenced, and the next stack starts. (R75) -/
def execStackTrainDone (stack : Fin 12) (ok : Bool) (s : State) : Host.Outcome State Fault Refusal :=
  gated (fun d => stackTrained d stack.val ok) s
/-- PORT_GROUP_ENABLE. Every 2 ms the next group of four ports is enabled. (R75) -/
def execPortGroupEnable (group : Fin 13) (s : State) : Host.Outcome State Fault Refusal :=
  gated (fun d => portGroup d group.val) s
/-- LASER_LOW. A laser wavelength below the threshold takes down every port fed by that input and counts one event. (R24) -/
def execLaserLow (input : Fin 16) (wave : Fin 4) (power : Byte) (s : State) : Host.Outcome State Fault Refusal :=
  gated (fun d => laserFail d input.val wave.val power.toNat) s
/-- LASER_RESTORE. After 100 ms at 1 dB above the threshold, the ports of the input become eligible for bring-up again. (R24) -/
def execLaserRestore (input : Fin 16) (powers : W32) (s : State) : Host.Outcome State Fault Refusal :=
  gated (fun d => laserBack d input.val powers) s
/-- SMBUS_READ_TELEMETRY. The board management controller reads telemetry or the telemetry record over SMBus. (R28) -/
def execSmbusReadTelemetry (block : Bool) (s : State) : Host.Outcome State Fault Refusal :=
  powered (fun d => smbusTelemetry d block) s
/-- SMBUS_SET_LIMIT. The board management controller writes PKG_LIMIT over SMBus. (R83) -/
def execSmbusSetLimit (watts : W32) (s : State) : Host.Outcome State Fault Refusal :=
  powered (fun d => smbusLimit d watts.toNat) s
/-- SMBUS_EPD_REQUEST. The board management controller requests an emergency power-down. (R92) -/
def execSmbusEpdRequest (s : State) : Host.Outcome State Fault Refusal :=
  powered (fun d => smbusEpd d) s
/-- SMBUS_REFUSED. The SMBus target refuses any other request. (R28) -/
def execSmbusRefused (_request : W32) (s : State) : Host.Outcome State Fault Refusal :=
  powered (fun d => emit d .smbusRefusal) s

end Sys2Proof.Machine
end

