-- ==== Sys2Proof/Machine/ExecCtrl.lean ====
section
/-!
DEFINITION. One meaning per command: the issue of a bundle and the operations of the CTRL slot (chapter 6). `gated` runs a
command on a package that is powered and not halted, `powered` on one that is powered (R481, R482); in any other it changes nothing.
-/
namespace Sys2Proof.Machine

/-- BUNDLE_ISSUE. In each array cycle the core issues one bundle from the next ready context. (R151) -/
def execBundleIssue (core : CoreRef) (s : State) : Host.Outcome State Fault Refusal :=
  gated (fun d => if coreLive d core.site.val core.core.val then coreCycle d core.site.val core.core.val else d) s
/-- ADD. sd ← s[SA] + B. (R162) -/
def execAdd (c : CtxRef) (h : Hdr) (f : CtrlF) (s : State) : Host.Outcome State Fault Refusal :=
  gated (fun d => slotCtrl d c h .add f) s
/-- SUB. sd ← s[SA] − B. (R162) -/
def execSub (c : CtxRef) (h : Hdr) (f : CtrlF) (s : State) : Host.Outcome State Fault Refusal :=
  gated (fun d => slotCtrl d c h .sub f) s
/-- MUL. sd ← the low 64 bits of the product. (R162) -/
def execMul (c : CtxRef) (h : Hdr) (f : CtrlF) (s : State) : Host.Outcome State Fault Refusal :=
  gated (fun d => slotCtrl d c h .mul f) s
/-- MULHU. sd ← the high 64 bits of the unsigned product. (R162) -/
def execMulhu (c : CtxRef) (h : Hdr) (f : CtrlF) (s : State) : Host.Outcome State Fault Refusal :=
  gated (fun d => slotCtrl d c h .mulhu f) s
/-- AND. Bitwise AND with B. (R162) -/
def execAnd (c : CtxRef) (h : Hdr) (f : CtrlF) (s : State) : Host.Outcome State Fault Refusal :=
  gated (fun d => slotCtrl d c h .and f) s
/-- OR. Bitwise OR with B. (R162) -/
def execOr (c : CtxRef) (h : Hdr) (f : CtrlF) (s : State) : Host.Outcome State Fault Refusal :=
  gated (fun d => slotCtrl d c h .or f) s
/-- XOR. Bitwise XOR with B. (R162) -/
def execXor (c : CtxRef) (h : Hdr) (f : CtrlF) (s : State) : Host.Outcome State Fault Refusal :=
  gated (fun d => slotCtrl d c h .xor f) s
/-- SHL. Shift left by B mod 64. (R162) -/
def execShl (c : CtxRef) (h : Hdr) (f : CtrlF) (s : State) : Host.Outcome State Fault Refusal :=
  gated (fun d => slotCtrl d c h .shl f) s
/-- SHR. Logical shift right by B mod 64. (R162) -/
def execShr (c : CtxRef) (h : Hdr) (f : CtrlF) (s : State) : Host.Outcome State Fault Refusal :=
  gated (fun d => slotCtrl d c h .shr f) s
/-- SRA. Arithmetic shift right by B mod 64. (R162) -/
def execSra (c : CtxRef) (h : Hdr) (f : CtrlF) (s : State) : Host.Outcome State Fault Refusal :=
  gated (fun d => slotCtrl d c h .sra f) s
/-- MIN. Signed minimum with B. (R162) -/
def execMin (c : CtxRef) (h : Hdr) (f : CtrlF) (s : State) : Host.Outcome State Fault Refusal :=
  gated (fun d => slotCtrl d c h .min f) s
/-- MAX. Signed maximum with B. (R162) -/
def execMax (c : CtxRef) (h : Hdr) (f : CtrlF) (s : State) : Host.Outcome State Fault Refusal :=
  gated (fun d => slotCtrl d c h .max f) s
/-- MINU. Unsigned minimum with B. (R162) -/
def execMinu (c : CtxRef) (h : Hdr) (f : CtrlF) (s : State) : Host.Outcome State Fault Refusal :=
  gated (fun d => slotCtrl d c h .minu f) s
/-- MAXU. Unsigned maximum with B. (R162) -/
def execMaxu (c : CtxRef) (h : Hdr) (f : CtrlF) (s : State) : Host.Outcome State Fault Refusal :=
  gated (fun d => slotCtrl d c h .maxu f) s
/-- CMP. sd ← 1 when condition FN holds, else 0. (R163) -/
def execCmp (c : CtxRef) (h : Hdr) (f : CtrlF) (s : State) : Host.Outcome State Fault Refusal :=
  gated (fun d => slotCtrl d c h .cmp f) s
/-- LUI. Loads IMM into the upper 32 bits of sd. (R162) -/
def execLui (c : CtxRef) (h : Hdr) (f : CtrlF) (s : State) : Host.Outcome State Fault Refusal :=
  gated (fun d => slotCtrl d c h .lui f) s
/-- BR. Conditional relative branch. (R162) -/
def execBr (c : CtxRef) (h : Hdr) (f : CtrlF) (s : State) : Host.Outcome State Fault Refusal :=
  gated (fun d => slotCtrl d c h .br f) s
/-- JAL. Jump and link. (R162) -/
def execJal (c : CtxRef) (h : Hdr) (f : CtrlF) (s : State) : Host.Outcome State Fault Refusal :=
  gated (fun d => slotCtrl d c h .jal f) s
/-- JR. Jump to s[SA] + IMM. (R162) -/
def execJr (c : CtxRef) (h : Hdr) (f : CtrlF) (s : State) : Host.Outcome State Fault Refusal :=
  gated (fun d => slotCtrl d c h .jr f) s
/-- HALT. The context becomes HALTED. (R162) -/
def execHalt (c : CtxRef) (h : Hdr) (f : CtrlF) (s : State) : Host.Outcome State Fault Refusal :=
  gated (fun d => slotCtrl d c h .halt f) s
/-- SLD. Loads 64 bits from core memory. (R164) -/
def execSld (c : CtxRef) (h : Hdr) (f : CtrlF) (s : State) : Host.Outcome State Fault Refusal :=
  gated (fun d => slotCtrl d c h .sld f) s
/-- SLW. Loads 32 bits from core memory, zero-extended. (R164) -/
def execSlw (c : CtxRef) (h : Hdr) (f : CtrlF) (s : State) : Host.Outcome State Fault Refusal :=
  gated (fun d => slotCtrl d c h .slw f) s
/-- SST. Stores 64 bits to core memory. (R164) -/
def execSst (c : CtxRef) (h : Hdr) (f : CtrlF) (s : State) : Host.Outcome State Fault Refusal :=
  gated (fun d => slotCtrl d c h .sst f) s
/-- SSW. Stores 32 bits to core memory. (R164) -/
def execSsw (c : CtxRef) (h : Hdr) (f : CtrlF) (s : State) : Host.Outcome State Fault Refusal :=
  gated (fun d => slotCtrl d c h .ssw f) s
/-- S2V. Broadcasts a scalar into every vector lane. (R162) -/
def execS2v (c : CtxRef) (h : Hdr) (f : CtrlF) (s : State) : Host.Outcome State Fault Refusal :=
  gated (fun d => slotCtrl d c h .s2v f) s
/-- V2S. Moves one vector lane into a scalar. (R162) -/
def execV2s (c : CtxRef) (h : Hdr) (f : CtrlF) (s : State) : Host.Outcome State Fault Refusal :=
  gated (fun d => slotCtrl d c h .v2s f) s
/-- CSET. Sets a completion counter. (R178) -/
def execCset (c : CtxRef) (h : Hdr) (f : CtrlF) (s : State) : Host.Outcome State Fault Refusal :=
  gated (fun d => slotCtrl d c h .cset f) s
/-- CADD. Adds to a completion counter. (R178) -/
def execCadd (c : CtxRef) (h : Hdr) (f : CtrlF) (s : State) : Host.Outcome State Fault Refusal :=
  gated (fun d => slotCtrl d c h .cadd f) s
/-- CRD. Reads a completion counter. (R162) -/
def execCrd (c : CtxRef) (h : Hdr) (f : CtrlF) (s : State) : Host.Outcome State Fault Refusal :=
  gated (fun d => slotCtrl d c h .crd f) s
/-- FLGRD. Reads the flags and the overflow count. (R162) -/
def execFlgrd (c : CtxRef) (h : Hdr) (f : CtrlF) (s : State) : Host.Outcome State Fault Refusal :=
  gated (fun d => slotCtrl d c h .flgrd f) s
/-- FLGCLR. Clears the flags and optionally the overflow count. (R258) -/
def execFlgclr (c : CtxRef) (h : Hdr) (f : CtrlF) (s : State) : Host.Outcome State Fault Refusal :=
  gated (fun d => slotCtrl d c h .flgclr f) s
/-- RSEED. Seeds the context LFSR. (R252) -/
def execRseed (c : CtxRef) (h : Hdr) (f : CtrlF) (s : State) : Host.Outcome State Fault Refusal :=
  gated (fun d => slotCtrl d c h .rseed f) s
/-- WAITC. Waits on a completion counter condition. (R179) -/
def execWaitc (c : CtxRef) (h : Hdr) (f : CtrlF) (s : State) : Host.Outcome State Fault Refusal :=
  gated (fun d => slotCtrl d c h .waitc f) s
/-- WAITD. Waits on a job doorbell condition. (R179) -/
def execWaitd (c : CtxRef) (h : Hdr) (f : CtrlF) (s : State) : Host.Outcome State Fault Refusal :=
  gated (fun d => slotCtrl d c h .waitd f) s
/-- BARC. Arrives at a cluster barrier and waits for its release. (R291) -/
def execBarc (c : CtxRef) (h : Hdr) (f : CtrlF) (s : State) : Host.Outcome State Fault Refusal :=
  gated (fun d => slotCtrl d c h .barc f) s
/-- DBRD. Reads a job doorbell counter. (R162) -/
def execDbrd (c : CtxRef) (h : Hdr) (f : CtrlF) (s : State) : Host.Outcome State Fault Refusal :=
  gated (fun d => slotCtrl d c h .dbrd f) s
/-- NOTE. Adds to JOB_NOTE and sends its vector. (R106) -/
def execNote (c : CtxRef) (h : Hdr) (f : CtrlF) (s : State) : Host.Outcome State Fault Refusal :=
  gated (fun d => slotCtrl d c h .note f) s
/-- DLD. Loads a descriptor and starts a stream use. (R176) -/
def execDld (c : CtxRef) (h : Hdr) (f : CtrlF) (s : State) : Host.Outcome State Fault Refusal :=
  gated (fun d => slotCtrl d c h .dld f) s
/-- FETCH. Copies a whole stream into core memory. (R177) -/
def execFetch (c : CtxRef) (h : Hdr) (f : CtrlF) (s : State) : Host.Outcome State Fault Refusal :=
  gated (fun d => slotCtrl d c h .fetch f) s
/-- PUT. Copies core memory into a whole stream. (R177) -/
def execPut (c : CtxRef) (h : Hdr) (f : CtrlF) (s : State) : Host.Outcome State Fault Refusal :=
  gated (fun d => slotCtrl d c h .put f) s
/-- DPOS. Reads a stream position. (R162) -/
def execDpos (c : CtxRef) (h : Hdr) (f : CtrlF) (s : State) : Host.Outcome State Fault Refusal :=
  gated (fun d => slotCtrl d c h .dpos f) s
/-- DSKIP. Advances a stream position. (R176) -/
def execDskip (c : CtxRef) (h : Hdr) (f : CtrlF) (s : State) : Host.Outcome State Fault Refusal :=
  gated (fun d => slotCtrl d c h .dskip f) s
/-- POST. Posts a docket to the die's Sorter. (R181) -/
def execPost (c : CtxRef) (h : Hdr) (f : CtrlF) (s : State) : Host.Outcome State Fault Refusal :=
  gated (fun d => slotCtrl d c h .post f) s
/-- PACK. Builds the count table and send list for expert routing. (R186) -/
def execPack (c : CtxRef) (h : Hdr) (f : CtrlF) (s : State) : Host.Outcome State Fault Refusal :=
  gated (fun d => slotCtrl d c h .pack f) s
/-- WAIT_SATISFIED. A waiting context's condition holds, and it returns to RUNNING. (R178) -/
def execWaitSatisfied (c : CtxRef) (s : State) : Host.Outcome State Fault Refusal :=
  gated (fun d => wakeCtx d c.site.val c.core.val c.ctx.val) s

end Sys2Proof.Machine
end

