-- ==== Sys2Proof/Machine/ExecD2d.lean ====
section
/-!
DEFINITION. One meaning per command: the die-to-die edges (chapter 11). `gated` runs a
command on a package that is powered and not halted, `powered` on one that is powered (R481, R482); in any other it changes nothing.
-/
namespace Sys2Proof.Machine

/-- D2D_FLIT_RECEIVE. A die-to-die flit arrives and is checked, accepted or discarded with a NAK; its ACK and credits are processed. (R315) -/
def execD2dFlitReceive (m : ModRef) (flit : D2dFlit) (s : State) : Host.Outcome State Fault Refusal :=
  gated (fun d => d2dReceive d (modRefKey m) flit) s
/-- D2D_REPLAY_TIMEOUT. ACK stalls for TIMEOUT cycles, and the sender resends from the oldest flit. (R315) -/
def execD2dReplayTimeout (m : ModRef) (s : State) : Host.Outcome State Fault Refusal :=
  gated (fun d => d2dTimeout d (modRefKey m)) s
/-- D2D_RETRAIN. A module retrains, runs the lane test and applies the repair ladder. (R322) -/
def execD2dRetrain (m : ModRef) (s : State) : Host.Outcome State Fault Refusal :=
  gated (fun d => retrainStart d (modRefKey m)) s
/-- D2D_RETRAIN_DONE. The module returns to service or leaves it within 60 µs. (R322) -/
def execD2dRetrainDone (m : ModRef) (failed : BitVec 68) (s : State) : Host.Outcome State Fault Refusal :=
  gated (fun d => retrainDone d (modRefKey m) failed) s
/-- MODULE_DISABLE. A module leaves service, and the sides exchange the last accepted SEQ. (R324) -/
def execModuleDisable (m : ModRef) (s : State) : Host.Outcome State Fault Refusal :=
  gated (fun d => if inService d (modRefKey m) then startFence d ⟨.module (modRefKey m), modPage (modRefKey m), 0x104⟩ else d) s
/-- SIDEBAND_TIMEOUT. No sideband answer within 100 µs fails the unacknowledged packets. (R324) -/
def execSidebandTimeout (m : ModRef) (s : State) : Host.Outcome State Fault Refusal :=
  gated (fun d => sidebandTimeout d (modRefKey m)) s
/-- EDGE_QUIESCE. The edge stops starting packets until no flit is unacknowledged. (R318) -/
def execEdgeQuiesce (site : Site) (edgeB : Bool) (s : State) : Host.Outcome State Fault Refusal :=
  gated (fun d => quiesceStart d site.val edgeB.toNat) s
/-- QUIESCE_DONE. The quiesce ends, the steering table is rewritten and traffic resumes. (R318) -/
def execQuiesceDone (site : Site) (edgeB : Bool) (s : State) : Host.Outcome State Fault Refusal :=
  gated (fun d => quiesceDone d site.val edgeB.toNat) s
/-- EDGE_FENCE. An edge is fenced on both sides, and all dies stop starting packets. (R326) -/
def execEdgeFence (site : Site) (edgeB : Bool) (s : State) : Host.Outcome State Fault Refusal :=
  gated (fun d => if dieUp d site.val then edgeFence d site.val edgeB.toNat else d) s
/-- ROUTE_REWRITE. After the drain, the manager writes new routes into every die at once. (R326) -/
def execRouteRewrite (s : State) : Host.Outcome State Fault Refusal :=
  gated (fun d => routeRewrite d) s

end Sys2Proof.Machine
end

