-- ==== Sys2Proof/Machine/ExecFabric.lean ====
section
/-!
DEFINITION. One meaning per command: the fabric ports and routers (chapter 12). `gated` runs a
command on a package that is powered and not halted, `powered` on one that is powered (R481, R482); in any other it changes nothing.
-/
namespace Sys2Proof.Machine

/-- FRAME_RECEIVE. A fabric frame is FEC-decoded and CRC-checked, and its flit is accepted, NAKed or handled for ACK, NAK and credits. (R341) -/
def execFrameReceive (port : Fin 50) (frame : List Byte) (s : State) : Host.Outcome State Fault Refusal :=
  gated (fun d => frameReceive d port.val frame) s
/-- PORT_REPLAY_TIMEOUT. ACK stalls for TIMEOUT router cycles, and the port resends from the oldest flit. (R341) -/
def execPortReplayTimeout (port : Fin 50) (s : State) : Host.Outcome State Fault Refusal :=
  gated (fun d => portTimeout d port.val) s
/-- PORT_RETRAIN. A port retrain relocks the rings, runs the lane test and resends its replay. (R342) -/
def execPortRetrain (port : Fin 50) (s : State) : Host.Outcome State Fault Refusal :=
  gated (fun d => portRetrain d port.val) s
/-- PORT_RETRAIN_DONE. The retrain completes, or the port is fenced with NO_WIDTH. (R342) -/
def execPortRetrainDone (port : Fin 50) (failed : BitVec 4) (s : State) : Host.Outcome State Fault Refusal :=
  gated (fun d => portRetrainDone d port.val failed) s
/-- RETRAIN. A write of PORT.RETRAIN retrains an UP port. (R365) -/
def execRetrain (who : Requester) (port : Fin 50) (val : W32) (s : State) : Host.Outcome State Fault Refusal :=
  gated (fun d => access d who (pgOfPort port.val + 0xF00) (fun d => if tbit val.toNat 0 then portRetrain d port.val else d)) s
/-- CDR_LOCK_LOSS. Loss of CDR lock on an active lane retrains the port. (R342) -/
def execCdrLockLoss (port : Fin 50) (lane : Fin 4) (s : State) : Host.Outcome State Fault Refusal :=
  gated (fun d => cdrLoss d port.val lane.val) s
/-- PORT_LIGHT_SEEN. Light from the peer starts link training and the lane test. (R347) -/
def execPortLightSeen (port : Fin 50) (s : State) : Host.Outcome State Fault Refusal :=
  gated (fun d => lightSeen d port.val) s
/-- PEER_RETRY_TIMER. A port with a silent peer retries training every 10 ms. (R348) -/
def execPeerRetryTimer (port : Fin 50) (s : State) : Host.Outcome State Fault Refusal :=
  gated (fun d => peerRetry d port.val) s
/-- PACKET_ROUTE. A router decides a packet's egress. (R355) -/
def execPacketRoute (site : Site) (arrival : Option (Fin 50)) (pkt : Packet) (s : State) : Host.Outcome State Fault Refusal :=
  gated (fun d => packetRoute d site.val (match arrival with | some p => p.val | none => 63) pkt) s
/-- CREDIT_EXCHANGE. Every 256 router cycles the routers exchange their free credits. (R357) -/
def execCreditExchange (s : State) : Host.Outcome State Fault Refusal :=
  gated (fun d => creditExchange d) s
/-- RING_HEATER_UPDATE. The optical engine runs one update of the ring-heater loop. (R368) -/
def execRingHeaterUpdate (engine : Fin 13) (lanes : List (Fin 16 × W32)) (relocked limited : Option (Fin 16))
    (s : State) : Host.Outcome State Fault Refusal :=
  gated (fun d => ringUpdate (commitSafePoint d (pgOpt engine.val)) engine.val lanes relocked limited) s
/-- PORT_TRAINING_DONE. A port finishes clock-data recovery lock, frame alignment and its lane test, sets its width or is fenced with NO_WIDTH, and moves to WAIT_TOPO or starts the handshake. (R347) -/
def execPortTrainingDone (port : Fin 50) (failed : BitVec 4) (s : State) : Host.Outcome State Fault Refusal :=
  gated (fun d => trainingDone d port.val failed) s

end Sys2Proof.Machine
end

