-- ==== Sys2Proof/Machine/ExecFaults.lean ====
section
/-!
DEFINITION. One meaning per command: fencing, ageing, counters and trace (chapters 17 to 19). `gated` runs a
command on a package that is powered and not halted, `powered` on one that is powered (R481, R482); in any other it changes nothing.
-/
namespace Sys2Proof.Machine

/-- FENCE_SEQUENCE. A class F starts the fence sequence of its unit. (R478) -/
def execFenceSequence (page : Bar0) (code : BitVec 12) (unit : Nat) (s : State) : Host.Outcome State Fault Refusal :=
  gated (fun d => fenceSequence d (pageBase page.toNat) code.toNat unit) s
/-- FENCE_DRAIN_TIMEOUT. Work that has not drained within 100 µs is ended. (R478) -/
def execFenceDrainTimeout (page : Bar0) (s : State) : Host.Outcome State Fault Refusal :=
  gated (fun d => fenceTimeout d (pageBase page.toNat)) s
/-- FENCE_COMPLETE. The manager records the fence in the ledger and clears RECOVERING or FENCING. (R478) -/
def execFenceComplete (page : Bar0) (s : State) : Host.Outcome State Fault Refusal :=
  gated (fun d => fenceComplete d (pageBase page.toNat)) s
/-- AGEMON_SAMPLE. The AGEMON page samples every cluster's monitors. (R491) -/
def execAgemonSample (site : Site) (readings : List (Fin 16 × AgeReading)) (s : State) : Host.Outcome State Fault Refusal :=
  gated (fun d => agemonSample (commitSafePoint d (pgAgemon site.val)) site.val readings) s
/-- SAMPLE_NOW. A write of SAMPLE_NOW samples every cluster at once. (R499) -/
def execSampleNow (who : Requester) (site : Site) (val : W32) (readings : List (Fin 16 × AgeReading))
    (s : State) : Host.Outcome State Fault Refusal :=
  gated (fun d => access d who (pgAgemon site.val + 0xF00)
    (fun d => if tbit val.toNat 0 then sampleNow d site.val readings else d)) s
/-- WEAR_PERIODIC. Every 2^44 service cycles the manager writes a PERIODIC record. (R496) -/
def execWearPeriodic (s : State) : Host.Outcome State Fault Refusal :=
  gated (fun d => wearPeriodic d) s
/-- EVCTL_CLEAR. EVCTL.CLEAR sets counters to 0. (R506) -/
def execEvctlClear (who : Requester) (page : Bar0) (mask : Byte) (s : State) : Host.Outcome State Fault Refusal :=
  gated (fun d => access d who (pageBase page.toNat + oEvctl) (fun d => evctlClear d (pageBase page.toNat) mask.toNat)) s
/-- EVCTL_FREEZE. EVCTL.FREEZE freezes the page's counters. (R506) -/
def execEvctlFreeze (who : Requester) (page : Bar0) (s : State) : Host.Outcome State Fault Refusal :=
  gated (fun d => access d who (pageBase page.toNat + oEvctl) (fun d => evctlFreeze d (pageBase page.toNat))) s
/-- EVCTL_THAW. EVCTL.THAW ends a freeze. (R506) -/
def execEvctlThaw (who : Requester) (page : Bar0) (s : State) : Host.Outcome State Fault Refusal :=
  gated (fun d => access d who (pageBase page.toNat + oEvctl) (fun d => evctlThaw d (pageBase page.toNat))) s
/-- EVCTL_OVF_CLEAR. A W1C write of EVCTL.OVF clears overflow bits and resends the interrupt if it stays high. (R508) -/
def execEvctlOvfClear (who : Requester) (page : Bar0) (mask : Byte) (s : State) : Host.Outcome State Fault Refusal :=
  gated (fun d => access d who (pageBase page.toNat + oEvctl) (fun d => evctlOvfClear d (pageBase page.toNat) mask.toNat)) s
/-- COUNTER_WRAP. A counter wraps, sets OVF and may freeze the counters. (R508) -/
def execCounterWrap (page : Bar0) (n : Fin 8) (s : State) : Host.Outcome State Fault Refusal :=
  gated (fun d => counterWrap d (pageBase page.toNat) n.val) s
/-- FREEZE_ALL. TRACE.FREEZE_ALL bit 0 freezes every counter of the die. (R513) -/
def execFreezeAll (who : Requester) (site : Site) (s : State) : Host.Outcome State Fault Refusal :=
  gated (fun d => access d who (pgTrace site.val + 0xF08) (fun d => freezeAll d site.val 1)) s
/-- THAW_ALL. TRACE.FREEZE_ALL bit 1 thaws every counter of the die. (R513) -/
def execThawAll (who : Requester) (site : Site) (s : State) : Host.Outcome State Fault Refusal :=
  gated (fun d => access d who (pgTrace site.val + 0xF08) (fun d => freezeAll d site.val 2)) s
/-- MARK. A write of TRACE.MARK writes a MARK entry. (R518) -/
def execMark (who : Requester) (site : Site) (val : W32) (s : State) : Host.Outcome State Fault Refusal :=
  gated (fun d => access d who (pgTrace site.val + 0xF04) (fun d => markWrite d site.val val.toNat)) s
/-- TRACE_ENTRY_WRITE. An event reaching the router clock writes a trace entry. (R515) -/
def execTraceEntryWrite (site : Site) (kind : Byte) (page : Bar0) (code : BitVec 16) (seq : W32) (data : W64)
    (s : State) : Host.Outcome State Fault Refusal :=
  gated (fun d => traceEntry d site.val kind.toNat (pageBase page.toNat) code.toNat seq.toNat data.toNat) s
/-- TELEMETRY_RECORD. Every 1 ms the telemetry hub writes a 64-byte record. (R521) -/
def execTelemetryRecord (s : State) : Host.Outcome State Fault Refusal :=
  gated (fun d => telemetryRecord d) s
/-- TEST_PORT_ACCESS. An access through the IEEE 1149.1 test port and the IEEE 1500 wrapper selects loopback modes, runs boundary scan or, with a debug token, reaches the die wrappers. (R35) -/
def execTestPortAccess (req : TestReq) (s : State) : Host.Outcome State Fault Refusal :=
  gated (fun d => testPort d req) s

end Sys2Proof.Machine
end

