-- ==== Sys2Proof/Machine/ExecHost.lean ====
section
/-!
DEFINITION. One meaning per command: the host link, its rings, host DMA and interrupts (chapter 4). `gated` runs a
command on a package that is powered and not halted, `powered` on one that is powered (R481, R482); in any other it changes nothing.
-/
namespace Sys2Proof.Machine

/-- CONFIG_REQUEST. A configuration request is answered with Request Retry Status until step 5, and normally after it. (R96) -/
def execConfigRequest (reg : CfgReg) (write : Option W32) (s : State) : Host.Outcome State Fault Refusal :=
  powered (fun d => configRequest d reg write) s
/-- HOST_LINK_DOWN_HALF. When the lanes of one fibre pair go down, the link retrains at ×4 on the other half. (R95) -/
def execHostLinkDownHalf (upper : Bool) (s : State) : Host.Outcome State Fault Refusal :=
  powered (fun d => hostHalfDown d upper) s
/-- HOST_LINK_RETRAIN. A host retrain through Link Control returns the link to ×8. (R95) -/
def execHostLinkRetrain (s : State) : Host.Outcome State Fault Refusal :=
  powered (fun d => hostRetrain d) s
/-- BAR2_READ. A host read through BAR2 is served through a mailbox entry or completes as a miss. (R101) -/
def execBar2Read (off : BitVec 34) (len : Nat) (s : State) : Host.Outcome State Fault Refusal :=
  powered (fun d => if !d.board.halted then bar2Read d off.toNat len else if barsOpen d then emit d .completerAbort else d) s
/-- BAR2_WRITE. A host write through BAR2 is served through a mailbox entry or discarded as a miss. (R101) -/
def execBar2Write (off : BitVec 34) (data : List Byte) (s : State) : Host.Outcome State Fault Refusal :=
  powered (fun d => if d.board.halted ∧ off.toNat < msixBase then d else bar2Write d off.toNat data) s
/-- CMDQ_TAIL_WRITE. The host posts commands by writing CMDQ_TAIL. (R104) -/
def execCmdqTailWrite (who : Requester) (val : W32) (s : State) : Host.Outcome State Fault Refusal :=
  gated (fun d => access d who (pgHost + 0xF0C) (fun d => cmdqTail d val.toNat)) s
/-- RING_SIZE_WRITE. A write to a ring SIZE register sets that ring's HEAD and TAIL to 0. (R105) -/
def execRingSizeWrite (who : Requester) (response : Bool) (val : W32) (s : State) : Host.Outcome State Fault Refusal :=
  gated (fun d => access d who (pgHost + if response then 0xF1C else 0xF08) (fun d => ringSize d response val.toNat)) s
/-- RSPQ_HEAD_WRITE. The host frees response slots, and a waiting response can then be written. (R104) -/
def execRspqHeadWrite (who : Requester) (val : W32) (s : State) : Host.Outcome State Fault Refusal :=
  gated (fun d => access d who (pgHost + 0xF24) (fun d => rspqHead d val.toNat)) s
/-- COMMAND_RESPONSE. The firmware writes the response, advances the ring indices and sends vector 28. (R104) -/
def execCommandResponse (s : State) : Host.Outcome State Fault Refusal :=
  gated (fun d => commandResponse d) s
/-- BAD_OPCODE. A command with an unknown opcode returns BAD_OPCODE. (R104) -/
def execBadOpcode (tag : W32) (opcode : BitVec 16) (s : State) : Host.Outcome State Fault Refusal :=
  gated (fun d => badOpcode d tag opcode.toNat) s
/-- JOB_DB_WRITE. A write to JOB_DBn adds its value to the doorbell counter, after earlier BAR2 writes. (R106) -/
def execJobDbWrite (who : Requester) (n : Fin 16) (val : W32) (s : State) : Host.Outcome State Fault Refusal :=
  gated (fun d => access d who (pgHost + 0xF40 + 4 * n.val) (fun d => jobDbWrite d n.val val)) s
/-- JOB_NOTE_WRITE. A job write to JOB_NOTEn adds its value and sends vector 32 + n. (R106) -/
def execJobNoteWrite (who : Requester) (n : Fin 16) (val : W32) (s : State) : Host.Outcome State Fault Refusal :=
  gated (fun d => access d who (pgHost + 0xF80 + 4 * n.val) (fun d => jobNote d who n.val val)) s
/-- HDMA_TAIL_WRITE. A write to a channel TAIL posts descriptors. (R111) -/
def execHdmaTailWrite (who : Requester) (ch : Fin 8) (val : W32) (s : State) : Host.Outcome State Fault Refusal :=
  gated (fun d => access d who (chReg ch.val 0x14) (fun d => hdmaTail d ch.val val.toNat)) s
/-- HDMA_COUNT_WRITE. A write to a channel COUNT resets HEAD, TAIL and the alive count. (R111) -/
def execHdmaCountWrite (who : Requester) (ch : Fin 8) (val : W32) (s : State) : Host.Outcome State Fault Refusal :=
  gated (fun d => access d who (chReg ch.val 0x08) (fun d => hdmaCount d ch.val val.toNat)) s
/-- HDMA_DESCRIPTOR. A channel starts its next descriptor and checks its range and SEQ. (R108) -/
def execHdmaDescriptor (ch : Fin 8) (x : HdmaDesc) (s : State) : Host.Outcome State Fault Refusal :=
  gated (fun d => hdmaStart d ch.val x) s
/-- HDMA_DESC_COMPLETE. The payload lands, the check is compared, and the status entry, HEAD and vector are written. (R108) -/
def execHdmaDescComplete (ch : Fin 8) (payload refetch : List Byte) (hostOk statusOk : Bool)
    (s : State) : Host.Outcome State Fault Refusal :=
  gated (fun d => hdmaComplete d ch.val payload refetch hostOk statusOk) s
/-- IRQ_LINE_RISE. A rising interrupt line sends messages to PM_CORE and the MSI-X vector. (R114) -/
def execIrqLineRise (page : Bar0) (s : State) : Host.Outcome State Fault Refusal :=
  gated (fun d => irqRise d (pageBase page.toNat)) s
/-- MSIX_UNMASK. Unmasking a vector sends its pending message. (R114) -/
def execMsixUnmask (vector : Fin 1024) (s : State) : Host.Outcome State Fault Refusal :=
  powered (fun d => msixUnmask d vector.val) s
/-- REMEASURE. The manager periodically re-measures die code and halts the package on a mismatch. (R130) -/
def execRemeasure (site : Site) (dieFw stub : Digest) (s : State) : Host.Outcome State Fault Refusal :=
  gated (fun d => remeasurePeriodic d site.val dieFw stub) s
/-- HOST_LINK_TRAINED. The host link completes PCIe training at some rate and width, and LINK_STAT records rate, width, reversal and FLIT mode. (R93) -/
def execHostLinkTrained (rate width : Nat) (reversed : Bool) (s : State) : Host.Outcome State Fault Refusal :=
  powered (fun d => hostTrained d rate width reversed) s
/-- HOST_LINK_DOWN. The whole host link falls without PERST_N, raising HOSTLINK LINK_DOWN, and work that depends on the link ends. (R95) -/
def execHostLinkDown (s : State) : Host.Outcome State Fault Refusal :=
  powered (fun d => hostDown d) s

end Sys2Proof.Machine
end

