-- ==== Sys2Proof/Machine/ExecJobs.lean ====
section
/-!
DEFINITION. One meaning per command: the host commands and the steps of a job (chapters 4, 5, 16 and 18). `gated` runs a
command on a package that is powered and not halted, `powered` on one that is powered (R481, R482); in any other it changes nothing.
-/
namespace Sys2Proof.Machine

/-- IDENTIFY. The IDENTIFY command returns the levels, steppings and present units. (R116) -/
def execIdentify (tag : W32) (s : State) : Host.Outcome State Fault Refusal :=
  gated (fun d => identify d tag) s
/-- ATTEST. The ATTEST command writes the signed attestation report and the certificates. (R134) -/
def execAttest (tag : W32) (buf : CmdBuf) (nonce : Digest) (s : State) : Host.Outcome State Fault Refusal :=
  gated (fun d => attest d tag buf.addr buf.len nonce) s
/-- LOAD_IMAGE. The LOAD_IMAGE command copies the encrypted job image and sets LOADED. (R117) -/
def execLoadImage (tag : W32) (img : List Byte) (bufOk : Bool) (s : State) : Host.Outcome State Fault Refusal :=
  gated (fun d => loadImage d tag img bufOk) s
/-- SEAL. The SEAL command verifies and unwraps the image and applies its configuration. (R141) -/
def execSeal (tag : W32) (remeasured : List (Site × Digest × Digest)) (s : State) : Host.Outcome State Fault Refusal :=
  gated (fun d => sealJob d tag remeasured) s
/-- START. The START command resets the job counters and sends the start signal. (R117) -/
def execStart (tag : W32) (s : State) : Host.Outcome State Fault Refusal :=
  gated (fun d => start d tag) s
/-- CHECKPOINT. The CHECKPOINT command requests a checkpoint at the next step boundary. (R116) -/
def execCheckpoint (tag : W32) (s : State) : Host.Outcome State Fault Refusal :=
  gated (fun d => checkpoint d tag) s
/-- CHECKPOINT_WRITE. At the step boundary, each die's Sorter DMA writes encrypted checkpoint segments. (R143) -/
def execCheckpointWrite (site : Site) (number step : W64) (segs : List (BitVec 40 × Nat × BitVec 40))
    (s : State) : Host.Outcome State Fault Refusal :=
  gated (fun d => checkpointWrite d site.val number.toNat step.toNat segs) s
/-- RESTORE_SEGMENT. The job reads and authenticates one checkpoint segment, or rejects it. (R144) -/
def execRestoreSegment (site : Site) (seg : Segment) (s : State) : Host.Outcome State Fault Refusal :=
  gated (fun d => restoreSegment d site.val seg) s
/-- END. The END command sets ENDING and waits for the step boundary. (R117) -/
def execEndJob (tag : W32) (s : State) : Host.Outcome State Fault Refusal :=
  gated (fun d => endJob d tag) s
/-- END_STEP_BOUNDARY. At the step boundary the job stops, its keys are destroyed and the mailbox table is cleared. (R117) -/
def execEndStepBoundary (s : State) : Host.Outcome State Fault Refusal :=
  gated (fun d => endStep d) s
/-- ABORT. The ABORT command stops the job at once and destroys its keys. (R117) -/
def execAbort (tag : W32) (s : State) : Host.Outcome State Fault Refusal :=
  gated (fun d => abort d tag) s
/-- READ_WEAR. The READ_WEAR command copies wear ledger records, newest first. (R498) -/
def execReadWear (tag : W32) (buf : CmdBuf) (fromNumber : W64) (s : State) : Host.Outcome State Fault Refusal :=
  gated (fun d => readWear d tag buf.addr buf.len fromNumber) s
/-- PROPOSE_OPTABLE. The PROPOSE_OPTABLE command checks a proposed operating-point table and makes it pending. (R493) -/
def execProposeOptable (tag : W32) (table : List Byte) (bufOk : Bool) (s : State) : Host.Outcome State Fault Refusal :=
  gated (fun d => proposeOptable d tag table bufOk) s
/-- DEBUG_TOKEN. The DEBUG_TOKEN command verifies a token and enters debug mode. (R147) -/
def execDebugToken (tag : W32) (token : List Byte) (bufOk : Bool) (s : State) : Host.Outcome State Fault Refusal :=
  gated (fun d => debugToken d tag token bufOk) s
/-- TWIN_CTL_SOLO. The TWIN_CTL SOLO action releases the Sorters and enters SOLO. (R462) -/
def execTwinCtlSolo (tag : W32) (s : State) : Host.Outcome State Fault Refusal :=
  gated (fun d => twinCtl d tag ctlSolo) s
/-- TWIN_CTL_RESYNC. The TWIN_CTL RESYNC action arms resynchronisation at STEP. (R458) -/
def execTwinCtlResync (tag : W32) (step : W64) (s : State) : Host.Outcome State Fault Refusal :=
  gated (fun d => twinCtl d tag (fun d => ctlResync d step.toNat)) s
/-- TWIN_CTL_RELEASE. The TWIN_CTL RELEASE action moves RESYNC_HOLD to TWINNED and releases the Sorters. (R462) -/
def execTwinCtlRelease (tag : W32) (s : State) : Host.Outcome State Fault Refusal :=
  gated (fun d => twinCtl d tag ctlRelease) s

end Sys2Proof.Machine
end

