-- ==== Sys2Proof/Machine/ExecLink.lean ====
section
/-!
DEFINITION. One meaning per command: the link handshake and its keys (chapters 5 and 12). `gated` runs a
command on a package that is powered and not halted, `powered` on one that is powered (R481, R482); in any other it changes nothing.
-/
namespace Sys2Proof.Machine

/-- HELLO. A HELLO handshake message arrives with version, level, ID, port and pool sizes. (R135) -/
def execHello (port : Fin 50) (msg : Hello) (s : State) : Host.Outcome State Fault Refusal :=
  gated (fun d => hello d port.val msg) s
/-- CERT. A CERT message arrives with the peer's certificates. (R136) -/
def execCert (port : Fin 50) (aliasCert devidCert : Cert) (s : State) : Host.Outcome State Fault Refusal :=
  gated (fun d => cert d port.val aliasCert devidCert) s
/-- KEX. A KEX message arrives with the ephemeral point. (R137) -/
def execKex (port : Fin 50) (point : BitVec 520) (s : State) : Host.Outcome State Fault Refusal :=
  gated (fun d => kex d port.val point) s
/-- CONFIRM. A CONFIRM message arrives with the key confirmation and signature. (R136) -/
def execConfirm (port : Fin 50) (msg : Confirmation) (s : State) : Host.Outcome State Fault Refusal :=
  gated (fun d => confirm d port.val msg.value msg.sig) s
/-- HANDSHAKE_READY. A READY message completes the handshake, and the port grants credits and goes UP. (R347) -/
def execHandshakeReady (port : Fin 50) (s : State) : Host.Outcome State Fault Refusal :=
  gated (fun d => handshakeReady d port.val) s
/-- HANDSHAKE_ABORT. An ABORT message stops the handshake with a reason. (R349) -/
def execHandshakeAbort (port : Fin 50) (reason : BitVec 16) (s : State) : Host.Outcome State Fault Refusal :=
  gated (fun d => abortReceived d port.val reason.toNat) s
/-- HANDSHAKE_TIMEOUT. A message gap of 10 ms or a handshake of 100 ms fails the handshake. (R135) -/
def execHandshakeTimeout (port : Fin 50) (s : State) : Host.Outcome State Fault Refusal :=
  gated (fun d => handshakeTimeout d port.val) s
/-- AUTH_RETRY. After 1 s in AUTH_HOLD the port retries the handshake. (R135) -/
def execAuthRetry (port : Fin 50) (s : State) : Host.Outcome State Fault Refusal :=
  gated (fun d => authRetry d port.val) s
/-- REKEY. After 2^28 groups in a direction, that direction switches to the next key epoch. (R137) -/
def execRekey (port : Fin 50) (receive : Bool) (s : State) : Host.Outcome State Fault Refusal :=
  gated (fun d => rekey d port.val receive) s

end Sys2Proof.Machine
end

