-- ==== Sys2Proof/Machine/ExecMem.lean ====
section
/-!
DEFINITION. One meaning per command: memory (chapter 10). `gated` runs a
command on a package that is powered and not halted, `powered` on one that is powered (R481, R482); in any other it changes nothing.
-/
namespace Sys2Proof.Machine

/-- HBM_READ. An HBM word is read, corrected or poisoned, and returned. (R297) -/
def execHbmRead (access : MemRead) (noise : Disturb) (s : State) : Host.Outcome State Fault Refusal :=
  gated (fun d => hbmRead d access.agent access.ppa.toNat noise) s
/-- HBM_WRITE. An HBM word is written, merging partial granules and carrying poison. (R299) -/
def execHbmWrite (agent : MemAgent) (ppa : BitVec 40) (data : List Byte) (poison : Bool)
    (s : State) : Host.Outcome State Fault Refusal :=
  gated (fun d => hbmWrite d agent ppa.toNat data poison) s
/-- SRAM_ACCESS. A core-memory or cluster-store access with Hamming check and poison. (R298) -/
def execSramAccess (agent : MemAgent) (ppa : BitVec 40) (write : Option (List Byte)) (poison : Bool) (flips : BitVec 72)
    (s : State) : Host.Outcome State Fault Refusal :=
  gated (fun d => sramAccess d agent ppa.toNat write poison flips) s
/-- REFRESH_WINDOW. The HBM controller opens a refresh window, its safe point. (R294) -/
def execRefreshWindow (site : Site) (stack : Fin 3) (s : State) : Host.Outcome State Fault Refusal :=
  gated (fun d => refreshWindow d site.val stack.val) s
/-- SCRUB_READ. Scrub reads the next word of the pass. (R301) -/
def execScrubRead (site : Site) (stack : Fin 3) (noise : Disturb) (s : State) : Host.Outcome State Fault Refusal :=
  gated (fun d => scrubRead d site.val stack.val noise) s
/-- SCRUB_NOW. A write of SCRUB_NOW.START restarts the pass at full rate. (R301) -/
def execScrubNow (who : Requester) (site : Site) (stack : Fin 3) (val : W32) (s : State) : Host.Outcome State Fault Refusal :=
  gated (fun d => access d who (pgHbmc site.val stack.val + 0xF00) (fun d => scrubNow d site.val stack.val val.toNat)) s
/-- STACK_FENCE_FILL. After a stack fence, the remaining stacks of the die are filled with poison. (R303) -/
def execStackFenceFill (site : Site) (s : State) : Host.Outcome State Fault Refusal :=
  gated (fun d => fillStart d site.val) s
/-- FILL_COMPLETE. The poison fill ends, and waiting accesses proceed under the new map. (R303) -/
def execFillComplete (site : Site) (s : State) : Host.Outcome State Fault Refusal :=
  gated (fun d => drain (fillEnd d site.val) site.val) s
/-- REPLICA_REWRITE. The manager rewrites a damaged die replica of the address book. (R470) -/
def execReplicaRewrite (site : Site) (s : State) : Host.Outcome State Fault Refusal :=
  gated (fun d => replicaRewrite d site.val) s

end Sys2Proof.Machine
end

