-- ==== Sys2Proof/Machine/ExecMx.lean ====
section
/-!
DEFINITION. One meaning per command: the MX slot, the arrays, streams and contexts (chapters 6 and 7). `gated` runs a
command on a package that is powered and not halted, `powered` on one that is powered (R481, R482); in any other it changes nothing.
-/
namespace Sys2Proof.Machine

/-- MX_MODE. Sets the flow, types and arrays and ends the weight bindings. (R195) -/
def execMxMode (c : CtxRef) (h : Hdr) (f : MxModeF) (s : State) : Host.Outcome State Fault Refusal :=
  gated (fun d => slotMx d c h (.mode f)) s
/-- MX_WLOAD. Binds a weight stream to arrays. (R209) -/
def execMxWload (c : CtxRef) (h : Hdr) (f : MxWloadF) (s : State) : Host.Outcome State Fault Refusal :=
  gated (fun d => slotMx d c h (.wload f)) s
/-- MX_RUN. Queues a tile run over K-blocks. (R198) -/
def execMxRun (c : CtxRef) (h : Hdr) (f : MxRunF) (s : State) : Host.Outcome State Fault Refusal :=
  gated (fun d => slotMx d c h (.run f)) s
/-- MX_DRAIN. Queues a swap and drain of the accumulator set. (R214) -/
def execMxDrain (c : CtxRef) (h : Hdr) (f : MxDrainF) (s : State) : Host.Outcome State Fault Refusal :=
  gated (fun d => slotMx d c h (.drain f)) s
/-- MX_QUEUE_HEAD. An MX operation reaches the arrays and is checked for MODE_MISMATCH. (R227) -/
def execMxQueueHead (core : CoreRef) (s : State) : Host.Outcome State Fault Refusal :=
  gated (fun d => queueHead d core.site.val core.core.val) s
/-- BLOCK_RESULT_PUSH. A K-block result enters its output's pairwise stack. (R218) -/
def execBlockResultPush (core : CoreRef) (s : State) : Host.Outcome State Fault Refusal :=
  gated (fun d => blockPush d core.site.val core.core.val) s
/-- MX_RUN_COMPLETE. A run's last block result has entered the stack. (R212) -/
def execMxRunComplete (core : CoreRef) (s : State) : Host.Outcome State Fault Refusal :=
  gated (fun d => runComplete d core.site.val core.core.val) s
/-- DRAIN_SWAP. The drain swaps the live and shadow sets once earlier runs have ended. (R214) -/
def execDrainSwap (core : CoreRef) (s : State) : Host.Outcome State Fault Refusal :=
  gated (fun d => drainSwap d core.site.val core.core.val) s
/-- DRAIN_COMPLETE. The drain has written its rows and increments its counter. (R215) -/
def execDrainComplete (core : CoreRef) (s : State) : Host.Outcome State Fault Refusal :=
  gated (fun d => drainComplete d core.site.val core.core.val) s
/-- STREAM_DATA_ARRIVE. Awaited stream bytes arrive, and the stalled context becomes ready. (R176) -/
def execStreamDataArrive (c : CtxRef) (r : Fin 16) (bytes : Nat) (s : State) : Host.Outcome State Fault Refusal :=
  gated (fun d => streamArrive d c.site.val c.core.val c.ctx.val r.val bytes) s
/-- STREAM_USE_COMPLETE. A stream use completes and increments its counter. (R176) -/
def execStreamUseComplete (c : CtxRef) (r : Fin 16) (s : State) : Host.Outcome State Fault Refusal :=
  gated (fun d => streamComplete d c.site.val c.core.val c.ctx.val r.val) s
/-- FETCH_COMPLETE. A FETCH finishes and increments its counter. (R177) -/
def execFetchComplete (core : CoreRef) (idx : Fin 16) (s : State) : Host.Outcome State Fault Refusal :=
  gated (fun d => fetchDone d core.site.val core.core.val idx.val) s
/-- PUT_COMPLETE. A PUT's bytes are visible and its counter increments. (R177) -/
def execPutComplete (core : CoreRef) (idx : Fin 16) (s : State) : Host.Outcome State Fault Refusal :=
  gated (fun d => putDone d core.site.val core.core.val idx.val) s
/-- PACK_COMPLETE. PACK's tables are visible and its counter increments. (R186) -/
def execPackComplete (c : CtxRef) (s : State) : Host.Outcome State Fault Refusal :=
  gated (fun d => packDone d c.site.val c.core.val c.ctx.val) s
/-- CTX_GO. A CTX_GO write starts contexts. (R192) -/
def execCtxGo (who : Requester) (core : CoreRef) (mask : BitVec 16) (s : State) : Host.Outcome State Fault Refusal :=
  gated (fun d => access d who (pgCore core.site.val core.core.val + 0xF00) (maskFold mask.toNat (fun d n => ctxGo d core.site.val core.core.val n))) s
/-- CTX_STOP. A CTX_STOP write stops contexts after their current bundle. (R192) -/
def execCtxStop (who : Requester) (core : CoreRef) (mask : BitVec 16) (s : State) : Host.Outcome State Fault Refusal :=
  gated (fun d => access d who (pgCore core.site.val core.core.val + 0xF04) (maskFold mask.toNat (fun d n => ctxStop d core.site.val core.core.val n))) s
/-- CTX_STOP_COMPLETE. A stopped context becomes HALTED once its issued operations complete. (R192) -/
def execCtxStopComplete (c : CtxRef) (s : State) : Host.Outcome State Fault Refusal :=
  gated (fun d => ctxStopped d c.site.val c.core.val c.ctx.val) s
/-- CTX_HOLD. A CTX_HOLD write holds contexts from issue. (R192) -/
def execCtxHold (who : Requester) (core : CoreRef) (mask : BitVec 16) (s : State) : Host.Outcome State Fault Refusal :=
  gated (fun d => access d who (pgCore core.site.val core.core.val + 0xF08)
    (fun d => setRegN d (pgCore core.site.val core.core.val + 0xF08) mask.toNat)) s

end Sys2Proof.Machine
end

