-- ==== Sys2Proof/Machine/ExecPower.lean ====
section
/-!
DEFINITION. One meaning per command: job start, filler, power, droop, temperature and halt (chapters 3 and 17). `gated` runs a
command on a package that is powered and not halted, `powered` on one that is powered (R481, R482); in any other it changes nothing.
-/
namespace Sys2Proof.Machine

/-- JOB_START_SIGNAL. The start signal reaches a die, one die every 1 µs. (R78) -/
def execJobStartSignal (site : Site) (s : State) : Host.Outcome State Fault Refusal :=
  gated (fun d => startSignal d site.val) s
/-- CLUSTER_ISSUE_START. Cluster c begins issuing 16 × c array cycles after the start signal. (R78) -/
def execClusterIssueStart (site : Site) (c : Fin 16) (s : State) : Host.Outcome State Fault Refusal :=
  gated (fun d => clusterStart d site.val c.val) s
/-- FILLER_WINDOW_EXPIRE. With no operation for WINDOW cycles, the array ramps filler down. (R80) -/
def execFillerWindowExpire (core : CoreRef) (array : Fin 4) (s : State) : Host.Outcome State Fault Refusal :=
  gated (fun d => fillerExpire d core.site.val core.core.val array.val) s
/-- FILLER_RAMP_END. The 512-cycle ramp-down ends and filler stops. (R80) -/
def execFillerRampEnd (core : CoreRef) (array : Fin 4) (s : State) : Host.Outcome State Fault Refusal :=
  gated (fun d => fillerRest d core.site.val core.core.val array.val) s
/-- FILLER_RAMP_UP_DONE. The 128-cycle ramp-up ends and the waiting operation starts. (R80) -/
def execFillerRampUpDone (core : CoreRef) (array : Fin 4) (s : State) : Host.Outcome State Fault Refusal :=
  gated (fun d => fillerReady d core.site.val core.core.val array.val) s
/-- BUDGET_PERIOD. Every 1 ms the manager computes P_other and writes each die's budget, including thermal throttling. (R84) -/
def execBudgetPeriod (pkgPower : BitVec 16) (s : State) : Host.Outcome State Fault Refusal :=
  gated (fun d => budgetPeriod d pkgPower.toNat) s
/-- PMC_PERIOD. Every 10 µs the PMC compares die power with its budget and adjusts the issue duty. (R85) -/
def execPmcPeriod (site : Site) (power : BitVec 16) (s : State) : Host.Outcome State Fault Refusal :=
  gated (fun d => pmcPeriod (commitSafePoint d (pgPmc site.val)) site.val power.toNat) s
/-- DROOP_DETECT. A cluster supply below the threshold halves the array clock. (R86) -/
def execDroopDetect (site : Site) (c : Fin 16) (s : State) : Host.Outcome State Fault Refusal :=
  gated (fun d => droopDetect d site.val c.val) s
/-- DROOP_RECOVER. After HOLD halved cycles above the threshold, full frequency returns. (R86) -/
def execDroopRecover (site : Site) (c : Fin 16) (s : State) : Host.Outcome State Fault Refusal :=
  gated (fun d => droopRecover d site.val c.val) s
/-- DROOP_LONG. A droop that lasts more than 1 ms raises class C on the PMC page. (R86) -/
def execDroopLong (site : Site) (c : Fin 16) (s : State) : Host.Outcome State Fault Refusal :=
  gated (fun d => droopLong d site.val c.val) s
/-- SUPPLY_LIMIT. A rail outside ±3 % for 100 µs, or outside ±8 % at any instant, halts the package. (R86) -/
def execSupplyLimit (_rail : Fin 9) (s : State) : Host.Outcome State Fault Refusal :=
  gated (fun d => supplyLimit d) s
/-- THERM_SAMPLE. The telemetry hub samples the die and stack sensors and asserts ALERT_N or THERM_TRIP_N. (R87) -/
def execThermSample (sensor : Sensor) (reading : BitVec 12) (s : State) : Host.Outcome State Fault Refusal :=
  gated (fun d => thermSample d sensor reading.toNat) s
/-- PKG_LIMIT_WRITE. A write of BASE.PKG_LIMIT sets the power limit or counts a rejected write. (R83) -/
def execPkgLimitWrite (who : Requester) (watts : W32) (s : State) : Host.Outcome State Fault Refusal :=
  gated (fun d => access d who (pgBase + 0xF00) (fun d => pkgLimitWrite d who (watts.toNat % 4096))) s
/-- EPD_REQUEST. A write of EPD_REQ has the effect of a class X halt. (R92) -/
def execEpdRequest (who : Requester) (val : W32) (s : State) : Host.Outcome State Fault Refusal :=
  gated (fun d => access d who (pgBase + 0xF04) (fun d => epdWrite d val.toNat)) s
/-- PACKAGE_HALT. The halt controller stops every block, silences the optics, erases keys and captures the halt record. (R481) -/
def execPackageHalt (cause : HaltCause) (s : State) : Host.Outcome State Fault Refusal :=
  gated (fun d => raiseX d (pageBase cause.page.toNat) cause.code.toNat) s

end Sys2Proof.Machine
end

