-- ==== Sys2Proof/Machine/ExecRegs.lean ====
section
/-!
DEFINITION. One meaning per command: register accesses (chapter 2). `gated` runs a
command on a package that is powered and not halted, `powered` on one that is powered (R481, R482); in any other it changes nothing.
-/
namespace Sys2Proof.Machine

/-- REG_WRITE. A register write that has no row of its own takes effect in page order, or is discarded; one with partial byte enables is
discarded. (R40, R42, R70) -/
def execRegWrite (who : Requester) (addr : RegAddr) (val : W32) (be : BitVec 4) (hi : Option W32)
    (s : State) : Host.Outcome State Fault Refusal :=
  gated (fun d => match target who addr.toNat with
    | some a => access d who a (fun x => if be = 0xF then regWrite x who a val.toNat hi else d)
    | none => d) s
/-- LO_READ_LATCH. A read of the _LO half of a changing 64-bit value latches its _HI half. (R41) -/
def execLoReadLatch (who : Requester) (addr : RegAddr) (s : State) : Host.Outcome State Fault Refusal :=
  powered (fun d => match target who addr.toNat with
    | some a => if who = .host ∧ !barsOpen d then d else loLatch d who a
    | none => d) s
/-- HI_WRITE_HOLD. A run-time _HI write is held until the matching _LO write applies both halves. (R41) -/
def execHiWriteHold (who : Requester) (addr : RegAddr) (val : W32) (s : State) : Host.Outcome State Fault Refusal :=
  gated (fun d => match target who addr.toNat with
    | some a => access d who a (fun d => hiHold d who a val)
    | none => d) s
/-- CTRL_ENABLE_SET. Setting CTRL.ENABLE moves an OFF block to STARTING. (R48) -/
def execCtrlEnableSet (who : Requester) (page : Bar0) (s : State) : Host.Outcome State Fault Refusal :=
  gated (fun d => access d who (pageBase page.toNat + oCtrl) (fun d => enableSet d (pageBase page.toNat))) s
/-- CTRL_ENABLE_CLEAR. Clearing CTRL.ENABLE drains a RUNNING block. (R48) -/
def execCtrlEnableClear (who : Requester) (page : Bar0) (s : State) : Host.Outcome State Fault Refusal :=
  gated (fun d => access d who (pageBase page.toNat + oCtrl) (fun d => enableClear d (pageBase page.toNat))) s
/-- SOFT_RESET. CTRL.SOFT_RESET ends the work in flight and returns the page to reset. (R49) -/
def execSoftReset (who : Requester) (page : Bar0) (enable fence : Bool) (s : State) : Host.Outcome State Fault Refusal :=
  gated (fun d => access d who (pageBase page.toNat + oCtrl) (fun d => softReset d (pageBase page.toNat) enable fence)) s
/-- FENCE_REQ. CTRL.FENCE_REQ requests that the block be fenced. (R48) -/
def execFenceReq (who : Requester) (page : Bar0) (s : State) : Host.Outcome State Fault Refusal :=
  gated (fun d => access d who (pageBase page.toNat + oCtrl) (fun d => fenceRequest d (pageBase page.toNat))) s
/-- START_DONE. A STARTING block finishes initialisation and goes RUNNING, or FENCED on a failure. (R48) -/
def execStartDone (page : Bar0) (ok : Bool) (s : State) : Host.Outcome State Fault Refusal :=
  gated (fun d => startDone d (pageBase page.toNat) ok) s
/-- DRAIN_DONE. A DRAINING block reaches its safe point and goes OFF or FENCED. (R48) -/
def execDrainDone (page : Bar0) (s : State) : Host.Outcome State Fault Refusal :=
  gated (fun d => drainDone d (pageBase page.toNat)) s
/-- ERR_STAT_CLEAR. A W1C write to ERR_STAT clears error bits, and the interrupt is resent if the line is still high. (R50) -/
def execErrStatClear (who : Requester) (page : Bar0) (mask : W32) (s : State) : Host.Outcome State Fault Refusal :=
  gated (fun d => access d who (pageBase page.toNat + oErrStat) (fun d => errStatClear d (pageBase page.toNat) mask.toNat)) s
/-- INJECT_ARM. A write to INJECT arms or disarms fault injection. (R53) -/
def execInjectArm (who : Requester) (page : Bar0) (val : W32) (s : State) : Host.Outcome State Fault Refusal :=
  gated (fun d => access d who (pageBase page.toNat + oInject) (fun d => injectArm d (pageBase page.toNat) val.toNat)) s
/-- COMMIT. Writing the commit key copies the shadow into the pending copy and sets PENDING. (R55) -/
def execCommit (who : Requester) (page : Bar0) (key : W32) (s : State) : Host.Outcome State Fault Refusal :=
  gated (fun d => access d who (pageBase page.toNat + oCommit) (fun d => commitRequest d who (pageBase page.toNat) key.toNat)) s
/-- COMMIT_SAFE_POINT. At its safe point the block applies or rejects the pending commit. (R57) -/
def execCommitSafePoint (page : Bar0) (s : State) : Host.Outcome State Fault Refusal :=
  gated (fun d => commitSafePoint d (pageBase page.toNat)) s
/-- LOOPBACK_DONE. The loopback test ends and sets DONE and FAIL. (R36) -/
def execLoopbackDone (site : Site) (errs : W32) (unit lane : Byte) (s : State) : Host.Outcome State Fault Refusal :=
  gated (fun d => loopbackDone d site.val errs.toNat unit.toNat lane.toNat) s

end Sys2Proof.Machine
end

