-- ==== Sys2Proof/Machine/Optstep.lean ====
section
/-!
DEFINITION. OPTSTEP (R263 to R283): the parameter block and its regions, their checks, the norm and the factor, the update of one
element, the masks and the two copies, the shard digest and the result record.
-/
namespace Sys2Proof.Machine

/-! ## Parameter block and regions (R273, R274) -/

/-- The parameter block: its bytes, fields by name. -/
structure OptParam where
  alg : Nat
  flags : Nat
  count : Nat
  norm : Nat
  table : Nat
  result : Nat
  maxNorm : Nat
  clipEps : Nat
  gscale : Nat
  lr : Nat
  decay : Nat
  beta1 : Nat
  omb1 : Nat
  beta2 : Nat
  omb2 : Nat
  bc1 : Nat
  bc2 : Nat
  eps : Nat
  reserved : Bool
  deriving DecidableEq, Repr

/-- A region entry. -/
structure OptRegion where
  master : Nat
  m : Nat
  v : Nat
  grad : Nat
  fwd : Nat
  t : Nat
  mask : Nat
  ist : Nat
  cst : Nat
  fs : Nat
  ts : Nat
  maskEn : Bool
  reserved : Bool
  deriving DecidableEq, Repr

def optParam (bs : List Byte) : OptParam :=
  let f (o : Nat) := bytesAt bs o 4
  { alg := bytesAt bs 0 1, flags := bytesAt bs 1 1, count := bytesAt bs 2 2, norm := bytesAt bs 8 5, table := bytesAt bs 16 5
    result := bytesAt bs 24 5, maxNorm := f 32, clipEps := f 36, gscale := f 40, lr := f 44, decay := f 48, beta1 := f 52
    omb1 := f 56, beta2 := f 60, omb2 := f 64, bc1 := f 68, bc2 := f 72, eps := f 76
    reserved := bytesAt bs 1 1 / 16 != 0 || bytesAt bs 4 4 != 0 || bytesAt bs 13 3 != 0 || bytesAt bs 21 3 != 0
      || bytesAt bs 29 3 != 0 || bytesAt bs 80 48 != 0 }

def optRegion (bs : List Byte) : OptRegion :=
  let a (o : Nat) := bytesAt bs o 5
  let s := bytesAt bs 60 1
  { master := a 0, m := a 8, v := a 16, grad := a 24, fwd := a 32, t := a 40, mask := a 48, ist := bytesAt bs 56 2, cst := bytesAt bs 58 2
    fs := fld s 0 2, ts := fld s 2 2, maskEn := tbit s 4
    reserved := fld s 5 3 != 0 || bytesAt bs 61 3 != 0 || [5, 13, 21, 29, 37, 45, 53].any (fun o => bytesAt bs o 3 != 0) }

def OptParam.adamw (p : OptParam) : Bool := p.alg == 1
def OptParam.skipNan (p : OptParam) : Bool := tbit p.flags 0
def OptParam.skipInf (p : OptParam) : Bool := tbit p.flags 1
def OptParam.clearGrad (p : OptParam) : Bool := tbit p.flags 2
def OptParam.writeT (p : OptParam) : Bool := tbit p.flags 3
/-- The elements of a region. -/
def OptRegion.elems (r : OptRegion) : Nat := r.ist * r.cst * 16384
/-- The bytes of one block of a copy (R269). -/
def copyBlock (sp : Nat) : Nat := match sp with | 1 => 1152 | 2 => 576 | _ => 2048

/-- The ranges that a region reads and those that it writes: address, bytes (R279). -/
def OptRegion.reads (p : OptParam) (r : OptRegion) : List (Nat × Nat) :=
  let n := r.elems
  [(r.master, 4 * n), (r.m, 4 * n), (r.grad, 4 * n)] ++ (if p.adamw then [(r.v, 4 * n)] else [])
  ++ (if r.maskEn then [(r.mask, n / 8)] else [])
def OptRegion.writes (p : OptParam) (r : OptRegion) : List (Nat × Nat) :=
  let n := r.elems
  [(r.master, 4 * n), (r.m, 4 * n)] ++ (if p.adamw then [(r.v, 4 * n)] else [])
  ++ (if p.clearGrad then [(r.grad, 4 * n)] else [])
  ++ [(r.fwd, n / 1024 * copyBlock r.fs)] ++ (if p.writeT then [(r.t, n / 1024 * copyBlock r.ts)] else [])

/-! ## The checks (R275) -/

def negF (code x : Nat) : Bool := match Fp.decode code x with | .num s m _ => s && m != 0 | .inf s => s | .nan => false
def badF (x : Nat) : Bool := negF 0x2 x || Fp.isNan (Fp.decode 0x2 x)
def paramBad (p : OptParam) : Bool :=
  !(p.alg == 1 || p.alg == 2) || p.reserved || decide (256 < p.count) || badF p.maxNorm || badF p.clipEps || badF p.gscale
  || Fp.isInfV (Fp.decode 0x2 p.gscale) || p.norm % 8 != 0 || p.table % 64 != 0 || p.result % 64 != 0
def regionBad (d : Dev) (s : Nat) (p : OptParam) (r : OptRegion) : Bool :=
  r.reserved || r.fs == 3 || r.ts == 3 || (r.ts != 0 && r.ts != r.fs) || (r.fs != 0 && !r.maskEn)
  || (r.reads p ++ r.writes p).any (fun x => x.1 % 64 != 0 || !dieRange d s x.1 x.2)
def meets (a b : Nat × Nat) : Bool := a.2 != 0 && b.2 != 0 && decide (a.1 < b.1 + b.2 ∧ b.1 < a.1 + a.2)

/-- A written range meets another range, but for an array that a region reads and rewrites in place. Ranges carry a number; an
array of a region has one number for its reading and its writing. -/
def rangesOverlap (ws rs : List (Nat × Nat × Nat)) : Bool :=
  ws.any (fun w => ws.any (fun x => x.1 != w.1 && meets w.2 x.2) || rs.any (fun x => x.1 != w.1 && meets w.2 x.2))

/-- The written ranges of the regions, each with a number of its own, and what they may not overlap besides: the ranges read, and the
result record. -/
def optRanges (p : OptParam) (aux : Nat) (rs : List OptRegion) : List (Nat × Nat × Nat) × List (Nat × Nat × Nat) :=
  let arrays (i : Nat) (r : OptRegion) : List (Nat × Nat × Nat) × List (Nat × Nat × Nat) :=
    let n := 4 * r.elems
    let b := r.elems / 1024
    let k := 8 + 8 * i
    ([(k, r.master, n), (k + 1, r.m, n)] ++ (if p.adamw then [(k + 2, r.v, n)] else []) ++ (if p.clearGrad then [(k + 3, r.grad, n)] else [])
      ++ [(k + 4, r.fwd, b * copyBlock r.fs)] ++ (if p.writeT then [(k + 5, r.t, b * copyBlock r.ts)] else []),
     [(k, r.master, n), (k + 1, r.m, n), (k + 3, r.grad, n)] ++ (if p.adamw then [(k + 2, r.v, n)] else [])
      ++ (if r.maskEn then [(k + 6, r.mask, r.elems / 8)] else []))
  (List.range rs.length).foldl (fun acc i =>
    let a := arrays i (rs.getD i ⟨0, 0, 0, 0, 0, 0, 0, 0, 0, 0, 0, false, false⟩)
    (acc.1 ++ a.1, acc.2 ++ a.2)) ([], [(0, p.result, 64), (1, aux, 128), (2, p.norm, 8), (3, p.table, 64 * p.count)])

/-! ## Norm and factor (R276) -/

def f64 (x : Nat) : Fp.FVal := Fp.decode 0x1 x
def wide (x : Nat) : Nat := Fp.encode 0x1 (Fp.decode 0x2 x)
def mul64 (a b : Nat) : Nat := Fp.encode 0x1 (Fp.mulVal (f64 a) (f64 b)).1
def div64 (a b : Nat) : Nat := Fp.divVal (f64 a) (f64 b) 0x1
def sqrt64 (a : Nat) : Nat :=
  match f64 a with
  | .nan => Fp.canonNan 0x1
  | .inf s => if s then Fp.canonNan 0x1 else 0x7FF0000000000000
  | .num s m e => if m = 0 then Fp.signBit 0x1 s else if s then Fp.canonNan 0x1 else Fp.sqrtEnc 0x1 m e
def one64 : Nat := 0x3FF0000000000000

/-- `factor` of R276: the reported norm r and the factor f. -/
def optFactor (total : Nat) (p : OptParam) : Nat × Nat :=
  let r := mul64 (sqrt64 total) (wide p.gscale)
  let c :=
    if Fp.isZeroV (Fp.decode 0x2 p.maxNorm) then one64
    else if Fp.isNan (f64 total) then Fp.canonNan 0x1
    else
      let q := div64 (wide p.maxNorm) (Fp.add64 r (wide p.clipEps))
      if Fp.ltVal (f64 q) (f64 one64) then q else one64
  (r, Fp.encode 0x2 (f64 (mul64 c (wide p.gscale))))

/-! ## One element (R278) -/

/-- `adamw` and `sgdm` of R278: new master weight, first and second moment. -/
def optUpdate (p : OptParam) (w m v gr f : Nat) : Nat × Nat × Nat :=
  let g := Fp.mul32 gr f
  if p.adamw then
    let m1 := Fp.add32 (Fp.mul32 p.beta1 m) (Fp.mul32 p.omb1 g)
    let v1 := Fp.add32 (Fp.mul32 p.beta2 v) (Fp.mul32 p.omb2 (Fp.mul32 g g))
    let den := Fp.add32 (Fp.sqrt32 (Fp.mul32 v1 p.bc2)) p.eps
    let u := Fp.div32 (Fp.mul32 m1 p.bc1) den
    (Fp.sub32 (Fp.mul32 w p.decay) (Fp.mul32 p.lr u), m1, v1)
  else
    let m1 := Fp.add32 (Fp.mul32 p.beta1 m) g
    (Fp.sub32 (Fp.mul32 w p.decay) (Fp.mul32 p.lr m1), m1, v)

/-! ## Arrays -/

/-- An array as read: its bytes and the poison of each 32-byte word. -/
structure Arr where
  data : Array Byte
  pois : Array Bool
  deriving DecidableEq, Repr

/-- Read an array that begins on a word, word by word. -/
def readArr (d : Dev) (a n : Nat) : Arr × Dev :=
  let r := (List.range (ceilDiv n 32)).foldl (fun acc i =>
    let x := memRead acc.2.2 (a + 32 * i) (min 32 (n - 32 * i))
    (x.1.reverse ++ acc.1, x.2.1 :: acc.2.1, x.2.2)) (([], [], d) : List Byte × List Bool × Dev)
  (⟨r.1.reverse.toArray, r.2.1.reverse.toArray⟩, r.2.2)
def Arr.word (x : Arr) (e : Nat) : Nat :=
  (x.data.getD (4 * e) 0).toNat + 2 ^ 8 * (x.data.getD (4 * e + 1) 0).toNat + 2 ^ 16 * (x.data.getD (4 * e + 2) 0).toNat
  + 2 ^ 24 * (x.data.getD (4 * e + 3) 0).toNat
def Arr.bit (x : Arr) (e : Nat) : Bool := (x.data.getD (e / 8) 0).getLsbD (e % 8)
/-- The word that byte `o` of an array lies in is poisoned. -/
def Arr.poisAt (x : Arr) (o : Nat) : Bool := x.pois.getD (o / 32) false
/-- Write an array word by word, each clean or poisoned. -/
def writeArr (d : Dev) (s a : Nat) (bs : List Byte) (pois : Nat → Bool) : Dev :=
  ((List.range (ceilDiv bs.length 32)).foldl (fun acc i =>
    (agentWrite acc.1 (.die s) (a + 32 * i) (acc.2.take 32) (pois i), acc.2.drop 32)) (d, bs)).1

/-! ## Masks (R266 to R268) -/

/-- Row i and column j, within their supertile, of an element of the forward order, and back (R263). -/
def rowOf (e : Nat) : Nat := e % 16384 / 1024 / 4 * 32 + e % 1024 / 32
def colOf (e : Nat) : Nat := e % 16384 / 1024 % 4 * 32 + e % 32
/-- How many mask bits below position e of its K-group are set; K-group elements lie `step` apart, and e is the k-th of its group. -/
def setBelow (mask : Arr) (e k step : Nat) : Nat := ((List.range k).filter (fun i => mask.bit (e - (k - i) * step))).length
def keepsOf (sp : Nat) : Nat := if sp = 1 then 2 else 1
/-- Both tests of R267 on a set mask bit. -/
def passes (r : OptRegion) (mask : Arr) (e : Nat) : Bool :=
  (r.fs == 0 || decide (setBelow mask e (rowOf e % 4) 32 < keepsOf r.fs))
  && (r.ts == 0 || decide (setBelow mask e (colOf e % 4) 1 < keepsOf r.ts))
def keptE (r : OptRegion) (mask : Arr) (e : Nat) : Bool := !r.maskEn || (mask.bit e && passes r mask e)
/-- A mask violation (R268). -/
def violates (r : OptRegion) (mask : Arr) (e : Nat) : Bool := r.maskEn && mask.bit e && !passes r mask e

/-! ## Copies (R263 to R265, R269) -/

/-- The positions that the entries of a K-group name: the kept ones, completed by the lowest others, ascending (R269). -/
def entries (n : Nat) (kept : Nat → Bool) : List Nat :=
  let k := [0, 1, 2, 3].filter kept
  let more := ([0, 1, 2, 3].filter (fun i => !kept i)).take (n - k.length)
  [0, 1, 2, 3].filter (fun i => k.contains i || more.contains i)

/-- One block of a copy: `el k n` is the element at row k, column n of the block; `val`, `kept` and `pois` speak of elements.
Answers the bytes and the poison of each word of 32 bytes. -/
def copyOne (sp : Nat) (el : Nat → Nat → Nat) (val : Nat → Nat) (kept pois : Nat → Bool) : List Byte × List Bool :=
  let row (f : Nat → Nat) : List Byte := (List.range 32).flatMap (fun n => toBytes 2 (f n))
  let rowP (f : Nat → Bool) : List Bool := [(List.range 16).any f, (List.range 16).any (fun n => f (16 + n))]
  if sp = 0 then
    ((List.range 32).flatMap (fun k => row (fun n => val (el k n))),
     (List.range 32).flatMap (fun k => rowP (fun n => pois (el k n))))
  else
    let n := keepsOf sp
    let pos (g c : Nat) : List Nat := entries n (fun i => kept (el (4 * g + i) c))
    let at' (r c : Nat) : Nat := el (4 * (r / n) + (pos (r / n) c).getD (r % n) 0) c
    let values := (List.range (8 * n)).flatMap (fun r => row (fun c => if kept (at' r c) then val (at' r c) else 0))
    let vp := (List.range (8 * n)).flatMap (fun r => rowP (fun c => pois (at' r c)))
    -- groups of four positions that share a metadata byte: two of 2:4, four of 1:4 (R222)
    let per := 4 / n
    let code (g c : Nat) : Nat := (List.range n).foldl (fun acc i => acc + (pos g c).getD i 0 * 4 ^ i) 0
    let metaB := (List.range (8 / per)).flatMap (fun b => (List.range 32).flatMap (fun c =>
      toBytes 1 ((List.range per).foldl (fun acc i => acc + code (per * b + i) c * (4 ^ n) ^ i) 0)))
    let mp := (List.range (8 / per)).map (fun b => (List.range 32).any (fun c =>
      (List.range (4 * per)).any (fun i => pois (el (4 * per * b + i) c))))
    (values ++ metaB, vp ++ mp)

/-- The forward copy: blocks in forward order. -/
def fwdCopy (r : OptRegion) (val : Nat → Nat) (kept pois : Nat → Bool) : List Byte × List Bool :=
  let bl := (List.range (r.elems / 1024)).map (fun b =>
    copyOne r.fs (fun k n => 1024 * b + 32 * k + n) val kept pois)
  (bl.flatMap (·.1), bl.flatMap (·.2))
/-- The transposed copy: supertiles (h, g) with h ascending, then g; each block the transpose of one of the forward order. -/
def tCopy (r : OptRegion) (val : Nat → Nat) (kept pois : Nat → Bool) : List Byte × List Bool :=
  let bl := (List.range (r.elems / 1024)).map (fun b =>
    let h := b / 16 / r.cst
    let g := b / 16 % r.cst
    let fb := (g * r.ist + h) * 16 + b % 16 % 4 * 4 + b % 16 / 4
    copyOne r.ts (fun k n => 1024 * fb + 32 * n + k) val kept pois)
  (bl.flatMap (·.1), bl.flatMap (·.2))

/-! ## A region -/

/-- What the docket has counted so far: elements, digest, NaN results, mask drops, first drop, poison. -/
structure OptSum where
  elems : Nat
  digest : Nat
  nans : Nat
  drops : Nat
  first : Nat
  pois : Bool
  deriving DecidableEq, Repr

/-- The state bytes of an element as the digest takes them (R280). -/
def stateBytes (p : OptParam) (x : Nat × Nat × Nat) : List Byte :=
  toBytes 4 x.1 ++ toBytes 4 x.2.1 ++ (if p.adamw then toBytes 4 x.2.2 else [])

/-- Update one region, or only read it where the step is skipped (R277, R279). `totalP` says that the norm was poisoned. -/
def optRegionRun (d : Dev) (s : Nat) (p : OptParam) (r : OptRegion) (f : Nat) (skip totalP : Bool) (o : OptSum) : Dev × OptSum :=
  let n := r.elems
  if n = 0 then (d, o)
  else
    let w := readArr d r.master (4 * n)
    let m := readArr w.2 r.m (4 * n)
    let v := if p.adamw then readArr m.2 r.v (4 * n) else (⟨#[], #[]⟩, m.2)
    let zeros := List.replicate (4 * n) (0 : Byte)
    let es := List.range n
    if skip then
      let state := es.flatMap (fun e => stateBytes p (w.1.word e, m.1.word e, v.1.word e))
      let pois := w.1.pois.any id || m.1.pois.any id || v.1.pois.any id
      -- eight elements share a word of each array
      let word (i : Nat) : Bool := totalP || w.1.pois.getD i false || m.1.pois.getD i false || v.1.pois.getD i false
      let d := if p.clearGrad then writeArr v.2 s r.grad zeros word else v.2
      (d, { o with elems := o.elems + n, digest := crc64From o.digest state, pois := o.pois || pois })
    else
      let g := readArr v.2 r.grad (4 * n)
      let k := if r.maskEn then readArr g.2 r.mask (n / 8) else (⟨#[], #[]⟩, g.2)
      let d := k.2
      let mask := k.1
      let new := (es.map (fun e =>
        if keptE r mask e then optUpdate p (w.1.word e) (m.1.word e) (v.1.word e) (g.1.word e) f else (0, 0, 0))).toArray
      let at' (e : Nat) : Nat × Nat × Nat := new.getD e (0, 0, 0)
      -- the words an element is computed from share its number in every array of 4-byte elements
      let pois (e : Nat) : Bool := totalP || w.1.poisAt (4 * e) || m.1.poisAt (4 * e) || v.1.poisAt (4 * e) || g.1.poisAt (4 * e)
        || mask.poisAt (e / 8)
      let word (i : Nat) : Bool := pois (8 * i)
      let bf := (es.map (fun e => Fp.encode 0x3 (Fp.decode 0x2 (at' e).1))).toArray
      let val (e : Nat) : Nat := bf.getD e 0
      let drops := es.filter (violates r mask)
      let d := writeArr d s r.master (es.flatMap (fun e => toBytes 4 (at' e).1)) word
      let d := writeArr d s r.m (es.flatMap (fun e => toBytes 4 (at' e).2.1)) word
      let d := if p.adamw then writeArr d s r.v (es.flatMap (fun e => toBytes 4 (at' e).2.2)) word else d
      let fc := fwdCopy r val (keptE r mask) pois
      let d := writeArr d s r.fwd fc.1 (fun i => fc.2.getD i false)
      let tc := tCopy r val (keptE r mask) pois
      let d := if p.writeT then writeArr d s r.t tc.1 (fun i => tc.2.getD i false) else d
      let d := if p.clearGrad then writeArr d s r.grad zeros word else d
      (d, { elems := o.elems + n, digest := crc64From o.digest (es.flatMap (fun e => stateBytes p (at' e)))
            nans := o.nans + (es.filter (fun e => Fp.isNan (Fp.decode 0x2 (at' e).1))).length
            drops := o.drops + drops.length
            first := match drops.head? with
              | some e => if o.first = 2 ^ 64 - 1 then o.elems + e else o.first
              | none => o.first
            pois := o.pois || es.any pois })

/-! ## The docket (R275 to R283) -/

/-- The 64-byte result record (R281). (DEDUCED, log entry 19) -/
def optRecord (status regions : Nat) (norm f digest : Nat) (o : OptSum) : List Byte :=
  toBytes 4 status ++ toBytes 4 regions ++ toBytes 8 o.elems ++ toBytes 8 norm ++ toBytes 4 f ++ toBytes 4 0 ++ toBytes 8 digest
  ++ toBytes 8 o.nans ++ toBytes 4 (min o.drops 0xFFFFFFFF) ++ toBytes 4 0 ++ toBytes 8 o.first
def optNothing : OptSum := ⟨0, 0, 0, 0, 2 ^ 64 - 1, false⟩

/-- The whole docket but for its result record, which it answers with the address it goes to. A poisoned parameter block or
region table ends it with status POISON (DEDUCED, log entry 19). -/
def optRun (d : Dev) (s aux : Nat) : Dev × Nat × List Byte :=
  let b := srtRead d aux 128
  let p := optParam b.1
  let fail (d : Dev) (st : Nat) : Dev × Nat × List Byte := (d, p.result, optRecord st 0 0 0 0 optNothing)
  if b.2.1 then fail b.2.2 6
  else if paramBad p || !dieRange b.2.2 s p.norm 8 || !dieRange b.2.2 s p.table (64 * p.count) || !dieRange b.2.2 s p.result 64 then
    fail b.2.2 4
  else
    let t := srtRead b.2.2 p.table (64 * p.count)
    if t.2.1 then fail t.2.2 6
    else
      let rs := (List.range p.count).map (fun i => optRegion ((t.1.drop (64 * i)).take 64))
      let q := srtRead t.2.2 p.norm 8
      let total := bytesAt q.1 0 8
      let d := q.2.2
      let rg := optRanges p aux rs
      if rs.any (regionBad d s p) || (!q.2.1 && negF 0x1 total) then fail d 4
      else if rangesOverlap rg.1 rg.2 then fail d 5
      else
        let nf := optFactor total p
        -- with no region the docket completes OK (R275)
        let st := if p.count = 0 then 1 else if p.skipNan ∧ Fp.isNan (f64 total) then 2
          else if p.skipInf ∧ Fp.isInfV (f64 total) then 3 else 1
        let x := rs.foldl (fun acc r => optRegionRun acc.1 s p r nf.2 (st != 1) q.2.1 acc.2)
          (d, { optNothing with pois := q.2.1 })
        let o := x.2
        let st := if o.pois then 6 else if st = 1 ∧ o.drops ≠ 0 then 7 else st
        (x.1, p.result, optRecord st p.count nf.1 nf.2 (if o.pois then 0 else o.digest) o)

/-- OPTSTEP: the docket runs; its record waits to be written. -/
def optstep (d : Dev) (s id : Nat) : Dev :=
  match findDocket d s id with
  | none => d
  | some k =>
    if dkOp (dkWord k) ≠ opOptstep ∨ !mayStart d s k ∨ dieFills d s then d
    else
      let r := optRun d s (dkAux (dkWord k))
      putDocket r.1 s { k with started := true, ended := true, report := toBytes 5 r.2.1 ++ r.2.2 }

/-- OPTSTEP_COMPLETE: the result record is written, an error raised, the counter incremented (R268, R281 to R283). A record
whose address the checks of R275 turn away is not written (DEDUCED, log entry 19). -/
def optstepComplete (d : Dev) (s id : Nat) : Dev :=
  match findDocket d s id with
  | none => d
  | some k =>
    if dkOp (dkWord k) ≠ opOptstep ∨ !k.ended ∨ dieFills d s then d
    else
      let a := bytesAt k.report 0 5
      let rec' := k.report.drop 5
      let st := bytesAt rec' 0 4
      let d := dropDocket d s id
      let d := if a % 64 = 0 ∧ dieRange d s a 64 then srtWrite d s a rec' else d
      let d := traceDocket (countEvt d (pgSorter s) 0x1001 noClass 1) s (dkWord k) k.cseq.toNat st
      let d := if st = 6 then raiseErr d (pgSorter s) 2 0x103 0 0 else if st = 7 then raiseErr d (pgSorter s) 2 0x106 0 0 else d
      docketBump d s k.post

end Sys2Proof.Machine
end

