-- ==== Sys2Proof/Machine/ExecSorter.lean ====
section
/-!
DEFINITION. One meaning per command: the Sorter, buckets and post boxes (chapters 13 to 15). `gated` runs a
command on a package that is powered and not halted, `powered` on one that is powered (R481, R482); in any other it changes nothing.
-/
namespace Sys2Proof.Machine

/-- DOCKET_ACCEPT. The Sorter accepts a docket and assigns its CSEQ. (R388) -/
def execDocketAccept (site : Site) (replica : Fin 3) (s : State) : Host.Outcome State Fault Refusal :=
  gated (fun d => docketAccept d site.val replica.val) s
/-- ALLREDUCE. The ALLREDUCE docket starts. (R395) -/
def execAllreduce (site : Site) (id : Nat) (s : State) : Host.Outcome State Fault Refusal :=
  gated (fun d => startDocket d site.val id opAllreduce) s
/-- REDUCE_SCATTER. The REDUCE_SCATTER docket starts. (R395) -/
def execReduceScatter (site : Site) (id : Nat) (s : State) : Host.Outcome State Fault Refusal :=
  gated (fun d => startDocket d site.val id opReduceScatter) s
/-- ALLGATHER. The ALLGATHER docket starts. (R401) -/
def execAllgather (site : Site) (id : Nat) (s : State) : Host.Outcome State Fault Refusal :=
  gated (fun d => startDocket d site.val id opAllgather) s
/-- BROADCAST. The BROADCAST docket starts. (R401) -/
def execBroadcast (site : Site) (id : Nat) (s : State) : Host.Outcome State Fault Refusal :=
  gated (fun d => startDocket d site.val id opBroadcast) s
/-- REDUCE. The REDUCE docket starts. (R395) -/
def execReduce (site : Site) (id : Nat) (s : State) : Host.Outcome State Fault Refusal :=
  gated (fun d => startDocket d site.val id opReduce) s
/-- ALLTOALL. The ALLTOALL docket starts. (R399) -/
def execAlltoall (site : Site) (id : Nat) (s : State) : Host.Outcome State Fault Refusal :=
  gated (fun d => startDocket d site.val id opAlltoall) s
/-- ALLTOALLV. The ALLTOALLV docket starts. (R399) -/
def execAlltoallv (site : Site) (id : Nat) (s : State) : Host.Outcome State Fault Refusal :=
  gated (fun d => startDocket d site.val id opAlltoallv) s
/-- BARRIER. The BARRIER docket starts its header-only exchange. (R401) -/
def execBarrier (site : Site) (id : Nat) (s : State) : Host.Outcome State Fault Refusal :=
  gated (fun d => startDocket d site.val id opBarrier) s
/-- SEND. The SEND docket starts. (R401) -/
def execSend (site : Site) (id : Nat) (s : State) : Host.Outcome State Fault Refusal :=
  gated (fun d => startDocket d site.val id opSend) s
/-- RECV. The RECV docket starts. (R401) -/
def execRecv (site : Site) (id : Nat) (s : State) : Host.Outcome State Fault Refusal :=
  gated (fun d => startDocket d site.val id opRecv) s
/-- NORM. The NORM docket starts its tree reduction. (R398) -/
def execNorm (site : Site) (id : Nat) (s : State) : Host.Outcome State Fault Refusal :=
  gated (fun d => startDocket d site.val id opNorm) s
/-- GATHER_DROP. The GATHER_DROP docket fills a restante slot once the slot is FREE. (R400) -/
def execGatherDrop (site : Site) (id : Nat) (s : State) : Host.Outcome State Fault Refusal :=
  gated (fun d => startDocket d site.val id opGather) s
/-- OPTSTEP. The OPTSTEP docket checks its parameter block and updates the shard. (R275) -/
def execOptstep (site : Site) (id : Nat) (s : State) : Host.Outcome State Fault Refusal :=
  gated (fun d => optstep d site.val id) s
/-- OPTSTEP_COMPLETE. OPTSTEP writes its result record and increments its counter. (R281) -/
def execOptstepComplete (site : Site) (id : Nat) (s : State) : Host.Outcome State Fault Refusal :=
  gated (fun d => optstepComplete d site.val id) s
/-- CHUNK_SEND. A lane sends the next chunk when its link allows it. (R406) -/
def execChunkSend (site : Site) (lane : Fin 4) (s : State) : Host.Outcome State Fault Refusal :=
  gated (fun d => chunkSend d site.val lane.val) s
/-- CHUNK_RECEIVE. A reassembled chunk is checked, matched against its docket and combined or written. (R407) -/
def execChunkReceive (site : Site) (lane : Fin 4) (chunk : Chunk) (s : State) : Host.Outcome State Fault Refusal :=
  gated (fun d => chunkReceive d site.val lane chunk) s
/-- E2E_RETRY_REQUEST. A retry request makes the sender reread and resend a chunk once. (R375) -/
def execE2eRetryRequest (site : Site) (name : ChunkName) (s : State) : Host.Outcome State Fault Refusal :=
  gated (fun d => retryRequest d site.val name) s
/-- RETRY_TIMEOUT. No resent chunk within TIMEOUT fails the collective. (R376) -/
def execRetryTimeout (site : Site) (lane : Fin 4) (group : Fin 256) (peer : BitVec 16) (s : State) : Host.Outcome State Fault Refusal :=
  gated (fun d => retryTimeout d site.val lane.val group.val peer.toNat) s
/-- HOLD_NOTICE. A HOLD notice makes the sender keep its chunk. (R411) -/
def execHoldNotice (site : Site) (name : ChunkName) (s : State) : Host.Outcome State Fault Refusal :=
  gated (fun d => holdReceived d site.val name) s
/-- RESUME_NOTICE. A RESUME notice makes the sender resend its held chunks. (R411) -/
def execResumeNotice (site : Site) (group : Fin 256) (cseq : W32) (peer : BitVec 16) (s : State) : Host.Outcome State Fault Refusal :=
  gated (fun d => resumeReceived d site.val group.val cseq peer.toNat) s
/-- HELD_EXPIRED. A chunk held longer than the watchdog is discarded. (R411) -/
def execHeldExpired (site : Site) (idx : Nat) (s : State) : Host.Outcome State Fault Refusal :=
  gated (fun d => heldExpired d site.val idx) s
/-- FAIL_NOTICE. A FAIL notice fails the local docket and is forwarded. (R413) -/
def execFailNotice (site : Site) (info : FailInfo) (s : State) : Host.Outcome State Fault Refusal :=
  gated (fun d => failNotice d site.val info) s
/-- WATCHDOG_EXPIRE. A docket without progress for WATCHDOG cycles fails with ORDER_STALL. (R412) -/
def execWatchdogExpire (site : Site) (id : Nat) (s : State) : Host.Outcome State Fault Refusal :=
  gated (fun d => watchdogExpire d site.val id) s
/-- DOCKET_COMPLETE. A docket writes its status record and ledger entry, then increments its counter. (R394) -/
def execDocketComplete (site : Site) (id : Nat) (s : State) : Host.Outcome State Fault Refusal :=
  gated (fun d => docketComplete d site.val id) s
/-- DOCKET_FAIL. A failing docket sends FAIL notices, poisons its outputs and writes its status. (R413) -/
def execDocketFail (site : Site) (id : Nat) (status : Byte) (s : State) : Host.Outcome State Fault Refusal :=
  gated (fun d => docketFail d site.val id status.toNat) s
/-- NORM_ACC_CLEAR. ACC_CLR bit 0 clears NORM_ACC. (R415) -/
def execNormAccClear (who : Requester) (site : Site) (s : State) : Host.Outcome State Fault Refusal :=
  gated (fun d => access d who (pgSorter site.val + 0xF08) (fun d => normAccClear d site.val)) s
/-- NOISE_ACC_CLEAR. ACC_CLR bit 1 clears NOISE_ACC. (R415) -/
def execNoiseAccClear (who : Requester) (site : Site) (s : State) : Host.Outcome State Fault Refusal :=
  gated (fun d => access d who (pgSorter site.val + 0xF08)
    (fun d => if hasFeature d site.val .noise then noiseAccClear d site.val else d)) s
/-- CLASS_DIGEST_CLEAR. ACC_CLR bit 2 clears every CLASS_DIGEST. (R410) -/
def execClassDigestClear (who : Requester) (site : Site) (s : State) : Host.Outcome State Fault Refusal :=
  gated (fun d => access d who (pgSorter site.val + 0xF08) (fun d => digestsClear d site.val)) s
/-- BUCKET_TRIGGER. A full bucket slot makes the Sorter form and accept a REDUCE_SCATTER. (R426) -/
def execBucketTrigger (site : Site) (s : State) : Host.Outcome State Fault Refusal :=
  gated (fun d => bucketTrigger d site.val) s
/-- BUCKET_OVERFILL. A fill count above bb stops automatic triggering. (R427) -/
def execBucketOverfill (site : Site) (slot : Nat) (s : State) : Host.Outcome State Fault Refusal :=
  gated (fun d => bucketOverfill d site.val slot) s
/-- POSTBOX_SEND. A send use takes a credit and sends its message. (R434) -/
def execPostboxSend (site : Site) (box : Fin 16) (s : State) : Host.Outcome State Fault Refusal :=
  gated (fun d => postboxSend d site.val box.val) s
/-- POSTBOX_DATA. A post box data packet is stored, and the message becomes present once whole. (R435) -/
def execPostboxData (site : Site) (pkt : PbPacket) (s : State) : Host.Outcome State Fault Refusal :=
  gated (fun d => postboxData d site.val pkt) s
/-- POSTBOX_GRANT. A GRANT gives a send box its credits and slot size. (R433) -/
def execPostboxGrant (site : Site) (pkt : PbPacket) (s : State) : Host.Outcome State Fault Refusal :=
  gated (fun d => postboxGrant d site.val pkt) s
/-- POSTBOX_CREDIT. A CREDIT packet returns credits to a send box. (R435) -/
def execPostboxCredit (site : Site) (pkt : PbPacket) (s : State) : Host.Outcome State Fault Refusal :=
  gated (fun d => postboxCredit d site.val pkt) s
/-- POSTBOX_RECEIVE_USE. A receive use reads a present message, and the slot's credit is returned. (R435) -/
def execPostboxReceiveUse (site : Site) (box : Fin 16) (s : State) : Host.Outcome State Fault Refusal :=
  gated (fun d => postboxReceiveUse d site.val box.val) s

end Sys2Proof.Machine
end

