-- ==== Sys2Proof/Machine/ExecTwin.lean ====
section
/-!
DEFINITION. One meaning per command: twin planes (chapter 16). `gated` runs a
command on a package that is powered and not halted, `powered` on one that is powered (R481, R482); in any other it changes nothing.
-/
namespace Sys2Proof.Machine

/-- SEAL_GO. A write of SEAL_GO makes a die contribute to the step seal and holds its Sorter. (R449) -/
def execSealGo (who : Requester) (dies : BitVec 4) (s : State) : Host.Outcome State Fault Refusal :=
  gated (fun d => access d who (pgTwin 0 + 0xF50) (fun d => sealGo d dies.toNat)) s
/-- TWIN_SEAL. The twin's seal arrives and the verdict is decided. (R452) -/
def execTwinSeal (bytes : BitVec 768) (s : State) : Host.Outcome State Fault Refusal :=
  gated (fun d => twinSeal d bytes) s
/-- RECOPY_BEGIN. A RECOPY_BEGIN message is received and the list CRC is checked. (R454) -/
def execRecopyBegin (mask : BitVec 4) (listCrc : W64) (s : State) : Host.Outcome State Fault Refusal :=
  gated (fun d => recopyBegin d mask.toNat listCrc.toNat) s
/-- RECOPY_DATA. A RECOPY_DATA message writes recopied bytes. (R454) -/
def execRecopyData (site : Site) (range : Fin 8) (off : W64) (data : List Byte) (poison : Bool)
    (s : State) : Host.Outcome State Fault Refusal :=
  gated (fun d => recopyData d site.val range.val off.toNat data poison) s
/-- RECOPY_END. A RECOPY_END message is received and the CRC is compared and answered. (R454) -/
def execRecopyEnd (site : Site) (crc : W64) (s : State) : Host.Outcome State Fault Refusal :=
  gated (fun d => recopyEnd d site.val crc.toNat) s
/-- RECOPY_ACK. A RECOPY_ACK message is received and completes or fails the recopy. (R454) -/
def execRecopyAck (status : Byte) (s : State) : Host.Outcome State Fault Refusal :=
  gated (fun d => recopyAck d status.toNat) s
/-- MIRROR_FENCE. A MIRROR_FENCE message fences the same unit and is acknowledged. (R459) -/
def execMirrorFence (kind : Byte) (site : Site) (index : Byte) (s : State) : Host.Outcome State Fault Refusal :=
  gated (fun d => mirrorFence d kind.toNat site.val index.toNat) s
/-- FENCE_ACK. A FENCE_ACK message is received. (R459) -/
def execFenceAck (kind : Byte) (site : Site) (index : Byte) (s : State) : Host.Outcome State Fault Refusal :=
  gated (fun d => fenceAck d kind.toNat site.val index.toNat) s
/-- MIRROR_ACK_TIMEOUT. A MIRROR_FENCE unacknowledged for 100 ms makes the package enter SOLO. (R455) -/
def execMirrorAckTimeout (s : State) : Host.Outcome State Fault Refusal :=
  gated (fun d => mirrorAckTimeout d) s
/-- JOIN. A JOIN message is received and compared. (R457) -/
def execJoin (_lastStep : W64) (state : BitVec 4) (unitCrc : W64) (s : State) : Host.Outcome State Fault Refusal :=
  gated (fun d => twinJoin d state.toNat unitCrc.toNat) s
/-- JOIN_RESEND. A JOINING package sends JOIN every 10 ms. (R457) -/
def execJoinResend (s : State) : Host.Outcome State Fault Refusal :=
  gated (fun d => joinResend d) s
/-- STOPPED. A STOPPED message makes the package enter SOLO. (R455) -/
def execStopped (s : State) : Host.Outcome State Fault Refusal :=
  gated (fun d => twinStopped d) s
/-- SEAL_WAIT_EXPIRE. The twin's seal is late by SEAL_WAIT, and the package enters SOLO. (R455) -/
def execSealWaitExpire (s : State) : Host.Outcome State Fault Refusal :=
  gated (fun d => sealWaitExpire d) s
/-- LOST_WAIT_EXPIRE. No twin port has been UP for LOST_WAIT, and the package enters SOLO. (R455) -/
def execLostWaitExpire (s : State) : Host.Outcome State Fault Refusal :=
  gated (fun d => lostWaitExpire d) s

end Sys2Proof.Machine
end

