-- ==== Sys2Proof/Machine/ExecVec.lean ====
section
/-!
DEFINITION. One meaning per command: the operations of the LD, ST and VEC slots (chapters 6 and 8). `gated` runs a
command on a package that is powered and not halted, `powered` on one that is powered (R481, R482); in any other it changes nothing.
-/
namespace Sys2Proof.Machine

/-- LDV. Loads 512 bytes of a stream into a vector. (R165) -/
def execLdv (c : CtxRef) (h : Hdr) (f : MemF) (s : State) : Host.Outcome State Fault Refusal :=
  gated (fun d => slotLd d c h .ldv f) s
/-- LDM. Loads 512 bytes of core memory into a vector. (R165) -/
def execLdm (c : CtxRef) (h : Hdr) (f : MemF) (s : State) : Host.Outcome State Fault Refusal :=
  gated (fun d => slotLd d c h .ldm f) s
/-- LDP. Loads a predicate from core memory. (R165) -/
def execLdp (c : CtxRef) (h : Hdr) (f : MemF) (s : State) : Host.Outcome State Fault Refusal :=
  gated (fun d => slotLd d c h .ldp f) s
/-- LDPS. Loads a predicate from a stream. (R165) -/
def execLdps (c : CtxRef) (h : Hdr) (f : MemF) (s : State) : Host.Outcome State Fault Refusal :=
  gated (fun d => slotLd d c h .ldps f) s
/-- STV. Stores a vector into a stream. (R165) -/
def execStv (c : CtxRef) (h : Hdr) (f : MemF) (s : State) : Host.Outcome State Fault Refusal :=
  gated (fun d => slotSt d c h .stv f) s
/-- STM. Stores a vector into core memory. (R165) -/
def execStm (c : CtxRef) (h : Hdr) (f : MemF) (s : State) : Host.Outcome State Fault Refusal :=
  gated (fun d => slotSt d c h .stm f) s
/-- STP. Stores a predicate into core memory. (R165) -/
def execStp (c : CtxRef) (h : Hdr) (f : MemF) (s : State) : Host.Outcome State Fault Refusal :=
  gated (fun d => slotSt d c h .stp f) s
/-- VADD. Lanewise add. (R166) -/
def execVadd (c : CtxRef) (h : Hdr) (f : VecF) (s : State) : Host.Outcome State Fault Refusal :=
  gated (fun d => slotVec d c h .vadd f) s
/-- VSUB. Lanewise subtract. (R166) -/
def execVsub (c : CtxRef) (h : Hdr) (f : VecF) (s : State) : Host.Outcome State Fault Refusal :=
  gated (fun d => slotVec d c h .vsub f) s
/-- VMUL. Lanewise multiply. (R166) -/
def execVmul (c : CtxRef) (h : Hdr) (f : VecF) (s : State) : Host.Outcome State Fault Refusal :=
  gated (fun d => slotVec d c h .vmul f) s
/-- VFMA. Fused multiply-add in FP32. (R166) -/
def execVfma (c : CtxRef) (h : Hdr) (f : VecF) (s : State) : Host.Outcome State Fault Refusal :=
  gated (fun d => slotVec d c h .vfma f) s
/-- VMAX. Lanewise maximum. (R167) -/
def execVmax (c : CtxRef) (h : Hdr) (f : VecF) (s : State) : Host.Outcome State Fault Refusal :=
  gated (fun d => slotVec d c h .vmax f) s
/-- VMIN. Lanewise minimum. (R167) -/
def execVmin (c : CtxRef) (h : Hdr) (f : VecF) (s : State) : Host.Outcome State Fault Refusal :=
  gated (fun d => slotVec d c h .vmin f) s
/-- VAND. Lanewise bitwise AND. (R166) -/
def execVand (c : CtxRef) (h : Hdr) (f : VecF) (s : State) : Host.Outcome State Fault Refusal :=
  gated (fun d => slotVec d c h .vand f) s
/-- VOR. Lanewise bitwise OR. (R166) -/
def execVor (c : CtxRef) (h : Hdr) (f : VecF) (s : State) : Host.Outcome State Fault Refusal :=
  gated (fun d => slotVec d c h .vor f) s
/-- VXOR. Lanewise bitwise XOR. (R166) -/
def execVxor (c : CtxRef) (h : Hdr) (f : VecF) (s : State) : Host.Outcome State Fault Refusal :=
  gated (fun d => slotVec d c h .vxor f) s
/-- VSHL. Lanewise shift left. (R166) -/
def execVshl (c : CtxRef) (h : Hdr) (f : VecF) (s : State) : Host.Outcome State Fault Refusal :=
  gated (fun d => slotVec d c h .vshl f) s
/-- VSHR. Lanewise logical shift right. (R166) -/
def execVshr (c : CtxRef) (h : Hdr) (f : VecF) (s : State) : Host.Outcome State Fault Refusal :=
  gated (fun d => slotVec d c h .vshr f) s
/-- VSRA. Lanewise arithmetic shift right. (R166) -/
def execVsra (c : CtxRef) (h : Hdr) (f : VecF) (s : State) : Host.Outcome State Fault Refusal :=
  gated (fun d => slotVec d c h .vsra f) s
/-- VCMP. Lanewise compare into a predicate. (R167) -/
def execVcmp (c : CtxRef) (h : Hdr) (f : VecF) (s : State) : Host.Outcome State Fault Refusal :=
  gated (fun d => slotVec d c h .vcmp f) s
/-- VSEL. Lanewise select by predicate. (R166) -/
def execVsel (c : CtxRef) (h : Hdr) (f : VecF) (s : State) : Host.Outcome State Fault Refusal :=
  gated (fun d => slotVec d c h .vsel f) s
/-- VBCAST. Broadcasts IMM into every lane. (R166) -/
def execVbcast (c : CtxRef) (h : Hdr) (f : VecF) (s : State) : Host.Outcome State Fault Refusal :=
  gated (fun d => slotVec d c h .vbcast f) s
/-- PAND. Predicate AND. (R166) -/
def execPand (c : CtxRef) (h : Hdr) (f : VecF) (s : State) : Host.Outcome State Fault Refusal :=
  gated (fun d => slotVec d c h .pand f) s
/-- POR. Predicate OR. (R166) -/
def execPor (c : CtxRef) (h : Hdr) (f : VecF) (s : State) : Host.Outcome State Fault Refusal :=
  gated (fun d => slotVec d c h .por f) s
/-- PXOR. Predicate XOR. (R166) -/
def execPxor (c : CtxRef) (h : Hdr) (f : VecF) (s : State) : Host.Outcome State Fault Refusal :=
  gated (fun d => slotVec d c h .pxor f) s
/-- PNOT. Predicate NOT. (R166) -/
def execPnot (c : CtxRef) (h : Hdr) (f : VecF) (s : State) : Host.Outcome State Fault Refusal :=
  gated (fun d => slotVec d c h .pnot f) s
/-- VCVT. Vector datatype conversion. (R168) -/
def execVcvt (c : CtxRef) (h : Hdr) (f : VecF) (s : State) : Host.Outcome State Fault Refusal :=
  gated (fun d => slotVec d c h .vcvt f) s
/-- VEXP2. Lanewise 2^x in FP32. (R167) -/
def execVexp2 (c : CtxRef) (h : Hdr) (f : VecF) (s : State) : Host.Outcome State Fault Refusal :=
  gated (fun d => slotVec d c h .vexp2 f) s
/-- VRCP. Lanewise reciprocal in FP32. (R167) -/
def execVrcp (c : CtxRef) (h : Hdr) (f : VecF) (s : State) : Host.Outcome State Fault Refusal :=
  gated (fun d => slotVec d c h .vrcp f) s
/-- VRSQRT. Lanewise reciprocal square root in FP32. (R167) -/
def execVrsqrt (c : CtxRef) (h : Hdr) (f : VecF) (s : State) : Host.Outcome State Fault Refusal :=
  gated (fun d => slotVec d c h .vrsqrt f) s
/-- VLOG2. Lanewise log2 in FP32. (R167) -/
def execVlog2 (c : CtxRef) (h : Hdr) (f : VecF) (s : State) : Host.Outcome State Fault Refusal :=
  gated (fun d => slotVec d c h .vlog2 f) s
/-- VRSUM. Pairwise-tree sum of the lanes. (R167) -/
def execVrsum (c : CtxRef) (h : Hdr) (f : VecF) (s : State) : Host.Outcome State Fault Refusal :=
  gated (fun d => slotVec d c h .vrsum f) s
/-- VRMAX. Pairwise-tree maximum of the lanes. (R167) -/
def execVrmax (c : CtxRef) (h : Hdr) (f : VecF) (s : State) : Host.Outcome State Fault Refusal :=
  gated (fun d => slotVec d c h .vrmax f) s
/-- VPERM. Lane permutation. (R166) -/
def execVperm (c : CtxRef) (h : Hdr) (f : VecF) (s : State) : Host.Outcome State Fault Refusal :=
  gated (fun d => slotVec d c h .vperm f) s
/-- ROUTE. Top-k expert selection for one token. (R185) -/
def execRoute (c : CtxRef) (h : Hdr) (f : VecF) (s : State) : Host.Outcome State Fault Refusal :=
  gated (fun d => slotVec d c h .route f) s
/-- ROUTE_M. Top-k selection merged with the current list. (R185) -/
def execRouteM (c : CtxRef) (h : Hdr) (f : VecF) (s : State) : Host.Outcome State Fault Refusal :=
  gated (fun d => slotVec d c h .routeM f) s

end Sys2Proof.Machine
end

