-- ==== Sys2Proof/Machine/Dispatch.lean ====
section
/-!
DEFINITION. The dispatch: one arm per constructor, each a direct call of that command's meaning.
-/
namespace Sys2Proof.Machine

def exec (i : Instr) (s : State) : Host.Outcome State Fault Refusal :=
  match i with
  | .pwrOkRise serviceMode perstN readings => Sys2Proof.Machine.execPwrOkRise serviceMode perstN readings s
  | .recoveryImage img => Sys2Proof.Machine.execRecoveryImage img s
  | .pwrOkFall => Sys2Proof.Machine.execPwrOkFall s
  | .perstNAssert => Sys2Proof.Machine.execPerstNAssert s
  | .perstNDeassert => Sys2Proof.Machine.execPerstNDeassert s
  | .refclkLoss => Sys2Proof.Machine.execRefclkLoss s
  | .pllUnlock which => Sys2Proof.Machine.execPllUnlock which s
  | .dieRelease site => Sys2Proof.Machine.execDieRelease site s
  | .dieReady site stubDigest => Sys2Proof.Machine.execDieReady site stubDigest s
  | .d2dBringup mismatched failed => Sys2Proof.Machine.execD2dBringup mismatched failed s
  | .d2dPeerAbsent site edgeB => Sys2Proof.Machine.execD2dPeerAbsent site edgeB s
  | .d2dBringupDone site edgeB => Sys2Proof.Machine.execD2dBringupDone site edgeB s
  | .stackTrainDone stack ok => Sys2Proof.Machine.execStackTrainDone stack ok s
  | .portGroupEnable group => Sys2Proof.Machine.execPortGroupEnable group s
  | .laserLow input wave power => Sys2Proof.Machine.execLaserLow input wave power s
  | .laserRestore input powers => Sys2Proof.Machine.execLaserRestore input powers s
  | .smbusReadTelemetry block => Sys2Proof.Machine.execSmbusReadTelemetry block s
  | .smbusSetLimit watts => Sys2Proof.Machine.execSmbusSetLimit watts s
  | .smbusEpdRequest => Sys2Proof.Machine.execSmbusEpdRequest s
  | .smbusRefused request => Sys2Proof.Machine.execSmbusRefused request s
  | .regWrite who addr val be hi => Sys2Proof.Machine.execRegWrite who addr val be hi s
  | .loReadLatch who addr => Sys2Proof.Machine.execLoReadLatch who addr s
  | .hiWriteHold who addr val => Sys2Proof.Machine.execHiWriteHold who addr val s
  | .ctrlEnableSet who page => Sys2Proof.Machine.execCtrlEnableSet who page s
  | .ctrlEnableClear who page => Sys2Proof.Machine.execCtrlEnableClear who page s
  | .softReset who page enable fence => Sys2Proof.Machine.execSoftReset who page enable fence s
  | .fenceReq who page => Sys2Proof.Machine.execFenceReq who page s
  | .startDone page ok => Sys2Proof.Machine.execStartDone page ok s
  | .drainDone page => Sys2Proof.Machine.execDrainDone page s
  | .errStatClear who page mask => Sys2Proof.Machine.execErrStatClear who page mask s
  | .injectArm who page val => Sys2Proof.Machine.execInjectArm who page val s
  | .commit who page key => Sys2Proof.Machine.execCommit who page key s
  | .commitSafePoint page => Sys2Proof.Machine.execCommitSafePoint page s
  | .loopbackDone site errs unit lane => Sys2Proof.Machine.execLoopbackDone site errs unit lane s
  | .jobStartSignal site => Sys2Proof.Machine.execJobStartSignal site s
  | .clusterIssueStart site c => Sys2Proof.Machine.execClusterIssueStart site c s
  | .fillerWindowExpire core array => Sys2Proof.Machine.execFillerWindowExpire core array s
  | .fillerRampEnd core array => Sys2Proof.Machine.execFillerRampEnd core array s
  | .fillerRampUpDone core array => Sys2Proof.Machine.execFillerRampUpDone core array s
  | .budgetPeriod pkgPower => Sys2Proof.Machine.execBudgetPeriod pkgPower s
  | .pmcPeriod site power => Sys2Proof.Machine.execPmcPeriod site power s
  | .droopDetect site c => Sys2Proof.Machine.execDroopDetect site c s
  | .droopRecover site c => Sys2Proof.Machine.execDroopRecover site c s
  | .droopLong site c => Sys2Proof.Machine.execDroopLong site c s
  | .supplyLimit rail => Sys2Proof.Machine.execSupplyLimit rail s
  | .thermSample sensor reading => Sys2Proof.Machine.execThermSample sensor reading s
  | .pkgLimitWrite who watts => Sys2Proof.Machine.execPkgLimitWrite who watts s
  | .epdRequest who val => Sys2Proof.Machine.execEpdRequest who val s
  | .packageHalt cause => Sys2Proof.Machine.execPackageHalt cause s
  | .configRequest reg write => Sys2Proof.Machine.execConfigRequest reg write s
  | .hostLinkDownHalf upper => Sys2Proof.Machine.execHostLinkDownHalf upper s
  | .hostLinkRetrain => Sys2Proof.Machine.execHostLinkRetrain s
  | .bar2Read off len => Sys2Proof.Machine.execBar2Read off len s
  | .bar2Write off data => Sys2Proof.Machine.execBar2Write off data s
  | .cmdqTailWrite who val => Sys2Proof.Machine.execCmdqTailWrite who val s
  | .ringSizeWrite who response val => Sys2Proof.Machine.execRingSizeWrite who response val s
  | .rspqHeadWrite who val => Sys2Proof.Machine.execRspqHeadWrite who val s
  | .commandResponse => Sys2Proof.Machine.execCommandResponse s
  | .badOpcode tag opcode => Sys2Proof.Machine.execBadOpcode tag opcode s
  | .identify tag => Sys2Proof.Machine.execIdentify tag s
  | .attest tag buf nonce => Sys2Proof.Machine.execAttest tag buf nonce s
  | .loadImage tag img bufOk => Sys2Proof.Machine.execLoadImage tag img bufOk s
  | .seal tag remeasured => Sys2Proof.Machine.execSeal tag remeasured s
  | .start tag => Sys2Proof.Machine.execStart tag s
  | .checkpoint tag => Sys2Proof.Machine.execCheckpoint tag s
  | .checkpointWrite site number step segs => Sys2Proof.Machine.execCheckpointWrite site number step segs s
  | .restoreSegment site seg => Sys2Proof.Machine.execRestoreSegment site seg s
  | .endJob tag => Sys2Proof.Machine.execEndJob tag s
  | .endStepBoundary => Sys2Proof.Machine.execEndStepBoundary s
  | .abort tag => Sys2Proof.Machine.execAbort tag s
  | .readWear tag buf fromNumber => Sys2Proof.Machine.execReadWear tag buf fromNumber s
  | .proposeOptable tag table bufOk => Sys2Proof.Machine.execProposeOptable tag table bufOk s
  | .debugToken tag token bufOk => Sys2Proof.Machine.execDebugToken tag token bufOk s
  | .twinCtlSolo tag => Sys2Proof.Machine.execTwinCtlSolo tag s
  | .twinCtlResync tag step => Sys2Proof.Machine.execTwinCtlResync tag step s
  | .twinCtlRelease tag => Sys2Proof.Machine.execTwinCtlRelease tag s
  | .jobDbWrite who n val => Sys2Proof.Machine.execJobDbWrite who n val s
  | .jobNoteWrite who n val => Sys2Proof.Machine.execJobNoteWrite who n val s
  | .hdmaTailWrite who ch val => Sys2Proof.Machine.execHdmaTailWrite who ch val s
  | .hdmaCountWrite who ch val => Sys2Proof.Machine.execHdmaCountWrite who ch val s
  | .hdmaDescriptor ch x => Sys2Proof.Machine.execHdmaDescriptor ch x s
  | .hdmaDescComplete ch payload refetch hostOk statusOk => Sys2Proof.Machine.execHdmaDescComplete ch payload refetch hostOk statusOk s
  | .irqLineRise page => Sys2Proof.Machine.execIrqLineRise page s
  | .msixUnmask vector => Sys2Proof.Machine.execMsixUnmask vector s
  | .remeasure site dieFw stub => Sys2Proof.Machine.execRemeasure site dieFw stub s
  | .hello port msg => Sys2Proof.Machine.execHello port msg s
  | .cert port aliasCert devidCert => Sys2Proof.Machine.execCert port aliasCert devidCert s
  | .kex port point => Sys2Proof.Machine.execKex port point s
  | .confirm port msg => Sys2Proof.Machine.execConfirm port msg s
  | .handshakeReady port => Sys2Proof.Machine.execHandshakeReady port s
  | .handshakeAbort port reason => Sys2Proof.Machine.execHandshakeAbort port reason s
  | .handshakeTimeout port => Sys2Proof.Machine.execHandshakeTimeout port s
  | .authRetry port => Sys2Proof.Machine.execAuthRetry port s
  | .rekey port receive => Sys2Proof.Machine.execRekey port receive s
  | .bundleIssue core => Sys2Proof.Machine.execBundleIssue core s
  | .add c h f => Sys2Proof.Machine.execAdd c h f s
  | .sub c h f => Sys2Proof.Machine.execSub c h f s
  | .mul c h f => Sys2Proof.Machine.execMul c h f s
  | .mulhu c h f => Sys2Proof.Machine.execMulhu c h f s
  | .and c h f => Sys2Proof.Machine.execAnd c h f s
  | .or c h f => Sys2Proof.Machine.execOr c h f s
  | .xor c h f => Sys2Proof.Machine.execXor c h f s
  | .shl c h f => Sys2Proof.Machine.execShl c h f s
  | .shr c h f => Sys2Proof.Machine.execShr c h f s
  | .sra c h f => Sys2Proof.Machine.execSra c h f s
  | .min c h f => Sys2Proof.Machine.execMin c h f s
  | .max c h f => Sys2Proof.Machine.execMax c h f s
  | .minu c h f => Sys2Proof.Machine.execMinu c h f s
  | .maxu c h f => Sys2Proof.Machine.execMaxu c h f s
  | .cmp c h f => Sys2Proof.Machine.execCmp c h f s
  | .lui c h f => Sys2Proof.Machine.execLui c h f s
  | .br c h f => Sys2Proof.Machine.execBr c h f s
  | .jal c h f => Sys2Proof.Machine.execJal c h f s
  | .jr c h f => Sys2Proof.Machine.execJr c h f s
  | .halt c h f => Sys2Proof.Machine.execHalt c h f s
  | .sld c h f => Sys2Proof.Machine.execSld c h f s
  | .slw c h f => Sys2Proof.Machine.execSlw c h f s
  | .sst c h f => Sys2Proof.Machine.execSst c h f s
  | .ssw c h f => Sys2Proof.Machine.execSsw c h f s
  | .s2v c h f => Sys2Proof.Machine.execS2v c h f s
  | .v2s c h f => Sys2Proof.Machine.execV2s c h f s
  | .cset c h f => Sys2Proof.Machine.execCset c h f s
  | .cadd c h f => Sys2Proof.Machine.execCadd c h f s
  | .crd c h f => Sys2Proof.Machine.execCrd c h f s
  | .flgrd c h f => Sys2Proof.Machine.execFlgrd c h f s
  | .flgclr c h f => Sys2Proof.Machine.execFlgclr c h f s
  | .rseed c h f => Sys2Proof.Machine.execRseed c h f s
  | .waitc c h f => Sys2Proof.Machine.execWaitc c h f s
  | .waitd c h f => Sys2Proof.Machine.execWaitd c h f s
  | .waitSatisfied c => Sys2Proof.Machine.execWaitSatisfied c s
  | .barc c h f => Sys2Proof.Machine.execBarc c h f s
  | .dbrd c h f => Sys2Proof.Machine.execDbrd c h f s
  | .note c h f => Sys2Proof.Machine.execNote c h f s
  | .dld c h f => Sys2Proof.Machine.execDld c h f s
  | .fetch c h f => Sys2Proof.Machine.execFetch c h f s
  | .put c h f => Sys2Proof.Machine.execPut c h f s
  | .dpos c h f => Sys2Proof.Machine.execDpos c h f s
  | .dskip c h f => Sys2Proof.Machine.execDskip c h f s
  | .post c h f => Sys2Proof.Machine.execPost c h f s
  | .pack c h f => Sys2Proof.Machine.execPack c h f s
  | .ldv c h f => Sys2Proof.Machine.execLdv c h f s
  | .ldm c h f => Sys2Proof.Machine.execLdm c h f s
  | .ldp c h f => Sys2Proof.Machine.execLdp c h f s
  | .ldps c h f => Sys2Proof.Machine.execLdps c h f s
  | .stv c h f => Sys2Proof.Machine.execStv c h f s
  | .stm c h f => Sys2Proof.Machine.execStm c h f s
  | .stp c h f => Sys2Proof.Machine.execStp c h f s
  | .vadd c h f => Sys2Proof.Machine.execVadd c h f s
  | .vsub c h f => Sys2Proof.Machine.execVsub c h f s
  | .vmul c h f => Sys2Proof.Machine.execVmul c h f s
  | .vfma c h f => Sys2Proof.Machine.execVfma c h f s
  | .vmax c h f => Sys2Proof.Machine.execVmax c h f s
  | .vmin c h f => Sys2Proof.Machine.execVmin c h f s
  | .vand c h f => Sys2Proof.Machine.execVand c h f s
  | .vor c h f => Sys2Proof.Machine.execVor c h f s
  | .vxor c h f => Sys2Proof.Machine.execVxor c h f s
  | .vshl c h f => Sys2Proof.Machine.execVshl c h f s
  | .vshr c h f => Sys2Proof.Machine.execVshr c h f s
  | .vsra c h f => Sys2Proof.Machine.execVsra c h f s
  | .vcmp c h f => Sys2Proof.Machine.execVcmp c h f s
  | .vsel c h f => Sys2Proof.Machine.execVsel c h f s
  | .vbcast c h f => Sys2Proof.Machine.execVbcast c h f s
  | .pand c h f => Sys2Proof.Machine.execPand c h f s
  | .por c h f => Sys2Proof.Machine.execPor c h f s
  | .pxor c h f => Sys2Proof.Machine.execPxor c h f s
  | .pnot c h f => Sys2Proof.Machine.execPnot c h f s
  | .vcvt c h f => Sys2Proof.Machine.execVcvt c h f s
  | .vexp2 c h f => Sys2Proof.Machine.execVexp2 c h f s
  | .vrcp c h f => Sys2Proof.Machine.execVrcp c h f s
  | .vrsqrt c h f => Sys2Proof.Machine.execVrsqrt c h f s
  | .vlog2 c h f => Sys2Proof.Machine.execVlog2 c h f s
  | .vrsum c h f => Sys2Proof.Machine.execVrsum c h f s
  | .vrmax c h f => Sys2Proof.Machine.execVrmax c h f s
  | .vperm c h f => Sys2Proof.Machine.execVperm c h f s
  | .route c h f => Sys2Proof.Machine.execRoute c h f s
  | .routeM c h f => Sys2Proof.Machine.execRouteM c h f s
  | .mxMode c h f => Sys2Proof.Machine.execMxMode c h f s
  | .mxWload c h f => Sys2Proof.Machine.execMxWload c h f s
  | .mxRun c h f => Sys2Proof.Machine.execMxRun c h f s
  | .mxDrain c h f => Sys2Proof.Machine.execMxDrain c h f s
  | .mxQueueHead core => Sys2Proof.Machine.execMxQueueHead core s
  | .blockResultPush core => Sys2Proof.Machine.execBlockResultPush core s
  | .mxRunComplete core => Sys2Proof.Machine.execMxRunComplete core s
  | .drainSwap core => Sys2Proof.Machine.execDrainSwap core s
  | .drainComplete core => Sys2Proof.Machine.execDrainComplete core s
  | .streamDataArrive c r bytes => Sys2Proof.Machine.execStreamDataArrive c r bytes s
  | .streamUseComplete c r => Sys2Proof.Machine.execStreamUseComplete c r s
  | .fetchComplete core idx => Sys2Proof.Machine.execFetchComplete core idx s
  | .putComplete core idx => Sys2Proof.Machine.execPutComplete core idx s
  | .packComplete c => Sys2Proof.Machine.execPackComplete c s
  | .ctxGo who core mask => Sys2Proof.Machine.execCtxGo who core mask s
  | .ctxStop who core mask => Sys2Proof.Machine.execCtxStop who core mask s
  | .ctxStopComplete c => Sys2Proof.Machine.execCtxStopComplete c s
  | .ctxHold who core mask => Sys2Proof.Machine.execCtxHold who core mask s
  | .hbmRead access noise => Sys2Proof.Machine.execHbmRead access noise s
  | .hbmWrite agent ppa data poison => Sys2Proof.Machine.execHbmWrite agent ppa data poison s
  | .sramAccess agent ppa write poison flips => Sys2Proof.Machine.execSramAccess agent ppa write poison flips s
  | .refreshWindow site stack => Sys2Proof.Machine.execRefreshWindow site stack s
  | .scrubRead site stack noise => Sys2Proof.Machine.execScrubRead site stack noise s
  | .scrubNow who site stack val => Sys2Proof.Machine.execScrubNow who site stack val s
  | .stackFenceFill site => Sys2Proof.Machine.execStackFenceFill site s
  | .fillComplete site => Sys2Proof.Machine.execFillComplete site s
  | .replicaRewrite site => Sys2Proof.Machine.execReplicaRewrite site s
  | .d2dFlitReceive m flit => Sys2Proof.Machine.execD2dFlitReceive m flit s
  | .d2dReplayTimeout m => Sys2Proof.Machine.execD2dReplayTimeout m s
  | .d2dRetrain m => Sys2Proof.Machine.execD2dRetrain m s
  | .d2dRetrainDone m failed => Sys2Proof.Machine.execD2dRetrainDone m failed s
  | .moduleDisable m => Sys2Proof.Machine.execModuleDisable m s
  | .sidebandTimeout m => Sys2Proof.Machine.execSidebandTimeout m s
  | .edgeQuiesce site edgeB => Sys2Proof.Machine.execEdgeQuiesce site edgeB s
  | .quiesceDone site edgeB => Sys2Proof.Machine.execQuiesceDone site edgeB s
  | .edgeFence site edgeB => Sys2Proof.Machine.execEdgeFence site edgeB s
  | .routeRewrite => Sys2Proof.Machine.execRouteRewrite s
  | .frameReceive port frame => Sys2Proof.Machine.execFrameReceive port frame s
  | .portReplayTimeout port => Sys2Proof.Machine.execPortReplayTimeout port s
  | .portRetrain port => Sys2Proof.Machine.execPortRetrain port s
  | .portRetrainDone port failed => Sys2Proof.Machine.execPortRetrainDone port failed s
  | .retrain who port val => Sys2Proof.Machine.execRetrain who port val s
  | .cdrLockLoss port lane => Sys2Proof.Machine.execCdrLockLoss port lane s
  | .portLightSeen port => Sys2Proof.Machine.execPortLightSeen port s
  | .peerRetryTimer port => Sys2Proof.Machine.execPeerRetryTimer port s
  | .packetRoute site arrival pkt => Sys2Proof.Machine.execPacketRoute site arrival pkt s
  | .creditExchange => Sys2Proof.Machine.execCreditExchange s
  | .ringHeaterUpdate engine lanes relocked limited => Sys2Proof.Machine.execRingHeaterUpdate engine lanes relocked limited s
  | .docketAccept site replica => Sys2Proof.Machine.execDocketAccept site replica s
  | .allreduce site id => Sys2Proof.Machine.execAllreduce site id s
  | .reduceScatter site id => Sys2Proof.Machine.execReduceScatter site id s
  | .allgather site id => Sys2Proof.Machine.execAllgather site id s
  | .broadcast site id => Sys2Proof.Machine.execBroadcast site id s
  | .reduce site id => Sys2Proof.Machine.execReduce site id s
  | .alltoall site id => Sys2Proof.Machine.execAlltoall site id s
  | .alltoallv site id => Sys2Proof.Machine.execAlltoallv site id s
  | .barrier site id => Sys2Proof.Machine.execBarrier site id s
  | .send site id => Sys2Proof.Machine.execSend site id s
  | .recv site id => Sys2Proof.Machine.execRecv site id s
  | .norm site id => Sys2Proof.Machine.execNorm site id s
  | .gatherDrop site id => Sys2Proof.Machine.execGatherDrop site id s
  | .optstep site id => Sys2Proof.Machine.execOptstep site id s
  | .optstepComplete site id => Sys2Proof.Machine.execOptstepComplete site id s
  | .chunkSend site lane => Sys2Proof.Machine.execChunkSend site lane s
  | .chunkReceive site lane chunk => Sys2Proof.Machine.execChunkReceive site lane chunk s
  | .e2eRetryRequest site name => Sys2Proof.Machine.execE2eRetryRequest site name s
  | .retryTimeout site lane group peer => Sys2Proof.Machine.execRetryTimeout site lane group peer s
  | .holdNotice site name => Sys2Proof.Machine.execHoldNotice site name s
  | .resumeNotice site group cseq peer => Sys2Proof.Machine.execResumeNotice site group cseq peer s
  | .heldExpired site idx => Sys2Proof.Machine.execHeldExpired site idx s
  | .failNotice site info => Sys2Proof.Machine.execFailNotice site info s
  | .watchdogExpire site id => Sys2Proof.Machine.execWatchdogExpire site id s
  | .docketComplete site id => Sys2Proof.Machine.execDocketComplete site id s
  | .docketFail site id status => Sys2Proof.Machine.execDocketFail site id status s
  | .normAccClear who site => Sys2Proof.Machine.execNormAccClear who site s
  | .noiseAccClear who site => Sys2Proof.Machine.execNoiseAccClear who site s
  | .classDigestClear who site => Sys2Proof.Machine.execClassDigestClear who site s
  | .bucketTrigger site => Sys2Proof.Machine.execBucketTrigger site s
  | .bucketOverfill site slot => Sys2Proof.Machine.execBucketOverfill site slot s
  | .postboxSend site box => Sys2Proof.Machine.execPostboxSend site box s
  | .postboxData site pkt => Sys2Proof.Machine.execPostboxData site pkt s
  | .postboxGrant site pkt => Sys2Proof.Machine.execPostboxGrant site pkt s
  | .postboxCredit site pkt => Sys2Proof.Machine.execPostboxCredit site pkt s
  | .postboxReceiveUse site box => Sys2Proof.Machine.execPostboxReceiveUse site box s
  | .sealGo who dies => Sys2Proof.Machine.execSealGo who dies s
  | .twinSeal bytes => Sys2Proof.Machine.execTwinSeal bytes s
  | .recopyBegin mask listCrc => Sys2Proof.Machine.execRecopyBegin mask listCrc s
  | .recopyData site range off data poison => Sys2Proof.Machine.execRecopyData site range off data poison s
  | .recopyEnd site crc => Sys2Proof.Machine.execRecopyEnd site crc s
  | .recopyAck status => Sys2Proof.Machine.execRecopyAck status s
  | .mirrorFence kind site index => Sys2Proof.Machine.execMirrorFence kind site index s
  | .fenceAck kind site index => Sys2Proof.Machine.execFenceAck kind site index s
  | .mirrorAckTimeout => Sys2Proof.Machine.execMirrorAckTimeout s
  | .join lastStep state unitCrc => Sys2Proof.Machine.execJoin lastStep state unitCrc s
  | .joinResend => Sys2Proof.Machine.execJoinResend s
  | .stopped => Sys2Proof.Machine.execStopped s
  | .sealWaitExpire => Sys2Proof.Machine.execSealWaitExpire s
  | .lostWaitExpire => Sys2Proof.Machine.execLostWaitExpire s
  | .fenceSequence page code unit => Sys2Proof.Machine.execFenceSequence page code unit s
  | .fenceDrainTimeout page => Sys2Proof.Machine.execFenceDrainTimeout page s
  | .fenceComplete page => Sys2Proof.Machine.execFenceComplete page s
  | .agemonSample site readings => Sys2Proof.Machine.execAgemonSample site readings s
  | .sampleNow who site val readings => Sys2Proof.Machine.execSampleNow who site val readings s
  | .wearPeriodic => Sys2Proof.Machine.execWearPeriodic s
  | .evctlClear who page mask => Sys2Proof.Machine.execEvctlClear who page mask s
  | .evctlFreeze who page => Sys2Proof.Machine.execEvctlFreeze who page s
  | .evctlThaw who page => Sys2Proof.Machine.execEvctlThaw who page s
  | .evctlOvfClear who page mask => Sys2Proof.Machine.execEvctlOvfClear who page mask s
  | .counterWrap page n => Sys2Proof.Machine.execCounterWrap page n s
  | .freezeAll who site => Sys2Proof.Machine.execFreezeAll who site s
  | .thawAll who site => Sys2Proof.Machine.execThawAll who site s
  | .mark who site val => Sys2Proof.Machine.execMark who site val s
  | .traceEntryWrite site kind page code seq data => Sys2Proof.Machine.execTraceEntryWrite site kind page code seq data s
  | .telemetryRecord => Sys2Proof.Machine.execTelemetryRecord s
  | .portTrainingDone port failed => Sys2Proof.Machine.execPortTrainingDone port failed s
  | .hostLinkTrained rate width reversed => Sys2Proof.Machine.execHostLinkTrained rate width reversed s
  | .hostLinkDown => Sys2Proof.Machine.execHostLinkDown s
  | .testPortAccess req => Sys2Proof.Machine.execTestPortAccess req s

end Sys2Proof.Machine
end

