-- ==== Sys2Proof/Machine/Step.lean ====
section
/-!
DEFINITION. One step: the command at the front of the queue, or a tick of 5 ns when none waits (DESIGN CHOICE, log entry 12).
-/
namespace Sys2Proof.Machine

/-- A tick of a package that has power and is not halted. (DESIGN CHOICE, log entry 12) -/
def idle (d : Dev) : Dev := if d.board.pwrOk && !d.board.halted then tick d else d

/-- Take the command at the front of the queue and run it on the device with the rest of the queue. (DESIGN CHOICE, log entry 2) -/
def step (s : State) : Host.Outcome State Fault Refusal :=
  match s.pending with
  | [] => .next { s with dev := idle s.dev }
  | i :: rest => exec i { s with pending := rest }

/-- The state with the command that a word spells at the front of its queue; no word spells one. -/
def State.withFetchWord (s : State) (nbits w : Nat) : State :=
  match Sys2Proof.decodeTableWord nbits w with
  | some i => { s with pending := i :: s.pending }
  | none => s

end Sys2Proof.Machine
end

