-- ==== Sys2Proof/Safety.lean ====
section
/-!
DEFINITION. What counts as a safe run, and the conditions on a state that statements share.
-/
namespace Sys2Proof.Machine

/-- A run is safe as long as every step answers a next state: the part reports its errors in its own registers and never stops the
model (R465). -/
def completes (s : State) : Prop := ∃ t, step s = .next t

/-- The package has power and is not halted: commands act on it (R31, R481, R482). -/
abbrev Live (d : Dev) : Prop := d.board.pwrOk = true ∧ d.board.halted = false

/-- Nothing is left over from an earlier command, and the start-up is over: after step 9 of R75, after step 5 in service mode (R77), or in
recovery before step 3 (R128). -/
abbrev Steady (d : Dev) : Prop :=
  Live d ∧ d.board.fences = [] ∧ d.board.haltReq = none
  ∧ (d.board.bootStep ≤ 2 ∨ d.board.bootStep = 9 ∨ (d.board.bootStep = 5 ∧ d.board.service = true)) ∧ d.fresh = []

/-- An access of a requester reaches a register: the host's link is up and its BARs are open, no sealed job bars it, and the page takes
it (R42, R62, R67, R91, R97, R145). -/
abbrev Reaches (d : Dev) (who : Requester) (addr : Nat) : Prop :=
  (who = .host → barsOpen d = true) ∧ hostBarred d who addr = false ∧ writeReaches d who addr = true

/-- The command ends in the device given; the queue stays. -/
def Ends (i : Instr) (s : State) (d : Dev) : Prop := exec i s = .next { s with dev := d }

/-- The command ends in some device of which `P` holds; the queue stays. -/
def Gives (i : Instr) (s : State) (P : Dev → Prop) : Prop := ∃ d, Ends i s d ∧ P d

/-! ## What counting changes -/

/-- The registers in which page `a` counts events, and those of a die's trace: EVCTL with its OVF bits, the eight counters, and WR, RD
and DROPPED of a TRACE page (R503 to R508, R514, R517). -/
def Meter (a b : Nat) : Prop :=
  b = a + oEvctl ∨ (a + oEvcnt ≤ b ∧ b < a + 0x100) ∨ ∃ s, pgTrace s + 0x820 ≤ b ∧ b ≤ pgTrace s + 0x828
/-- A CORE page's totals of idle causes (R512). -/
def IdleTotal (a b : Nat) : Prop := a + 0xB00 ≤ b ∧ b < a + 0xB68

/-- Nothing differs but trace entries, interrupt lines and the registers that `P` names. -/
def OnlyMeters (P : Nat → Prop) (d d' : Dev) : Prop :=
  d' = { d with regs := d'.regs, trace := d'.trace, lines := d'.lines } ∧ ∀ b, ¬ P b → reg d' b = reg d b

/-! ## The issue of one slot (R151, R157) -/

/-- Context `r` may issue the bundle `b` in this array cycle: its core issues, it is RUNNING and not held or stopping, the bundle's
registers are free, the bundle is well formed for this core, its gate is open, and no array operation of it is withheld. -/
abbrev CanIssue (d : Dev) (r : CtxRef) (b : Bundle) : Prop :=
  coreLive d r.site.val r.core.val = true ∧ (getCtx d (ctxRefKey r)).cstate = .running
  ∧ held d r.site.val r.core.val r.ctx.val = false ∧ (getCtx d (ctxRefKey r)).stopping = false
  ∧ readyAt (getCtx d (ctxRefKey r)) b ≤ (getCore d (coreKey r.site.val r.core.val)).cycle
  ∧ bundleBad d r.site.val r.core.val r.ctx.val b = none ∧ gateOpen (getCtx d (ctxRefKey r)) b.h = true
  ∧ (b.mx.isSome = true → mxWithheld d r.site.val r.core.val = false)

/-- What an issue by context `r` leaves everywhere but in context `r`: one array cycle has passed, `r` is the last context that issued,
every other context has at most a new idle cause, and beside them only counters, trace and lines differ from `d`. -/
def Issued (d d' : Dev) (r : CtxRef) : Prop :=
  d' = { d with regs := d'.regs, trace := d'.trace, lines := d'.lines, ctxs := d'.ctxs, cores := d'.cores }
  ∧ (∀ b, ¬ Meter (pgCore r.site.val r.core.val) b → ¬ IdleTotal (pgCore r.site.val r.core.val) b → reg d' b = reg d b)
  ∧ (∀ k, k ≠ ctxRefKey r → ∃ x, getCtx d' k = { getCtx d k with cause := x })
  ∧ (∀ k, k ≠ coreKey r.site.val r.core.val → getCore d' k = getCore d k)
  ∧ getCore d' (coreKey r.site.val r.core.val) =
      { getCore d (coreKey r.site.val r.core.val) with
        cycle := (getCore d (coreKey r.site.val r.core.val)).cycle + 1, last := r.ctx.val }

/-- The context is `c` but for the array cycles its pending results wait for and the cause it is counted to. -/
def ContextIs (d : Dev) (r : CtxRef) (c : Ctx) : Prop := ∃ b x, getCtx d (ctxRefKey r) = { c with busy := b, cause := x }

end Sys2Proof.Machine
end

