-- ==== Sys2Proof/Certificates/Slice0/Obligations.lean ====
section
/-!
DEFINITION. The statements for the provers. A statement of several parts is a conjunction of definitions under Sys2Proof.Claims.
-/

namespace Sys2Proof.Machine

/-! ## Words that several statements share -/

/-- The context that a command names. -/
def ctxOf (s : State) (r : CtxRef) : Ctx := getCtx s.dev (ctxRefKey r)
/-- The core of the context that a command names. -/
def coreOf (s : State) (r : CtxRef) : Core := getCore s.dev (coreKey r.site.val r.core.val)

/-- The bundle with one CTRL operation under a header. -/
def ctrlBundle (h : Hdr) (o : CtrlOp) (f : CtrlF) : Bundle := { oneSlot h with ctrl := some (o, f) }
/-- The bundle with one LD operation under a header. -/
def ldBundle (h : Hdr) (o : LdOp) (f : MemF) : Bundle := { oneSlot h with ld := some (o, f) }
/-- The bundle with one ST operation under a header. -/
def stBundle (h : Hdr) (o : StOp) (f : MemF) : Bundle := { oneSlot h with st := some (o, f) }
/-- The bundle with one VEC operation under a header. -/
def vecBundle (h : Hdr) (o : VecOp) (f : VecF) : Bundle := { oneSlot h with vec := some (o, f) }
/-- The bundle with one MX operation under a header. -/
def mxBundle (h : Hdr) (m : MxSlot) : Bundle := { oneSlot h with mx := some m }

/-- The package address of byte `o` of the core memory that context `r` uses (R285). -/
def cmemAt (r : CtxRef) (o : Nat) : Nat := coreMemBase r.site.val r.core.val + o

/-- No word of the granules that the `n` bytes from `a` on touch holds a stored SRAM error (R298). -/
def WordsClean (d : Dev) (a n : Nat) : Prop := ∀ w, 4 * (a / 32) ≤ w → w ≤ 4 * ((a + n - 1) / 32) + 3 → sget noFlip d.sramErr w = 0
/-- Nor is one of those granules poisoned. -/
def ReadsClean (d : Dev) (a n : Nat) : Prop :=
  WordsClean d a n ∧ ∀ g, a / 32 ≤ g → g ≤ (a + n - 1) / 32 → poisonedG d g = false

/-- The bytes from `a` on are `bs`, and every other byte of memory is as before. -/
def StoresBytes (d d' : Dev) (a : Nat) (bs : List Byte) : Prop :=
  ∀ x, memByte d' x = if a ≤ x ∧ x < a + bs.length then bs.getD (x - a) 0 else memByte d x
/-- Every byte of memory reads as before. -/
def SameMemory (d d' : Dev) : Prop := ∀ x, memByte d' x = memByte d x

/-- The `n` bytes from `a` on lie in no bucket slot of the die: buckets are off, or the window ends before them or starts after (R424, R425). -/
abbrev NoBucket (d : Dev) (site a n : Nat) : Prop :=
  bucketBytes d site = 0 ∨ a + n ≤ fld (bucketTemplate d site) 64 40
  ∨ fld (bucketTemplate d site) 64 40 + fld (bucketTemplate d site) 360 16 * bucketBytes d site ≤ a

/-- The device `d'` with the memory, its poison and its stored errors of `d`. -/
def withMemoryOf (d' d : Dev) : Dev := { d' with mem := d.mem, poison := d.poison, sramErr := d.sramErr }

end Sys2Proof.Machine

open Sys2Proof Sys2Proof.Machine

/-! ## Steps, reset and the package without power (R31, R481 to R483) -/

/-- A step takes the command at the front of the queue and runs it on the state with the rest of the queue. -/
def Obligations.StepRunsTheFrontCommand : Prop :=
  ∀ (c : Instr) (s : State), step { s with pending := c :: s.pending } = exec c s

/-- Every command answers a next state and leaves the queue alone: errors are recorded in registers, and none stops the machine (R465). On an
empty queue a step is a tick of 5 ns, the model's choice of log entry 12: a live package's clock, array clocks and running time
advance, and beside its counters, trace and lines nothing else changes; any other package is as before. -/
def Obligations.EveryStepAnswers : Prop :=
  (∀ (c : Instr) (s : State), ∃ d, exec c s = .next { s with dev := d })
  ∧ ∀ s : State, s.pending = [] →
    (¬ Live s.dev → step s = .next s)
    ∧ (Live s.dev → ∃ d, step s = .next { s with dev := d } ∧ d.clock = s.dev.clock + 1
      ∧ OnlyMeters (fun b => ∃ a, a % 0x1000 = 0 ∧ Meter a b) (pass s.dev) d)

/-- Reset is a package before its first PWR_OK: no command waits, no die is released, no key is held, and every register of a page holds the value
that the spec's tables give for reset, ERR_IRQ_EN with the bits of class D, F and X, ESC_WINDOW 0x1000_0000. Memory reads 0 there and contexts
hold zeros by log entries 5 to 7, the model's choice. -/
def Obligations.ResetState : Prop :=
  let d := State.reset.dev
  State.reset.pending = [] ∧ d.board.pwrOk = false ∧ d.board.halted = false ∧ d.board.released = 0 ∧ d.board.alertN = true
  ∧ d.job.key = none ∧ d.sealU.aliasHeld = false ∧ d.sealU.udsHeld = false ∧ (∀ n, (getPort d n).tx = none ∧ (getPort d n).rx = none)
  ∧ (∀ a, reg d a = regDefault a)
  ∧ (∀ a l, pageAt a = some l → (a % 0x1000 = oErrIrqEn → reg d a = 0xE) ∧ (a % 0x1000 = oEscWindow → reg d a = 0x10000000)
      ∧ (a % 0x1000 = oErrStat ∨ a % 0x1000 = oCommitStat ∨ a % 0x1000 = oEvctl ∨ a % 0x1000 = oErrFirst → reg d a = 0))
  ∧ (∀ a, pageAt a ≠ none → ownState d (pageBase a) = stOff) ∧ (∀ a, memByte d a = 0) ∧ (∀ k, getCtx d k = ctxDefault 0)

namespace Sys2Proof.Machine

/-- No key is held (R31, R481): no session key of a port, no job key, no device secret, no Alias key. -/
def NoKeys (d : Dev) : Prop :=
  (∀ n, n < 50 → (getPort d n).tx = none ∧ (getPort d n).rx = none) ∧ d.job.key = none ∧ d.job.ckptKeyed = false
  ∧ d.sealU.udsHeld = false ∧ d.sealU.flashKey = none ∧ d.sealU.aliasHeld = false
/-- A package without power or halted, without keys, and no rise of PWR_OK waits. -/
def Dead (s : State) : Prop :=
  (s.dev.board.pwrOk = false ∨ s.dev.board.halted = true) ∧ NoKeys s.dev ∧ ∀ i ∈ s.pending, ∀ a b c, i ≠ .pwrOkRise a b c

end Sys2Proof.Machine

/-- Only a rising edge of PWR_OK ends a halt or brings up a package without power: until one comes every step of it, whatever the command, leaves it
halted or without power and without keys, and as long as power stays its memory, contexts and boot flash do not change (R31, R481 to R483). -/
def Obligations.DeadPackageStaysDead : Prop :=
  ∀ s t : State, Dead s → step s = .next t →
    Dead t ∧ t.dev.flash = s.dev.flash
    ∧ (t.dev.board.pwrOk = s.dev.board.pwrOk → t.dev.mem = s.dev.mem ∧ t.dev.ctxs = s.dev.ctxs ∧ t.dev.board.halted = s.dev.board.halted)

/-- Every step keeps memory in its canonical form: addresses strictly rising, and no byte listed that an unlisted address reads as. -/
def Obligations.MemoryStaysCanonical : Prop :=
  ∀ s t : State, Memory.wf s.dev.mem = true → step s = .next t → Memory.wf t.dev.mem = true

/-! ## The CTRL slot (R151, R154, R162 to R164, R176 to R181) -/

namespace Sys2Proof.Machine

/-- The arithmetic commands, with the value that R162 gives: `a` is s[SA], `b` is s[SB] plus IMM sign-extended. -/
def arithmetic : List ((CtxRef → Hdr → CtrlF → Instr) × CtrlOp × (CtrlF → W64 → W64 → W64)) :=
  [(.add, .add, fun _ a b => a + b),
   (.sub, .sub, fun _ a b => a - b),
   (.mul, .mul, fun _ a b => BitVec.ofNat 64 (a.toNat * b.toNat)),
   (.mulhu, .mulhu, fun _ a b => BitVec.ofNat 64 (a.toNat * b.toNat / 2 ^ 64)),
   (.and, .and, fun _ a b => a &&& b),
   (.or, .or, fun _ a b => a ||| b),
   (.xor, .xor, fun _ a b => a ^^^ b),
   (.shl, .shl, fun _ a b => BitVec.ofNat 64 (a.toNat * 2 ^ (b.toNat % 64))),
   (.shr, .shr, fun _ a b => BitVec.ofNat 64 (a.toNat / 2 ^ (b.toNat % 64))),
   (.sra, .sra, fun _ a b => BitVec.ofInt 64 (a.toInt / 2 ^ (b.toNat % 64))),
   (.min, .min, fun _ a b => if b.toInt < a.toInt then b else a),
   (.max, .max, fun _ a b => if a.toInt < b.toInt then b else a),
   (.minu, .minu, fun _ a b => if b.toNat < a.toNat then b else a),
   (.maxu, .maxu, fun _ a b => if a.toNat < b.toNat then b else a),
   (.lui, .lui, fun f a _ => BitVec.ofNat 64 (f.imm.toNat * 2 ^ 32 + a.toNat % 2 ^ 32))]

/-- The six conditions of R163 by their number in FN. -/
def comparison : List (BitVec 6 × (W64 → W64 → Bool)) :=
  [(0, fun a b => decide (a = b)), (1, fun a b => decide (a ≠ b)), (2, fun a b => decide (a.toInt < b.toInt)),
   (3, fun a b => decide (b.toInt ≤ a.toInt)), (4, fun a b => decide (a.toNat < b.toNat)), (5, fun a b => decide (b.toNat ≤ a.toNat))]

/-- The commands that read a register of another kind into s[SD], with its value (R162). -/
def scalarReads : List ((CtxRef → Hdr → CtrlF → Instr) × CtrlOp × (Dev → Ctx → CtrlF → W64)) :=
  [(.v2s, .v2s, fun _ c f => BitVec.ofNat 64 (lane (vReg c f.sa.toNat) (f.imm.toNat % 128))),
   (.crd, .crd, fun _ c f => (cReg c f.sa.toNat).zeroExtend 64),
   (.flgrd, .flgrd, fun _ c _ => BitVec.ofNat 64 (c.ovf.toNat + 2 * c.inv.toNat + 2 ^ 32 * c.ovfCount.toNat)),
   (.dbrd, .dbrd, fun d _ f => (reg d (pgHost + 0xF40 + 4 * f.sa.toNat)).zeroExtend 64),
   (.dpos, .dpos, fun _ c f => BitVec.ofNat 64 (dReg c f.sa.toNat).pos)]

/-- What a CTRL command that writes one scalar leaves: s[SD] holds the value, s0 stays 0, the pc is the next bundle; nothing else
of the context differs, and nothing beside it but the count of the issue. -/
def WritesScalar (i : Instr) (s : State) (r : CtxRef) (sd : BitVec 6) (v : W64) : Prop :=
  Gives i s (fun d => Issued s.dev d r ∧ ContextIs d r { setS (ctxOf s r) sd.toNat v with pc := (ctxOf s r).pc + 1 })
/-- The context ends as given and nothing beside it differs but the count of the issue. -/
def LeavesContext (i : Instr) (s : State) (r : CtxRef) (c : Ctx) : Prop := Gives i s (fun d => Issued s.dev d r ∧ ContextIs d r c)

end Sys2Proof.Machine

/-- An arithmetic command of the CTRL slot that can issue writes its value to s[SD] (R162). -/
def Sys2Proof.Claims.ScalarArithmetic : Prop :=
  ∀ e ∈ arithmetic, ∀ (r : CtxRef) (h : Hdr) (f : CtrlF) (s : State),
    Steady s.dev → CanIssue s.dev r (ctrlBundle h e.2.1 f) →
    WritesScalar (e.1 r h f) s r f.sd (e.2.2 f (sReg (ctxOf s r) f.sa.toNat) (operandB (ctxOf s r) f))

/-- CMP writes 1 where the condition of FN holds between s[SA] and operand B, else 0; V2S, CRD, FLGRD, DBRD and DPOS write the register
they read (R162, R163). -/
def Sys2Proof.Claims.ScalarCompareAndRead : Prop :=
  (∀ e ∈ comparison, ∀ (r : CtxRef) (h : Hdr) (f : CtrlF) (s : State),
    Steady s.dev → f.fn = e.1 → CanIssue s.dev r (ctrlBundle h .cmp f) →
    WritesScalar (.cmp r h f) s r f.sd (if e.2 (sReg (ctxOf s r) f.sa.toNat) (operandB (ctxOf s r) f) then 1 else 0))
  ∧ ∀ e ∈ scalarReads, ∀ (r : CtxRef) (h : Hdr) (f : CtrlF) (s : State),
    Steady s.dev → CanIssue s.dev r (ctrlBundle h e.2.1 f) → WritesScalar (e.1 r h f) s r f.sd (e.2.2 s.dev (ctxOf s r) f)

/-- BR with its condition true sets the pc to its own plus IMM, and false to the next bundle; JAL keeps the next pc in s[SD]; JR sets the
pc to s[SA] plus IMM; a bundle that sets the pc lets the next one issue 4 cycles later (R162, R172). HALT ends the context
(R150): its scalar, vector, predicate and counter registers stay. -/
def Obligations.BranchesAndHalt : Prop :=
  (∀ e ∈ comparison, ∀ (r : CtxRef) (h : Hdr) (f : CtrlF) (s : State),
    Steady s.dev → f.fn = e.1 → CanIssue s.dev r (ctrlBundle h .br f) →
    let c := ctxOf s r
    LeavesContext (.br r h f) s r
      (if e.2 (sReg c f.sa.toNat) (sReg c f.sb.toNat) then { c with pc := c.pc + f.imm.signExtend 64, notBefore := (coreOf s r).cycle + 4 }
       else { c with pc := c.pc + 1 }))
  ∧ (∀ (r : CtxRef) (h : Hdr) (f : CtrlF) (s : State), Steady s.dev → CanIssue s.dev r (ctrlBundle h .jal f) →
    let c := ctxOf s r
    LeavesContext (.jal r h f) s r
      { setS c f.sd.toNat (c.pc + 1) with pc := c.pc + f.imm.signExtend 64, notBefore := (coreOf s r).cycle + 4 })
  ∧ (∀ (r : CtxRef) (h : Hdr) (f : CtrlF) (s : State), Steady s.dev → CanIssue s.dev r (ctrlBundle h .jr f) →
    let c := ctxOf s r
    LeavesContext (.jr r h f) s r
      { c with pc := sReg c f.sa.toNat + f.imm.signExtend 64, notBefore := (coreOf s r).cycle + 4 })
  ∧ ∀ (r : CtxRef) (h : Hdr) (f : CtrlF) (s : State), Steady s.dev → CanIssue s.dev r (ctrlBundle h .halt f) →
    (∀ e ∈ (ctxOf s r).d, e.2.active = false) →
    LeavesContext (.halt r h f) s r
      { ctxOf s r with pc := (ctxOf s r).pc + 1, cstate := .halted, wait := .none, stopping := false }

/-- SLD and SLW load 8 and 4 bytes of core memory into s[SD], zero-extended; SST and SSW store the low 8 and 4 bytes of s[SB] at
s[SA] + IMM and change no other byte (R162, R164). -/
def Obligations.ScalarMemory : Prop :=
  (∀ e ∈ ([(.sld, .sld, 8), (.slw, .slw, 4)] : List ((CtxRef → Hdr → CtrlF → Instr) × CtrlOp × Nat)),
    ∀ (r : CtxRef) (h : Hdr) (f : CtrlF) (s : State),
    Steady s.dev → CanIssue s.dev r (ctrlBundle h e.2.1 f) →
    let a := addrA (ctxOf s r) f.sa f.imm
    a % e.2.2 = 0 → a + e.2.2 ≤ coreMemSize → ReadsClean s.dev (cmemAt r a) e.2.2 →
    WritesScalar (e.1 r h f) s r f.sd (BitVec.ofNat 64 (ofBytes (memGet s.dev (cmemAt r a) e.2.2))))
  ∧ ∀ e ∈ ([(.sst, .sst, 8), (.ssw, .ssw, 4)] : List ((CtxRef → Hdr → CtrlF → Instr) × CtrlOp × Nat)),
    ∀ (r : CtxRef) (h : Hdr) (f : CtrlF) (s : State),
    Steady s.dev → CanIssue s.dev r (ctrlBundle h e.2.1 f) →
    let a := addrA (ctxOf s r) f.sa f.imm
    a % e.2.2 = 0 → a + e.2.2 ≤ coreMemSize → hitsCode s.dev r.site.val r.core.val a e.2.2 = false →
    WordsClean s.dev (cmemAt r a) e.2.2 →
    Gives (e.1 r h f) s (fun d =>
      StoresBytes s.dev d (cmemAt r a) (toBytes e.2.2 (sReg (ctxOf s r) f.sb.toNat).toNat)
      ∧ (∀ g, poisonedG d g = poisonedG s.dev g) ∧ WordsClean d (cmemAt r a) e.2.2
      ∧ Issued (withMemoryOf s.dev d) d r ∧ ContextIs d r { ctxOf s r with pc := (ctxOf s r).pc + 1 })

/-- S2V, CSET, CADD, FLGCLR and RSEED write the register that R162, R178, R252 and R258 name, and nothing else. -/
def Obligations.ContextRegisters : Prop :=
  ∀ (r : CtxRef) (h : Hdr) (f : CtrlF) (s : State), Steady s.dev →
    let c := ctxOf s r
    let a := sReg c f.sa.toNat
    let b := operandB c f
    let n := f.sd.toNat
    (CanIssue s.dev r (ctrlBundle h .s2v f) →
      LeavesContext (.s2v r h f) s r { setV c n (ofLanes (List.replicate 128 (a.toNat % 2 ^ 32))) with pc := c.pc + 1 })
    ∧ (CanIssue s.dev r (ctrlBundle h .cset f) → LeavesContext (.cset r h f) s r { setC c n (b.truncate 32) with pc := c.pc + 1 })
    ∧ (CanIssue s.dev r (ctrlBundle h .cadd f) →
      LeavesContext (.cadd r h f) s r { setC c n (cReg c n + b.truncate 32) with pc := c.pc + 1 })
    ∧ (CanIssue s.dev r (ctrlBundle h .flgclr f) →
      LeavesContext (.flgclr r h f) s r
        { c with ovf := c.ovf && !b.getLsbD 0, inv := c.inv && !b.getLsbD 1, ovfCount := if b.getLsbD 63 then 0 else c.ovfCount
                 pc := c.pc + 1 })
    ∧ (CanIssue s.dev r (ctrlBundle h .rseed f) →
      LeavesContext (.rseed r h f) s r
        { c with tensor := a.truncate 32
                 lfsr := BitVec.ofNat 32 (Fp.seed (jobSeed s.dev r.site.val r.core.val) (a.toNat % 2 ^ 32) (b.toNat % 2 ^ 32))
                 pc := c.pc + 1 })

/-- WAITC and WAITD go on where the count has reached operand B, and else wait for it; WAIT_SATISFIED wakes the context then; BARC goes on
at a barrier of COUNT 0, and waits where arrivals are still to come, which BAR_STAT counts (R162, R178, R179, R291). -/
def Obligations.WaitsAndBarriers : Prop :=
  ∀ (r : CtxRef) (h : Hdr) (f : CtrlF) (s : State), Steady s.dev →
    let c := ctxOf s r
    let b : W32 := (operandB c f).truncate 32
    let bar := barStat r.site.val (r.core.val / 8) f.sa.toNat
    (CanIssue s.dev r (ctrlBundle h .waitc f) →
      LeavesContext (.waitc r h f) s r
        (if (cReg c f.sa.toNat - b).toNat < 2 ^ 31 then { c with pc := c.pc + 1 }
         else { c with pc := c.pc + 1, cstate := .waiting, wait := .counter (BitVec.ofNat 4 f.sa.toNat) b f.fn.toNat }))
    ∧ (CanIssue s.dev r (ctrlBundle h .waitd f) →
      LeavesContext (.waitd r h f) s r
        (if (reg s.dev (pgHost + 0xF40 + 4 * f.sa.toNat) - b).toNat < 2 ^ 31 then { c with pc := c.pc + 1 }
         else { c with pc := c.pc + 1, cstate := .waiting, wait := .doorbell (BitVec.ofNat 4 f.sa.toNat) b }))
    ∧ (CanIssue s.dev r (ctrlBundle h .barc f) → barCount s.dev r.site.val (r.core.val / 8) f.sa.toNat = 0 →
      LeavesContext (.barc r h f) s r { c with pc := c.pc + 1 })
    ∧ (CanIssue s.dev r (ctrlBundle h .barc f) →
      rfld s.dev bar 0 8 + 1 < barCount s.dev r.site.val (r.core.val / 8) f.sa.toNat →
      Gives (.barc r h f) s (fun d => Issued (setRfld s.dev bar 0 8 (rfld s.dev bar 0 8 + 1)) d r
        ∧ ContextIs d r { c with pc := c.pc + 1, cstate := .waiting, wait := .barrier f.sa.toNat }))
    ∧ (c.cstate = .waiting → waitOver s.dev r.site.val r.core.val r.ctx.val = true →
      Ends (.waitSatisfied r) s (putCtx s.dev (ctxRefKey r) { c with cstate := .running, wait := .none }))

/-- NOTE adds operand B to JOB_NOTE and sends vector 32 + SD; POST hands the 64 bytes at s[SA] + IMM to the Sorter; PACK takes them as a
request; each goes on with the next bundle (R106, R162, R181, R186). -/
def Obligations.NotesDocketsAndPacks : Prop :=
  ∀ (r : CtxRef) (h : Hdr) (f : CtrlF) (s : State), Steady s.dev →
    let c := ctxOf s r
    let a := addrA c f.sa f.imm
    let w := BitVec.ofNat 512 (ofBytes (memGet s.dev (cmemAt r a) 64))
    let x := getSorter s.dev r.site.val
    (CanIssue s.dev r (ctrlBundle h .note f) →
      let note := pgHost + 0xF80 + 4 * f.sd.toNat
      Gives (.note r h f) s (fun d =>
        Issued (msixSend (setReg s.dev note (reg s.dev note + (operandB c f).truncate 32)) (32 + f.sd.toNat)) d r
        ∧ ContextIs d r { c with pc := c.pc + 1 }))
    ∧ (CanIssue s.dev r (ctrlBundle h .post f) → a % 64 = 0 → a + 64 ≤ coreMemSize → ReadsClean s.dev (cmemAt r a) 64 →
      coreDockets s.dev r.site.val r.core.val < 8 →
      Gives (.post r h f) s (fun d =>
        Issued (putSorter s.dev r.site.val { x with waiting := x.waiting ++
          [⟨w, r.core, r.ctx, f.fn.getLsbD 4, BitVec.ofNat 4 f.fn.toNat, false⟩] }) d r
        ∧ ContextIs d r { c with pc := c.pc + 1 }))
    ∧ (CanIssue s.dev r (ctrlBundle h .pack f) → a + 64 ≤ coreMemSize → ReadsClean s.dev (cmemAt r a) 64 →
      LeavesContext (.pack r h f) s r { c with packs := c.packs ++ [(w, c.pc)], pc := c.pc + 1 })

/-- DLD of a descriptor of KIND 0 starts a use at position 0; FETCH and PUT of one take the lowest free copy slot; DSKIP moves the
position, never past the end, and a use that it brings there completes, one that stood there already at STREAM_USE_COMPLETE (R162, R174 to R177). -/
def Obligations.StreamCommands : Prop :=
  ∀ (r : CtxRef) (h : Hdr) (f : CtrlF) (s : State), Steady s.dev →
    let c := ctxOf s r
    let site := r.site.val
    let k := r.core.val
    let a := addrA c f.sa f.imm
    let w := BitVec.ofNat 512 (ofBytes (memGet s.dev (cmemAt r a) 64))
    let old := dReg c f.sd.toNat
    let st := dReg c f.sa.toNat
    (CanIssue s.dev r (ctrlBundle h .dld f) → a % 64 = 0 → a + 64 ≤ coreMemSize → ReadsClean s.dev (cmemAt r a) 64 →
      ¬ (mxOwner s.dev site k = r.ctx.val ∧ mxUses (coreOf s r) f.sd.toNat = true) →
      useBad s.dev site k r.ctx.val w = false → dscKind w = 0 → dscSize w ≠ 0 → (old.active = true → dscKind old.desc ≠ 3) →
      LeavesContext (.dld r h f) s r
        { setD c f.sd.toNat ⟨w, 0, true, arrivedAtStart site k w, false, 0, [], c.uses, c.pc⟩ with uses := c.uses + 1, pc := c.pc + 1 })
    ∧ (∀ e ∈ ([(.fetch, .fetch, false), (.put, .put, true)] : List ((CtxRef → Hdr → CtrlF → Instr) × CtrlOp × Bool)),
      CanIssue s.dev r (ctrlBundle h e.2.1 f) → useBad s.dev site k r.ctx.val st.desc = false → dscKind st.desc = 0 →
      dscSize st.desc ≠ 0 → (e.2.2 = false → dscRemote st.desc = false) → (operandB c f).toNat + dscSize st.desc ≤ coreMemSize →
      copiesInUse (coreOf s r) < 16 →
      ∃ i, i < 16 ∧ sget (fun _ => none) (coreOf s r).copies i = none
        ∧ (∀ j, j < i → (sget (fun _ => none) (coreOf s r).copies j).isSome = true)
        ∧ let op : CopyOp := ⟨r.ctx, e.2.2, st.desc, (operandB c f).toNat, c.uses, false, 0, c.pc⟩
          let m := sput (fun _ => none) (coreOf s r).copies i (some op)
          Gives (e.1 r h f) s (fun d =>
            Issued (putCore s.dev (coreKey site k) { coreOf s r with copies := m }) d r
            ∧ ContextIs d r { c with uses := c.uses + 1, pc := c.pc + 1 }))
    ∧ (CanIssue s.dev r (ctrlBundle h .dskip f) →
      ¬ (mxOwner s.dev site k = r.ctx.val ∧ mxUses (coreOf s r) f.sa.toNat = true) →
      st.active = true → dscKind st.desc = 0 → dscCtrEn st.desc = false →
      let pos := max st.pos (min (dscSize st.desc) (st.pos + (operandB c f).toNat))
      LeavesContext (.dskip r h f) s r
        { setD c f.sa.toNat { st with pos := pos, active := decide (pos < dscSize st.desc ∨ dscSize st.desc ≤ st.pos) } with pc := c.pc + 1 })

/-! ## The LD, ST and VEC slots (R158, R165 to R168, R173, R176, R185) -/

/-- The slots of a bundle word: the bit of the header that enables each, its lowest bit and its width (R150, R156). -/
def Sys2Proof.Machine.slotsOfAWord : List (Nat × Nat × Nat) := [(6, 416, 64), (7, 320, 96), (8, 224, 96), (9, 128, 96), (10, 0, 128)]

/-- What a slot holds whose EN bit is 0 makes no difference to the bundle, and a slot whose EN bit is 1 and whose content is all zero makes none
against one that is not enabled: it does nothing (R157). -/
def Obligations.SlotsThatAreOff : Prop :=
  ∀ w : Nat, ∀ e ∈ slotsOfAWord,
    (∀ x, tbit w (480 + e.1) = false → decodeBundle (setFld w e.2.1 e.2.2 x) = decodeBundle w)
    ∧ (fld w e.2.1 e.2.2 = 0 → decodeBundle (setBit w (480 + e.1) true) = decodeBundle (setBit w (480 + e.1) false))

namespace Sys2Proof.Machine

/-- The lanewise commands of two vectors, with the lane that R166 and R167 give; `fp` says that TYPE is FP32. -/
def lanewise : List ((CtxRef → Hdr → VecF → Instr) × VecOp × (Bool → Nat → Nat → Nat)) :=
  [(.vadd, .vadd, fun fp a b => if fp then Fp.add32 a b else (a + b) % 2 ^ 32),
   (.vsub, .vsub, fun fp a b => if fp then Fp.sub32 a b else (a + 2 ^ 32 - b) % 2 ^ 32),
   (.vmul, .vmul, fun fp a b => if fp then Fp.mul32 a b else a * b % 2 ^ 32),
   (.vmax, .vmax, fun fp a b => if fp then Fp.maxmin32 true a b else if sgn32 a < sgn32 b then b else a),
   (.vmin, .vmin, fun fp a b => if fp then Fp.maxmin32 false a b else if sgn32 b < sgn32 a then b else a),
   (.vand, .vand, fun _ a b => a &&& b),
   (.vor, .vor, fun _ a b => a ||| b),
   (.vxor, .vxor, fun _ a b => a ^^^ b),
   (.vshl, .vshl, fun _ a b => a * 2 ^ (b % 32) % 2 ^ 32),
   (.vshr, .vshr, fun _ a b => a / 2 ^ (b % 32)),
   (.vsra, .vsra, fun _ a b => (sgn32 a / 2 ^ (b % 32) % 2 ^ 32).toNat),
   (.vexp2, .vexp2, fun _ a _ => Fp.exp2_32 a),
   (.vrcp, .vrcp, fun _ a _ => Fp.rcp32 a),
   (.vrsqrt, .vrsqrt, fun _ a _ => Fp.rsqrt32 a),
   (.vlog2, .vlog2, fun _ a _ => Fp.log2_32 a)]

/-- The predicate commands of two registers. -/
def predicateOps : List ((CtxRef → Hdr → VecF → Instr) × VecOp × (Bool → Bool → Bool)) :=
  [(.pand, .pand, fun a b => a && b), (.por, .por, fun a b => a || b), (.pxor, .pxor, fun a b => a != b),
   (.pnot, .pnot, fun a _ => !a)]

/-- A vector register after a write of 128 lanes under the predicate: a lane it lets through is written, another stays. -/
def LanesWritten (old new : VReg) (on : Nat → Bool) (l : Nat → Nat) : Prop :=
  ∀ i, i < 128 → lane new i = if on i then l i % 2 ^ 32 else lane old i
/-- A predicate register after a write under the predicate. -/
def BitsWritten (old new : PReg) (on : Nat → Bool) (b : Nat → Bool) : Prop :=
  ∀ i, i < 128 → new.getLsbD i = if on i then b i else old.getLsbD i

/-- A command of the VEC slot that writes one vector register. -/
def WritesVector (i : Instr) (s : State) (r : CtxRef) (h : Hdr) (vd : BitVec 5) (l : Nat → Nat) : Prop :=
  Gives i s (fun d => Issued s.dev d r ∧ ∃ x : VReg, LanesWritten (vReg (ctxOf s r) vd.toNat) x (laneOn (ctxOf s r) h) l
    ∧ ContextIs d r { setV (ctxOf s r) vd.toNat x with pc := (ctxOf s r).pc + 1 })
/-- A command that writes one predicate register. -/
def WritesPredicate (i : Instr) (s : State) (r : CtxRef) (h : Hdr) (pd : BitVec 3) (b : Nat → Bool) : Prop :=
  Gives i s (fun d => Issued s.dev d r ∧ ∃ x : PReg, BitsWritten (pReg (ctxOf s r) pd.toNat) x (laneOn (ctxOf s r) h) b
    ∧ ContextIs d r { setP (ctxOf s r) pd.toNat x with pc := (ctxOf s r).pc + 1 })

end Sys2Proof.Machine

/-- A lanewise command writes each lane that the predicate lets through with its operation on the lanes of v[VA] and v[VB]; VFMA adds
v[VC]; VSEL takes the lane that the predicate register names; VBCAST takes IMM (R158, R166, R167). -/
def Sys2Proof.Claims.VectorLanes : Prop :=
  (∀ e ∈ lanewise, ∀ (r : CtxRef) (h : Hdr) (f : VecF) (s : State), Steady s.dev → CanIssue s.dev r (vecBundle h e.2.1 f) →
    let c := ctxOf s r
    WritesVector (e.1 r h f) s r h f.vd (fun i => e.2.2 (f.typ == 2) (lane (vReg c f.va.toNat) i) (lane (vReg c f.vb.toNat) i)))
  ∧ ∀ (r : CtxRef) (h : Hdr) (f : VecF) (s : State), Steady s.dev →
    let c := ctxOf s r
    let a := lane (vReg c f.va.toNat)
    let b := lane (vReg c f.vb.toNat)
    (CanIssue s.dev r (vecBundle h .vfma f) →
      WritesVector (.vfma r h f) s r h f.vd (fun i => Fp.fma32 (a i) (b i) (lane (vReg c f.vc.toNat) i)))
    ∧ (CanIssue s.dev r (vecBundle h .vsel f) →
      WritesVector (.vsel r h f) s r h f.vd (fun i => if (pReg c f.pd.toNat).getLsbD i then a i else b i))
    ∧ (CanIssue s.dev r (vecBundle h .vbcast f) → WritesVector (.vbcast r h f) s r h f.vd (fun _ => f.imm.toNat))

/-- VRSUM and VRMAX combine all 128 lanes of v[VA] by the fixed pairwise tree into lane 0; VPERM takes the lane that v[VB] names modulo 128
(R166, R167). -/
def Sys2Proof.Claims.VectorReductions : Prop :=
  ∀ (r : CtxRef) (h : Hdr) (f : VecF) (s : State), Steady s.dev →
    let c := ctxOf s r
    let a := vReg c f.va.toNat
    let fp : Bool := f.typ == 2
    (CanIssue s.dev r (vecBundle h .vrsum f) →
      WritesVector (.vrsum r h f) s r h f.vd
        (fun i => if i = 0 then pairTree (fun x y => if fp then Fp.add32 x y else (x + y) % 2 ^ 32) 7 (lanes a) else 0))
    ∧ (CanIssue s.dev r (vecBundle h .vrmax f) →
      WritesVector (.vrmax r h f) s r h f.vd
        (fun i => if i = 0 then
          pairTree (fun x y => if fp then Fp.maxmin32 true x y else if sgn32 x < sgn32 y then y else x) 7 (lanes a) else 0))
    ∧ (CanIssue s.dev r (vecBundle h .vperm f) →
      WritesVector (.vperm r h f) s r h f.vd (fun i => lane a (lane (vReg c f.vb.toNat) i % 128)))

/-- PAND, POR, PXOR and PNOT write each bit that the predicate lets through; VCMP writes the result of its condition on two lanes (R158,
R166, R167). -/
def Sys2Proof.Claims.Predicates : Prop :=
  (∀ e ∈ predicateOps, ∀ (r : CtxRef) (h : Hdr) (f : VecF) (s : State), Steady s.dev → CanIssue s.dev r (vecBundle h e.2.1 f) →
    let c := ctxOf s r
    WritesPredicate (e.1 r h f) s r h f.pd (fun i => e.2.2 ((pReg c f.va.toNat).getLsbD i) ((pReg c f.vb.toNat).getLsbD i)))
  ∧ ∀ (r : CtxRef) (h : Hdr) (f : VecF) (s : State), Steady s.dev → CanIssue s.dev r (vecBundle h .vcmp f) →
    let c := ctxOf s r
    let cond := f.imm.toNat % 8
    WritesPredicate (.vcmp r h f) s r h f.pd (fun i =>
      let a := lane (vReg c f.va.toNat) i
      let b := lane (vReg c f.vb.toNat) i
      if f.typ = 2 then Fp.cmpVal cond (Fp.decode 2 a) (Fp.decode 2 b) else icmp cond (sgn32 a) (sgn32 b))

/-- VCVT converts the elements of its part of v[VA] and writes those that the predicate lets through, with the flags, the overflow count,
the generator and for an MX target the scales that the conversion gives; ROUTE ranks the experts of v[VA], ROUTE.M those and the
lists that v[VD] and v[VD + 1] hold, and they write both lists (R168, R185, R255). -/
def Sys2Proof.Claims.ConvertAndRoute : Prop :=
  ∀ (r : CtxRef) (h : Hdr) (f : VecF) (s : State), Steady s.dev →
    let c := ctxOf s r
    let vd := f.vd.toNat
    let on := laneOn c h
    let cur := (List.range 128).map (fun i => (lane (vReg c vd) i, lane (vReg c (vd + 1)) i))
    (CanIssue s.dev r (vecBundle h .vcvt f) → LeavesContext (.vcvt r h f) s r { cvtApply c f on with pc := c.pc + 1 })
    ∧ (∀ e ∈ ([(.route, .route, []), (.routeM, .routeM, cur)] : List ((CtxRef → Hdr → VecF → Instr) × VecOp × List Cand)),
      CanIssue s.dev r (vecBundle h e.2.1 f) →
      let l := routeLanes f.imm (vReg c f.va.toNat) e.2.2
      Gives (e.1 r h f) s (fun d => Issued s.dev d r ∧ ∃ x y : VReg,
        LanesWritten (vReg c vd) x on (fun i => l.1.getD i 0) ∧ LanesWritten (vReg c (vd + 1)) y on (fun i => l.2.getD i 0)
        ∧ ContextIs d r { setV (setV c vd x) (vd + 1) y with pc := c.pc + 1 }))

/-- LDM loads 512 bytes of core memory into the lanes of v[VD] that the predicate lets through, LDP 16 bytes into p[PD]; STM and STP store
v[VS] and p[PD] there, an STM without predicate all 512 bytes, and change no other byte (R158, R164, R165). -/
def Sys2Proof.Claims.VectorMemory : Prop :=
  ∀ (r : CtxRef) (h : Hdr) (f : MemF) (s : State), Steady s.dev →
    let c := ctxOf s r
    let a := addrA c f.sa f.imm
    let next : Ctx := { c with pc := c.pc + 1 }
    (CanIssue s.dev r (ldBundle h .ldm f) → a % 64 = 0 → a + 512 ≤ coreMemSize → ReadsClean s.dev (cmemAt r a) 512 →
      WritesVector (.ldm r h f) s r h f.vr (fun i => ofBytes (memGet s.dev (cmemAt r (a + 4 * i)) 4)))
    ∧ (CanIssue s.dev r (ldBundle h .ldp f) → a % 16 = 0 → a + 16 ≤ coreMemSize → ReadsClean s.dev (cmemAt r a) 16 →
      LeavesContext (.ldp r h f) s r
        { setP c f.pd.toNat (BitVec.ofNat 128 (ofBytes (memGet s.dev (cmemAt r a) 16))) with pc := c.pc + 1 })
    ∧ (CanIssue s.dev r (stBundle h .stm f) → (∀ i, i < 128 → laneOn c h i = true) → a % 64 = 0 → a + 512 ≤ coreMemSize →
      hitsCode s.dev r.site.val r.core.val a 512 = false →
      Gives (.stm r h f) s (fun d => StoresBytes s.dev d (cmemAt r a) (toBytes 512 (vReg c f.vr.toNat).toNat)
        ∧ ReadsClean d (cmemAt r a) 512 ∧ Issued (withMemoryOf s.dev d) d r ∧ ContextIs d r next))
    ∧ (CanIssue s.dev r (stBundle h .stp f) → a % 16 = 0 → a + 16 ≤ coreMemSize →
      hitsCode s.dev r.site.val r.core.val a 16 = false → WordsClean s.dev (cmemAt r a) 16 →
      Gives (.stp r h f) s (fun d => StoresBytes s.dev d (cmemAt r a) (toBytes 16 (pReg c f.pd.toNat).toNat)
        ∧ (∀ g, poisonedG d g = poisonedG s.dev g) ∧ Issued (withMemoryOf s.dev d) d r ∧ ContextIs d r next))

/-- LDV and LDPS of a memory stream take 512 and 16 bytes from its position, zeros past its end, and move the position; an STV without
predicate to a stream that lies in one run of the core's own memory stores there the bytes that the stream takes (R165, R174,
R176). -/
def Sys2Proof.Claims.VectorStreams : Prop :=
  ∀ (r : CtxRef) (h : Hdr) (f : MemF) (s : State), Steady s.dev →
    let c := ctxOf s r
    let ds := f.ds.toNat
    let st := dReg c ds
    let off := (st.desc.toNat % 2 ^ 40) - cmemAt r 0
    let own := cmemAt r 0 ≤ st.desc.toNat % 2 ^ 40 ∧ dscRemote st.desc = false ∧ dscKind st.desc = 0 ∧ dscCnt1 st.desc = 1 ∧ dscCnt2 st.desc = 1
      ∧ off + dscSize st.desc ≤ coreMemSize ∧ st.arrived = dscSize st.desc ∧ st.pos < dscSize st.desc
      ∧ ¬ (mxOwner s.dev r.site.val r.core.val = r.ctx.val ∧ mxUses (coreOf s r) ds = true)
    let at' := cmemAt r (off + st.pos)
    let m (n : Nat) := min n (dscSize st.desc - st.pos)
    let moved (n : Nat) (c : Ctx) : Ctx := { setD c ds { st with pos := st.pos + m n } with pc := c.pc + 1 }
    (own → CanIssue s.dev r (ldBundle h .ldv f) → ReadsClean s.dev at' (m 512) →
      Gives (.ldv r h f) s (fun d => Issued s.dev d r ∧ ∃ x : VReg,
        LanesWritten (vReg c f.vr.toNat) x (laneOn c h)
          (fun i => ofBytes (((memGet s.dev at' (m 512) ++ List.replicate (512 - m 512) 0).drop (4 * i)).take 4))
        ∧ ContextIs d r (moved 512 (setV c f.vr.toNat x))))
    ∧ (own → CanIssue s.dev r (ldBundle h .ldps f) → ReadsClean s.dev at' (m 16) →
      LeavesContext (.ldps r h f) s r
        (moved 16 (setP c f.pd.toNat (BitVec.ofNat 128 (ofBytes (memGet s.dev at' (m 16) ++ List.replicate (16 - m 16) 0))))))
    ∧ (own → CanIssue s.dev r (stBundle h .stv f) → (∀ i, i < 128 → laneOn c h i = true) →
      hitsCode s.dev r.site.val r.core.val (off + st.pos) (m 512) = false → NoBucket s.dev r.site.val at' (m 512) → WordsClean s.dev at' (m 512) →
      Gives (.stv r h f) s (fun d => StoresBytes s.dev d at' ((toBytes 512 (vReg c f.vr.toNat).toNat).take (m 512))
        ∧ Issued (withMemoryOf s.dev d) d r ∧ ContextIs d r (moved 512 c)))

/-! ## The MX slot, the arrays, streams and contexts (R169 to R171, R176, R177, R186, R192, R195 to R231) -/

namespace Sys2Proof.Machine

/-- The key of a core, and what its arrays hold. -/
def keyOf (c : CoreRef) : Nat := coreKey c.site.val c.core.val
/-- The arrays, queue and copies of a core. -/
def coreAt (s : State) (c : CoreRef) : Core := getCore s.dev (keyOf c)
/-- A core whose memory is in the map: its die is up, neither it nor its cluster is fenced (R285, R286). -/
abbrev MemoryUp (d : Dev) (site k : Nat) : Prop := dieUp d site = true ∧ coreFenced d site k = false
/-- The stream of a descriptor lies in one run of core memory of core k: KIND 0, this package, all counts 1 (R174). -/
abbrev OneRun (site k : Nat) (x : BitVec 512) : Prop :=
  dscKind x = 0 ∧ dscRemote x = false ∧ dscCnt1 x = 1 ∧ dscCnt2 x = 1 ∧ 0 < dscSize x
  ∧ coreMemBase site k ≤ dscPpa x ∧ dscPpa x + dscSize x ≤ coreMemBase site k + coreMemSize
/-- A context whose completion counter a use increments when CTR_EN is set (R176). -/
def useCounted (d : Dev) (key : Nat) (en : Bool) (ctr : Nat) : Dev :=
  if en then putCtx d key (setC (getCtx d key) ctr (cReg (getCtx d key) ctr + 1)) else d

end Sys2Proof.Machine

/-- An MX command that can issue while the array queue has room enters the queue with what its header and scalars give, numbered in
issue order; a run advances the tile sequence count, and TMAP skips the run whose predicate bit equals TSENSE (R154, R169, R170, R171,
R183). -/
def Obligations.MxCommandsEnterTheQueue : Prop :=
  ∀ (r : CtxRef) (h : Hdr) (s : State), Steady s.dev → (coreOf s r).queue.length < 8 →
    let c := ctxOf s r
    let co := coreOf s r
    let seed (i : BitVec 6) := Fp.seed (jobSeed s.dev r.site.val r.core.val) c.tensor.toNat ((sReg c i.toNat).toNat % 2 ^ 32)
    let queued (o : MxOp) := putCore s.dev (coreKey r.site.val r.core.val) { co with queue := co.queue ++ [o], mxNum := co.mxNum + 1 }
    (∀ f, CanIssue s.dev r (mxBundle h (.mode f)) →
      Gives (.mxMode r h f) s (fun d => Issued (queued (.mode f co.mxNum c.pc)) d r ∧ ContextIs d r { c with pc := c.pc + 1 }))
    ∧ (∀ f, CanIssue s.dev r (mxBundle h (.wload f)) →
      Gives (.mxWload r h f) s (fun d =>
        Issued (queued (.wload f h.sparse co.mxNum c.pc)) d r ∧ ContextIs d r { c with pc := c.pc + 1 }))
    ∧ (∀ f, CanIssue s.dev r (mxBundle h (.run f)) →
      let skip := h.tmap && ((pReg c f.tsel.toNat).getLsbD ((sReg c f.stidx.toNat).toNat % 128) == f.tsense)
      Gives (.mxRun r h f) s (fun d =>
        Issued (queued (.run f (sReg c f.sk.toNat).toNat h.sparse h.zskip skip (c.tileSeq + 1) co.mxNum c.pc)) d r
        ∧ ContextIs d r { c with pc := c.pc + 1, tileSeq := c.tileSeq + 1 }))
    ∧ (∀ f, CanIssue s.dev r (mxBundle h (.drain f)) →
      Gives (.mxDrain r h f) s (fun d =>
        Issued (queued (.drain f (BitVec.ofNat 32 (if f.rnd then seed f.stidx else 0)) co.mxNum c.pc)) d r
        ∧ ContextIs d r { c with pc := c.pc + 1 }))

/-- The operation at the head reaches arrays that no run holds: MX.MODE sets flow, types and arrays and ends every binding; MX.WLOAD
binds the arrays it names and frees its register's others; MX.RUN of no rows or columns completes; one that fits its mode
takes the arrays, its live set emptied for ACC 0; MX.DRAIN waits for its swap (R195, R198, R209, R214, R227). -/
def Obligations.TheHeadOfTheArrayQueue : Prop :=
  ∀ (c : CoreRef) (s : State) (rest : List MxOp), Steady s.dev →
    let co := coreAt s c
    let after (x : Core) : Dev := putCore s.dev (keyOf c) x
    co.cur = none →
    (∀ f num pc, co.queue = .mode f num pc :: rest →
      ∃ fl, Ends (.mxQueueHead c) s (after { co with flow := f.flow, atype := f.atype, btype := f.btype, arrays := f.arrays
                                                     binds := [], sparsity := [], back := [], queue := rest, filler := fl }))
    ∧ (∀ f k sp zs sk tile num pc, co.queue = .run f k sp zs sk tile num pc :: rest → f.m = 0 ∨ f.n = 0 →
      ∃ fl, Ends (.mxQueueHead c) s (after { co with queue := rest, filler := fl }))
    ∧ (∀ f k sp zs sk tile num pc, co.queue = .run f k sp zs sk tile num pc :: rest → f.m ≠ 0 → f.n ≠ 0 → k ≠ 0 →
      runMismatch co f sp = false → fillerWindow s.dev c.site.val = 0 →
      (∀ a, sget (fun _ => Filler.rest) co.filler a ≠ .rampUp) →
      let live : AccSet := if f.acc then co.live else ⟨true, f.m.toNat, f.n.toNat, co.flow, co.atype, co.btype, sp, co.arrays, 0, tile, []⟩
      Gives (.mxQueueHead c) s (fun d => ∃ fl,
        OnlyMeters (Meter (pgCore c.site.val c.core.val))
          (after { co with live := live, queue := rest, cur := some ⟨f, k, sp, zs, sk, tile, num, 0, pc⟩, filler := fl }) d
        ∧ (sk = false → ∀ a ∈ usedArrays co f.n.toNat, sget (fun _ => Filler.rest) fl a = .active)))
    ∧ ∀ f seed num pc, co.queue = .drain f seed num pc :: rest → drainMismatch co f = false → Ends (.mxQueueHead c) s s.dev

/-- MX.WLOAD at the head of the array queue binds its descriptor register to the arrays of its ARRAYS field and to no other; each of them leaves any
previous binding and takes the header's SPARSE value; ARRAYS 0 binds nothing and completes (R209). -/
def Obligations.WloadBinds : Prop :=
  ∀ (c : CoreRef) (s : State) (rest : List MxOp) f sp num pc, Steady s.dev →
    let co := coreAt s c
    let after (x : Core) : Dev := putCore s.dev (keyOf c) x
    co.cur = none → co.queue = .wload f sp num pc :: rest → co.flow = 0 → f.arrays &&& ~~~ co.arrays = 0 → (sp = 0 ∨ co.atype ≠ 1) →
    (f.arrays = 0 → ∃ fl, Ends (.mxQueueHead c) s (after { co with queue := rest, filler := fl }))
    ∧ (f.arrays ≠ 0 → swf zeroNat co.binds = true →
      ∃ b p fl, Ends (.mxQueueHead c) s (after { co with binds := b, sparsity := p, queue := rest, filler := fl })
        ∧ ∀ a, a < 4 →
          (bindOf { co with binds := b } a =
            if f.arrays.getLsbD a then some f.ds.toNat else if bindOf co a = some f.ds.toNat then none else bindOf co a)
          ∧ sget zeroNat p a = if f.arrays.getLsbD a then sp.toNat else sget zeroNat co.sparsity a)

/-- A K-block of the run in progress enters the pairwise stack, once its operands are read: each output takes its block result, the buffers
turn as the dataflow asks, and the block count and the run advance by one, here where no further weight block is to be read ahead; a run all
of whose blocks have entered frees the arrays (R199, R210, R212, R218). -/
def Sys2Proof.Claims.BlocksAndRuns : Prop :=
  ∀ (c : CoreRef) (s : State) (r : RunState), Steady s.dev →
    let co := coreAt s c
    let k := c.core.val
    let ops := blockOperands co r
    let x := mxReadAll s.dev c.site.val k ops
    let owner := getCtx s.dev (ctxKey c.site.val k (mxOwner s.dev c.site.val k))
    co.cur = some r →
    (∀ bss, r.done < ceilDiv r.k 32 → r.skipped = false → ops.all (fun o => mxServed s.dev c.site.val (dReg owner o.1) o.2) = true →
      x.2 = .inr bss → x.1.board = s.dev.board → getCore x.1 (keyOf c) = co →
      zeroSkip co r (bss.headD []) (bBlocks co r bss.tail) = false →
      let p := pushBlock co.live (stackType co.atype.toNat co.btype.toNat)
        (outputBlock co r (32 * r.done) (bss.headD []) (bBlocks co r bss.tail))
      let co' := blockEntered (blockBuffers co r (bss.headD []) bss.tail) r p.1
      aheadRun co' = none →
      Gives (.blockResultPush c) s (fun d => d.mem = x.1.mem ∧ (p.1.blocks = co.live.blocks + 1) ∧ ∃ t,
        getCore d (keyOf c) = { co' with trapSet := t }))
    ∧ (ceilDiv r.k 32 ≤ r.done → owner.cstate ≠ .halted → owner.cstate ≠ .faulted →
      ∃ fl, Ends (.mxRunComplete c) s (putCore s.dev (keyOf c) { co with cur := none, filler := fl }))

/-- A drain at the head of the queue swaps the live set into the shadow set once the arrays hold no run and no other drain;
the drain of a set that no run began completes with nothing written; any other writes its converted rows and then empties the
shadow set and increments its counter (R171, R214, R215). -/
def Sys2Proof.Claims.Drains : Prop :=
  ∀ (c : CoreRef) (s : State) (f : MxDrainF) (seed : W32) (num : Nat) (pc : W64), Steady s.dev →
    let co := coreAt s c
    let site := c.site.val
    let k := c.core.val
    let key := ctxKey site k (mxOwner s.dev site k)
    let owner := getCtx s.dev key
    (∀ rest, co.queue = .drain f seed num pc :: rest → co.cur = none → co.drain = none → drainMismatch co f = false →
      Ends (.drainSwap c) s (putCore s.dev (keyOf c)
        { co with live := accDefault, shadow := co.live, drain := some (f, seed, num, pc), queue := rest }))
    ∧ (co.drain = some (f, seed, num, pc) → co.shadow.begun = false → owner.cstate ≠ .halted → owner.cstate ≠ .faulted →
      ∃ fl, Ends (.drainComplete c) s
        (useCounted (putCore s.dev (keyOf c) { co with shadow := accDefault, drain := none, filler := fl }) key f.ctrEn f.ctr.toNat))
    ∧ (co.drain = some (f, seed, num, pc) → co.shadow.begun = true → dscKind (dReg owner f.dst.toNat).desc = 0 →
      owner.cstate = .running →
      (let st := dReg owner f.dst.toNat; runsBlocked s.dev (dscPpa st.desc) (dscRuns st.desc st.pos (dscSize st.desc - st.pos)) = false) →
      let x := drainRows site k f.dst.toNat (drainConv co.shadow f seed).1 (drainFlags s.dev site k co.shadow f seed num)
      x.2 = none → x.1.board = s.dev.board → mxOwner x.1 site k = mxOwner s.dev site k → (getCtx x.1 key).cstate = .running →
      Gives (.drainComplete c) s (fun d => d.mem = x.1.mem
        ∧ (getCore d (keyOf c)).drain = none ∧ (getCore d (keyOf c)).shadow = accDefault ∧ (getCore d (keyOf c)).live = (getCore x.1 (keyOf c)).live
        ∧ getCtx d key = getCtx (useCounted x.1 key f.ctrEn f.ctr.toNat) key))

/-- Bytes that arrive for a stream of KIND 0 count toward those it has, and a use that has been read or written to its end completes: its
register is no longer active and its counter increments (R176). -/
def Sys2Proof.Claims.StreamEvents : Prop :=
  ∀ (r : CtxRef) (n : Fin 16) (bytes : Nat) (s : State), Steady s.dev →
    let c := ctxOf s r
    let st := dReg c n.val
    st.active = true → dscKind st.desc = 0 →
    (dscRemote st.desc = false →
      Ends (.streamDataArrive r n bytes) s
        (putCtx s.dev (ctxRefKey r) (setD c n.val { st with arrived := min (dscSize st.desc) (st.arrived + bytes) })))
    ∧ (dscSize st.desc ≤ st.pos → c.cstate = .running ∨ c.cstate = .waiting →
      Ends (.streamUseComplete r n) s
        (useCounted (putCtx s.dev (ctxRefKey r) (setD c n.val { st with active := false })) (ctxRefKey r)
          (dscCtrEn st.desc) (dscCtr st.desc)))

/-- FETCH_COMPLETE moves the bytes of its stream to core memory, PUT_COMPLETE those of core memory to its stream, here for streams that lie
in one run of the core's own memory; the copy slot is free, the counter increments, and no other byte changes (R177). -/
def Sys2Proof.Claims.CopiesComplete : Prop :=
  ∀ (c : CoreRef) (i : Fin 16) (s : State) (o : CopyOp), Steady s.dev → MemoryUp s.dev c.site.val c.core.val →
    let site := c.site.val
    let k := c.core.val
    let co := coreAt s c
    let size := dscSize o.desc
    let here := coreMemBase site k + o.off
    let there := dscPpa o.desc
    let freed := useCounted (putCore s.dev (keyOf c) { co with copies := sput (fun _ => none) co.copies i.val none })
      (ctxKey site k o.ctx.val) (dscCtrEn o.desc) (dscCtr o.desc)
    sget (fun _ => none) co.copies i.val = some o → OneRun site k o.desc → o.off + size ≤ coreMemSize →
    (o.isPut = false → ReadsClean s.dev there size → WordsClean s.dev here size → hitsCode s.dev site k o.off size = false →
      Gives (.fetchComplete c i) s (fun d =>
        StoresBytes s.dev d here (memGet s.dev there size) ∧ d = withMemoryOf freed d))
    ∧ (o.isPut = true → ReadsClean s.dev here size → WordsClean s.dev there size → writeBlocked s.dev site k there size = false →
      NoBucket s.dev site there size → here + size ≤ there ∨ there + size ≤ here →
      (∀ g h, here / 32 ≤ g → g ≤ (here + size - 1) / 32 → there / 32 ≤ h → h ≤ (there + size - 1) / 32 → g ≠ h) →
      Gives (.putComplete c i) s (fun d =>
        StoresBytes s.dev d there (memGet s.dev here size) ∧ d = withMemoryOf freed d))

/-- PACK_COMPLETE of the oldest PACK of a context counts the chosen experts per destination and lists them in order of token and
choice: the count table and then the send list are stored, and the counter increments (R186). -/
def Sys2Proof.Claims.PackComplete : Prop :=
  ∀ (r : CtxRef) (s : State) (x : BitVec 512) (pc : W64) (rest : List (BitVec 512 × W64)), Steady s.dev →
    MemoryUp s.dev r.site.val r.core.val →
    let p := packBlock x
    let cs := packChoices p (memGet s.dev (cmemAt r p.choices) (packSpan p))
    let t := packTables p cs
    let fits (o n : Nat) : Prop := o + n ≤ coreMemSize ∧ WordsClean s.dev (cmemAt r o) n ∧ hitsCode s.dev r.site.val r.core.val o n = false
    (ctxOf s r).packs = (x, pc) :: rest → p.choices + packSpan p ≤ coreMemSize → ReadsClean s.dev (cmemAt r p.choices) (packSpan p) →
    (∀ c ∈ cs, p.perDest ≠ 0 ∧ c.2 / p.perDest < p.dests) → fits p.counts t.1.length → fits p.list t.2.length →
    Gives (.packComplete r) s (fun d =>
      (∃ m, StoresBytes s.dev m (cmemAt r p.counts) t.1 ∧ StoresBytes m d (cmemAt r p.list) t.2)
      ∧ d = withMemoryOf (useCounted (putCtx s.dev (ctxRefKey r) { ctxOf s r with packs := rest }) (ctxRefKey r) p.ctrEn p.ctr) d)

/-- A CTX_GO write starts the contexts of its mask that are IDLE, HALTED or FAULTED, each at its entry bundle with every register at 0;
CTX_STOP marks the RUNNING and WAITING ones of its mask, and a marked one is HALTED once its operations have completed;
CTX_HOLD holds what it is written (R152, R192). -/
def Sys2Proof.Claims.ContextsStartStopAndHold : Prop :=
  ∀ (who : Requester) (c : CoreRef) (mask : BitVec 16) (s : State), Steady s.dev →
    let page := pgCore c.site.val c.core.val
    let key (n : Nat) := ctxKey c.site.val c.core.val n
    let was (n : Nat) := getCtx s.dev (key n)
    (Reaches s.dev who (page + 0xF00) → running s.dev page = true → (∀ n, n < 16 → ∀ e ∈ (was n).d, e.2.active = false) →
      Gives (.ctxGo who c mask) s (fun d => d = { dropHeld s.dev who (page + 0xF00) with ctxs := d.ctxs }
        ∧ (∀ k, (∀ n, n < 16 → k ≠ key n) → getCtx d k = getCtx s.dev k)
        ∧ ∀ n, n < 16 → getCtx d (key n) =
          if mask.getLsbD n ∧ ((was n).cstate = .idle ∨ (was n).cstate = .halted ∨ (was n).cstate = .faulted) then
            { ctxDefault 0 with cstate := .running, pc := BitVec.ofNat 64 (rfld s.dev (page + 0x840 + 4 * n) 0 15),
                                      packs := (was n).packs, uses := (was n).uses }
          else was n))
    ∧ (Reaches s.dev who (page + 0xF04) →
      Gives (.ctxStop who c mask) s (fun d => d = { dropHeld s.dev who (page + 0xF04) with ctxs := d.ctxs }
        ∧ (∀ k, (∀ n, n < 16 → k ≠ key n) → getCtx d k = getCtx s.dev k)
        ∧ ∀ n, n < 16 → getCtx d (key n) =
          if mask.getLsbD n ∧ ((was n).cstate = .running ∨ (was n).cstate = .waiting) then { was n with stopping := true } else was n))
    ∧ (Reaches s.dev who (page + 0xF08) →
      Ends (.ctxHold who c mask) s (setReg (dropHeld s.dev who (page + 0xF08)) (page + 0xF08) (mask.zeroExtend 32)))
    ∧ ∀ n : Fin 16, (was n.val).stopping = true → opsDone s.dev c.site.val c.core.val n.val = true →
      (∀ e ∈ (was n.val).d, e.2.active = false) →
      Ends (.ctxStopComplete ⟨c.site, c.core, n⟩) s
        (putCtx s.dev (key n.val) { was n.val with cstate := .halted, wait := .none, stopping := false })

/-- BUNDLE_ISSUE of a core where one context alone is RUNNING and the others are IDLE does what the operations of that context's next bundle,
the 512-bit word that core memory holds at its pc, do (R151, R156). -/
def Sys2Proof.Claims.ABundleIsTheWordAtThePc : Prop :=
  ∀ (c : CoreRef) (n : Fin 16) (s : State), Steady s.dev →
    let r : CtxRef := ⟨c.site, c.core, n⟩
    let page := pgCore c.site.val c.core.val
    let at' := cmemAt r ((rfld s.dev (page + 0x808) 0 15 + (ctxOf s r).pc.toNat) * 64)
    let b := decodeBundle (ofBytes (memGet s.dev at' 64))
    (∀ m, m < 16 → m ≠ n.val → (getCtx s.dev (ctxKey c.site.val c.core.val m)).cstate = .idle) →
    (ctxOf s r).pc.toNat < rfld s.dev (page + 0x80C) 0 15 → ReadsClean s.dev at' 64 → CanIssue s.dev r b →
    (bundleVerdict s.dev c.site.val c.core.val n.val b).waits = false → (slotIssue s.dev r b).board = s.dev.board →
    Ends (.bundleIssue c) s (slotIssue s.dev r b)

/-! ## Power, start-up, halts and the board (R24 to R31, R73 to R77, R92, R126 to R128, R481) -/

namespace Sys2Proof.Machine

/-- As `Steady`, whatever the start-up waits for. -/
abbrev Quiescent (d : Dev) : Prop := Live d ∧ d.board.fences = [] ∧ d.board.haltReq = none ∧ d.fresh = []
/-- An error on this page is raised with the class of its table: no escalation window is set, and nothing is recovering or being fenced
(R472, R476, R477). -/
abbrev Calm (d : Dev) (page : Nat) : Prop := regN d (page + oEscWindow) = 0 ∧ regN d (pgMgr + 0x820) / 16 = 0
/-- The page has recorded an error of a class and code: its class bit, the bit of its code, and the first error of class D or higher (R50,
R467, R471). -/
def Recorded (d d' : Dev) (page cls code bit : Nat) : Prop :=
  tbit (regN d' (page + oErrStat)) (cls - 1) = true ∧ tbit (regN d' (page + oErrStat)) bit = true
  ∧ regN d' (page + oErrFirst) = if regN d (page + oErrFirst) = 0 ∧ 2 ≤ cls then 0x1000 * cls + code else regN d (page + oErrFirst)

/-- What a halt leaves (R481): MGR.HALT_REC names page and code of the first trigger, every key is erased, the optics are dark, ALERT_N is
low, and memory and contexts are as they were. -/
def HaltedBy (d d' : Dev) (page code : Nat) : Prop :=
  d'.board.halted = true ∧ d'.board.haltRec = some ⟨BitVec.ofNat 27 page, BitVec.ofNat 12 code⟩
  ∧ (∀ l, pageAt page = some l → regN d' (pgMgr + 0x8A0) = 0x4000 + code + 65536 * l.typ.code
      ∧ regN d' (pgMgr + 0x8A4) = 16 * l.inst + 65536 * l.site + 2 ^ 18 * l.inBase.toNat + 2 ^ 31)
  ∧ d'.board.optics = false ∧ d'.board.alertN = false ∧ d'.job.key = none ∧ d'.job.ckptKeyed = false
  ∧ d'.sealU.udsHeld = false ∧ d'.sealU.aliasHeld = false ∧ d'.sealU.flashKey = none
  ∧ (∀ n, n < 50 → (getPort d' n).tx = none ∧ (getPort d' n).rx = none)
  ∧ d'.mem = d.mem ∧ d'.ctxs = d.ctxs ∧ d'.flash = d.flash

end Sys2Proof.Machine

/-- A rising edge of PWR_OK with a good UDS, a counter memory that answers to its flash key and good images in slot A runs steps 1 to 3 of the
start-up on a package without state of an earlier one, here with some die fitted: the step, the laser inputs as they are measured, the power
limit of the envelope, the boot count, and the UDS and flash key (R75, R83, R127, R131, R133). -/
def Sys2Proof.Claims.PowerRise : Prop :=
  ∀ (service perst : Bool) (lasers : BitVec 512) (s : State), s.dev.board.pwrOk = false → flashKeyOf s.dev = s.dev.flash.counterKey →
    (∃ i, i < 4 ∧ (dieFact s.dev i).fitted = true) →
    (∀ e ∈ [(1, s.dev.flash.mgrA), (2, s.dev.flash.dieA), (3, s.dev.flash.stubA), (4, s.dev.flash.buildRecord), (5, s.dev.flash.envelope)],
      imageOk s.dev e.1 e.2 = true) →
    Gives (.pwrOkRise service perst ⟨true, lasers⟩) s (fun d =>
      d.board.pwrOk = true ∧ d.board.perstN = perst ∧ d.board.service = service ∧ d.board.halted = false ∧ d.board.optics = true
      ∧ d.board.bootStep = 3 ∧ rfld d (pgBase + 0x84C) 4 4 = 3 ∧ d.sealU.aliasHeld = false ∧ d.sealU.udsHeld = true
      ∧ d.sealU.flashKey = some (flashKeyOf s.dev) ∧ regN d (pgBase + 0xF00) = pkgMaxW s.dev % 2 ^ 32
      ∧ (∀ i, i < 16 → reg d (pgOpt 12 + 0x860 + 4 * i) = BitVec.ofNat 32 (lasers.toNat / 2 ^ (32 * i))
        ∧ laserGood d i = (List.range 4).all (fun w =>
            decide (rfld d (pgOpt 12 + 0x800) 0 8 ≤ fld (lasers.toNat / 2 ^ (32 * i)) (8 * w) 8)))
      ∧ d.flash = { s.dev.flash with
          counters := raiseCounter s.dev.flash.counters 6 (BitVec.ofNat 32 (min m32 ((rollback s.dev 6).toNat + 1))) }
      ∧ d.mem = [] ∧ d.ctxs = [] ∧ d.job = Job.reset)

/-- A falling edge stops all work and erases every key: but for boot flash, the fitted parts and THERM_TRIP_N the package is as with no
power. A recovery image that verifies as manager firmware is written to slot A, and no other is accepted then (R27, R31, R128). -/
def Sys2Proof.Claims.PowerFallAndRecovery : Prop :=
  (∀ s : State, s.dev.board.pwrOk = true →
    Ends .pwrOkFall s { Dev.reset with
      board := { Board.reset with thermTrip := s.dev.board.thermTrip }, dies := s.dev.dies, baseLevel := s.dev.baseLevel
      baseLetter := s.dev.baseLetter, baseNum := s.dev.baseNum, uds := s.dev.uds, rootDigest := s.dev.rootDigest, caKey := s.dev.caKey
      flash := s.dev.flash, free := s.dev.free, out := s.dev.out })
  ∧ ∀ (x : SignedImage) (s : State), Steady s.dev → s.dev.board.recovery = true → imageOk s.dev 1 x = true →
    Ends (.recoveryImage x) s
      { s.dev with flash := { s.dev.flash with mgrA := x }, board := { s.dev.board with recovery := false } }

/-- Loss of REFCLK and loss of lock of a base loop are class X. Loss of lock of a die's loop is class F of that die, and of a cluster's array
clock generator class F of that cluster: the unit in service drains toward FENCED (R73). -/
def Obligations.ClockLossIsContained : Prop :=
  ∀ s : State, Steady s.dev →
    Gives .refclkLoss s (fun d => HaltedBy s.dev d pgMgr 0x004)
    ∧ Gives (.pllUnlock .base) s (fun d => HaltedBy s.dev d pgMgr 0x004)
    ∧ ∀ site : Site, dieUp s.dev site.val = true → s.dev.board.fencing = [] →
      let fences (cmd : Instr) (t : FenceT) (page : Nat) : Prop := Calm s.dev page → Gives cmd s (fun d =>
        Recorded s.dev d page 3 0x004 2 ∧ (∃ f ∈ d.board.fencing, f = ⟨t, page, 0x004⟩)
        ∧ (ownState s.dev page = stRunning → ownState d page = stDraining ∧ fenceReqd d page = true ∧ d.board.halted = false ∧ d.mem = s.dev.mem)
        ∧ (ownState s.dev page = stOff ∨ ownState s.dev page = stStarting → ownState d page = stFenced))
      fences (.pllUnlock (.die site)) (.die site.val) (pgDie site.val)
      ∧ ∀ c : Fin 16, ownState s.dev (pgCluster site.val c.val) ≠ stFenced →
        fences (.pllUnlock (.cluster site c)) (.page (pgCluster site.val c.val)) (pgCluster site.val c.val)

/-- A supply beyond its limits, an emergency power-down request by register or SMBus, and a class X error of any page halt the package; the
halt record names the page and code (R86, R92, R481, R485). -/
def Sys2Proof.Claims.Halts : Prop :=
  ∀ s : State, Steady s.dev →
    Gives .smbusEpdRequest s (fun d => HaltedBy s.dev d pgBase 0x102)
    ∧ (∀ rail, Gives (.supplyLimit rail) s (fun d => HaltedBy s.dev d pgBase 0x100))
    ∧ (∀ who (val : W32), val.getLsbD 0 = true → Reaches s.dev who (pgBase + 0xF04) →
      Gives (.epdRequest who val) s (fun d => HaltedBy s.dev d pgBase 0x102))
    ∧ ∀ c : HaltCause, (pageAt c.page.toNat).isSome = true →
      Gives (.packageHalt c) s (fun d => HaltedBy s.dev d (pageBase c.page.toNat) c.code.toNat)

/-- The manager releases a fitted die whose straps and identity are right: its STRAP and LEVEL registers show it. The die reports ready
with the digest of the stub, which it has verified; when every die that takes part has, step 4 is complete, and step 5 writes the least
of their levels into each and derives the Alias key, which ends the UDS (R11, R14, R18, R75, R127, R128). -/
def Sys2Proof.Claims.DiesStart : Prop :=
  ∀ (site : Site) (s : State), Quiescent s.dev → s.dev.board.bootStep = 3 →
    let i := site.val
    let f := dieFact s.dev i
    (released s.dev i = false → bvBit s.dev.board.ready i = false → dieDead s.dev i = false → f.strapSite.toNat = i → f.strapRot = f.strapSite →
      (s.dev.flash.build.sites[i]?).map (·.uid) = some f.uid →
      Gives (.dieRelease site) s (fun d => d.board.bootStep = 3 ∧ d.board.released = setBv s.dev.board.released i true
        ∧ regN d (pgDie i + 0x800) = i + 4 * i + 16 ∧ regN d (pgDie i + 0x804) = f.level.toNat ∧ d.mem = s.dev.mem ∧ d.flash = s.dev.flash))
    ∧ (dieUp s.dev i = true → bvBit s.dev.board.ready i = false → imageOk s.dev 3 (stubSlot s.dev) = true →
      let ready := { s.dev with board := { s.dev.board with ready := setBv s.dev.board.ready i true } }
      ((∃ x, x < 4 ∧ x ≠ i ∧ dieDead s.dev x = false ∧ bvBit s.dev.board.ready x = false) →
        Ends (.dieReady site s.dev.sealU.stubDigest) s ready)
      ∧ ((∀ x, x < 4 → dieDead s.dev x = true ∨ x = i ∨ bvBit s.dev.board.ready x = true) → s.dev.board.service = false →
        (∀ x, x < 4 → ownState ready (pgD2d x 0) = stOff) →
        Gives (.dieReady site s.dev.sealU.stubDigest) s (fun d => d.board.bootStep = 5 ∧ d.sealU.aliasHeld = true ∧ d.sealU.udsHeld = false
          ∧ ∀ x, x < 4 → dieUp s.dev x = true →
            (∀ y, y < 4 → dieUp s.dev y = true → runLevel d x ≤ (dieFact s.dev y).level.toNat)
            ∧ ∃ y, y < 4 ∧ dieUp s.dev y = true ∧ runLevel d x = (dieFact s.dev y).level.toNat)))

/-- A stack in STARTING that trains is RUNNING with its scrub pass at address 0; one that fails raises its class F and is FENCED. In step 7
STACK_TRAIN_DONE begins the next stack in turn. Ports of an enabled group whose block is OFF look for light or wait for their lasers, and
step 8 is complete after the last group (R24, R75, R76, R301, R347). -/
def Sys2Proof.Claims.StacksAndPortsStart : Prop :=
  ∀ s : State, Quiescent s.dev → s.dev.sealU.flashKey = some s.dev.flash.counterKey →
    (∀ k : Fin 12,
      let page := pgHbmc (k.val / 3) (k.val % 3)
      let next := pgHbmc (k.val / 3) (k.val % 3 + 1)
      (s.dev.board.bootStep = 6 ∧ s.dev.board.trainNext = k.val) ∨ Steady s.dev →
      dieUp s.dev (k.val / 3) = true → ownState s.dev page = stStarting →
      (tbit (pageCtrl s.dev page) 0 = true → Gives (.stackTrainDone k true) s (fun d => ownState d page = stRunning
        ∧ rfld d (page + 0x820) 0 1 = 1 ∧ reg64 d (page + 0x834) = 0 ∧ d.mem = s.dev.mem
        ∧ (s.dev.board.bootStep = 6 → k.val % 3 ≠ 2 → ownState s.dev next = stOff → d.board.trainNext = k.val + 1 ∧ ownState d next = stStarting)))
      ∧ (Calm s.dev page → s.dev.board.fencing = [] →
        Gives (.stackTrainDone k false) s (fun d => ownState d page = stFenced ∧ Recorded s.dev d page 3 0x102 2)))
    ∧ ∀ g : Fin 13, s.dev.board.bootStep = 9 → s.dev.board.service = false →
      Gives (.portGroupEnable g) s (fun d => d.mem = s.dev.mem ∧ (g.val = 12 → 8 ≤ rfld d (pgBase + 0x84C) 4 4) ∧ ∀ n, n < 50 → n / 4 = g.val →
        (dieUp s.dev (siteOfPort n) = true → ownState s.dev (pgOfPort n) = stOff →
          ownState d (pgOfPort n) = stStarting
          ∧ linkState d n = if laserGood s.dev (laserOf n) = true ∧ (getPort s.dev n).eligible = true then 2 else 1)
        ∧ (ownState s.dev (pgOfPort n) ≠ stOff → ownState d (pgOfPort n) = ownState s.dev (pgOfPort n) ∧ linkState d n = linkState s.dev n))

/-- SMBus reads give the telemetry record as a block or the readings of the BASE page, with the halt record beside them while halted; a power
limit within the envelope in steps of 10 W is taken and another counted; any other request is refused; a halted package refuses
limits and power-down requests (R28, R83, R482, R521). -/
def Sys2Proof.Claims.TheBoardOverSmbus : Prop :=
  ∀ s : State, s.dev.board.pwrOk = true →
    let regs (l : List Nat) : List Byte := l.flatMap (fun a => toBytes 4 (regN s.dev a))
    let shown (bs : List Byte) : Dev := { s.dev with out := s.dev.out ++ [.smbusData bs] }
    let refused : Dev := { s.dev with out := s.dev.out ++ [.smbusRefusal] }
    let record := regs ((List.range 16).map (fun w => pgBase + 0x880 + 4 * w))
    let base := regs [pgBase + 0x840, pgBase + 0x844, pgBase + 0x848]
    let halt := regs [pgMgr + 0x8A0, pgMgr + 0x8A4, pgMgr + 0x8A8, pgMgr + 0x8AC]
    (Steady s.dev → Ends (.smbusReadTelemetry true) s (shown record) ∧ Ends (.smbusReadTelemetry false) s (shown base)
      ∧ ∀ q, Ends (.smbusRefused q) s refused)
    ∧ (s.dev.board.halted = true → s.dev.board.haltReq = none → s.dev.board.fences = [] →
      Ends (.smbusReadTelemetry true) s (shown (record ++ halt)) ∧ Ends .smbusEpdRequest s refused
      ∧ ∀ w, Ends (.smbusSetLimit w) s refused)
    ∧ ∀ w : W32, Steady s.dev → Ends (.smbusSetLimit w) s
      (if pkgMinW s.dev ≤ w.toNat ∧ w.toNat ≤ pkgMaxW s.dev ∧ w.toNat % 10 = 0 then setReg s.dev (pgBase + 0xF00) w
       else setRegN s.dev (pgBase + 0x844) (min 0xFFFF (regN s.dev (pgBase + 0x844) + 1)))

/-- A wavelength below the threshold takes its input out once: the reading is shown, the input's events counted, its class D raised, and the
ports it feeds are no longer eligible; when every wavelength is 1 dB above the threshold again they are, those that waited for their laser
look for light, and the host lanes that inputs 4 and 5 feed can train (R21, R22, R24, R95). -/
def Sys2Proof.Claims.Lasers : Prop :=
  ∀ (i : Fin 16) (s : State), Steady s.dev →
    let a := pgOpt 12
    let limit := rfld s.dev (a + 0x800) 0 8
    (∀ (w : Fin 4) (p : Byte), p.toNat < limit → laserGood s.dev i.val = true → Calm s.dev a →
      (∀ n ∈ laserPorts i.val, linkState s.dev n ≤ 1) →
      Gives (.laserLow i w p) s (fun d => rfld d (a + 0x860 + 4 * i.val) (8 * w.val) 8 = p.toNat
        ∧ regN d (a + 0x8A0 + 4 * i.val) = min m32 (regN s.dev (a + 0x8A0 + 4 * i.val) + 1) ∧ laserGood d i.val = false
        ∧ Recorded s.dev d a 2 0x101 9 ∧ (∀ n, n < 50 → (getPort d n).eligible = if laserOf n = i.val then false else (getPort s.dev n).eligible)
        ∧ d.mem = s.dev.mem))
    ∧ ∀ powers : W32, (∀ k, k < 4 → limit + 10 ≤ fld powers.toNat (8 * k) 8) → s.dev.board.optics = true →
      Gives (.laserRestore i powers) s (fun d => reg d (a + 0x860 + 4 * i.val) = powers ∧ laserGood d i.val = true
        ∧ (∀ n, n < 50 → (getPort d n).eligible = if laserOf n = i.val then true else (getPort s.dev n).eligible)
        ∧ (∀ n, n < 50 → linkState d n = if laserOf n = i.val ∧ linkState s.dev n = 1 then 2 else linkState s.dev n)
        ∧ (∀ u, bvBit d.board.halves u = if (u = 0 ∧ i.val = 4) ∨ (u = 1 ∧ i.val = 5) then true else bvBit s.dev.board.halves u)
        ∧ d = { s.dev with regs := d.regs, ports := d.ports
                           board := { s.dev.board with laserOk := d.board.laserOk, halves := d.board.halves } })

/-! ## The host link (R93 to R115, R130) -/

namespace Sys2Proof.Machine

/-- The bytes from `a` on lie in the memory of one core that is up, nothing there is damaged, and no context runs code of it (R153, R285, R298). -/
abbrev OpenMemory (d : Dev) (a n : Nat) : Prop :=
  ∃ site k, site < 4 ∧ k < 128 ∧ MemoryUp d site k ∧ coreMemBase site k ≤ a ∧ a + n ≤ coreMemBase site k + coreMemSize
    ∧ WordsClean d a n ∧ coreActive d site k = false
/-- The device after a register write of a requester that has written nothing more than this register. -/
def wrote (d : Dev) (who : Requester) (addr : Nat) (v : W32) : Dev := setReg (dropHeld d who addr) addr v

end Sys2Proof.Machine

/-- The host link trains to a rate and a width that its halves allow, FLIT mode at 64.0 GT/s alone by log entry 21, the model's choice; half its
lanes lost leave it at ×4 on the other half with a class C; a retrain with both laser inputs good returns it to ×8; a link that falls reads 0
and raises LINK_DOWN, and so does one whose other half is lost too (R24, R93, R94, R95). -/
def Sys2Proof.Claims.HostLinkWidth : Prop :=
  ∀ s : State, Steady s.dev →
    (∀ rate width rev, 1 ≤ rate → rate ≤ 6 → (width = 8 ∧ s.dev.board.halves = 3) ∨ (width = 4 ∧ halfGood s.dev rev = true) →
      s.dev.board.perstN = true →
      Gives (.hostLinkTrained rate width rev) s (fun d =>
        OnlyMeters (· = linkStat) { s.dev with board := { s.dev.board with halves := s.dev.board.halves ||| (if width = 4 then 4 else 0) } } d
        ∧ rfld d linkStat 0 3 = rate
        ∧ rfld d linkStat 4 4 = width ∧ tbit (regN d linkStat) 8 = (rev && width == 4) ∧ tbit (regN d linkStat) 9 = (rate == 6)))
    ∧ (linkUp s.dev = true →
      (∀ upper, rfld s.dev linkStat 4 4 = 8 → halfGood s.dev (!upper) = true → Gives (.hostLinkDownHalf upper) s (fun d => rfld d linkStat 4 4 = 4
        ∧ tbit (regN d linkStat) 8 = !upper ∧ rfld d linkStat 0 3 = rfld s.dev linkStat 0 3 ∧ Recorded s.dev d pgHost 1 0x102 10
        ∧ halfGood d upper = false ∧ d.mem = s.dev.mem))
      ∧ (∀ upper, halfGood s.dev (!upper) = false → rfld s.dev linkStat 4 4 = 8 ∨ tbit (regN s.dev linkStat) 8 = upper → Calm s.dev pgHost →
        Gives (.hostLinkDownHalf upper) s (fun d => regN d linkStat = 0 ∧ Recorded s.dev d pgHost 2 0x101 9 ∧ d.mem = s.dev.mem))
      ∧ (laserGood s.dev 4 = true → laserGood s.dev 5 = true → Gives .hostLinkRetrain s (fun d =>
        OnlyMeters (· = linkStat) { s.dev with board := { s.dev.board with halves := 3 } } d ∧ rfld d linkStat 4 4 = 8
        ∧ tbit (regN d linkStat) 8 = false ∧ rfld d linkStat 0 3 = rfld s.dev linkStat 0 3))
      ∧ (Calm s.dev pgHost → Gives .hostLinkDown s (fun d => linkUp d = false ∧ regN d linkStat = 0
        ∧ Recorded s.dev d pgHost 2 0x101 9 ∧ d.mem = s.dev.mem)))

/-- PERST_N low resets configuration space, MSI-X, the rings and the run-time registers of the HDMA page, and discards responses not written, that of an END still
waiting too;
every other register and memory stay; released, the link may train (R75, R96, R105). -/
def Sys2Proof.Claims.PerstResetsTheLink : Prop :=
  ∀ s : State, Steady s.dev →
    (s.dev.board.perstN = true → (∀ ch, ch < 8 → (getHdma s.dev ch).cur = none) →
      Gives .perstNAssert s (fun d => d.board = { s.dev.board with perstN := false, halves := litHalves s.dev } ∧ d.cfg = [] ∧ d.msixTable = [] ∧ d.pba = [] ∧ d.resp = []
        ∧ (∀ ch, ch < 8 → getHdma d ch = { hdmaDefault 0 with fenced := (getHdma s.dev ch).fenced })
        ∧ (∀ a, reg d a =
            if a = linkStat ∨ (pgHost + 0xF00 ≤ a ∧ a ≤ pgHost + 0xF24) ∨ (pgHdma + 0xF00 ≤ a ∧ a ≤ pgHdma + 0xFFC) then regDefault a
            else reg s.dev a)
        ∧ d.mem = s.dev.mem ∧ d.ctxs = s.dev.ctxs ∧ d.job = { s.dev.job with endTag := none }))
    ∧ Ends .perstNDeassert s { s.dev with board := { s.dev.board with perstN := true } }

/-- A configuration request is answered with Request Retry Status before step 5 of the start-up; from then on a read gives the register,
with the identity that R97 states, and a write of the Command register changes its writable bits (R96, R97). -/
def Sys2Proof.Claims.ConfigurationSpace : Prop :=
  ∀ s : State, Steady s.dev → linkUp s.dev = true →
    (∀ r w, s.dev.board.bootStep < 5 → Ends (.configRequest r w) s { s.dev with out := s.dev.out ++ [.retryStatus] })
    ∧ (5 ≤ s.dev.board.bootStep →
      (∀ e ∈ ([(.vendorId, 0x1F2B), (.deviceId, 0xA412), (.classCode, 0x120000), (.revisionId, pkgLevel s.dev)] : List (CfgReg × Nat)),
        Ends (.configRequest e.1 none) s { s.dev with out := s.dev.out ++ [.cfgValue (BitVec.ofNat 32 e.2)] })
      ∧ ∀ v : W32, Gives (.configRequest .commandReg (some v)) s (fun d =>
        d = { s.dev with cfg := d.cfg } ∧ cfgReg d cfgCommand = v.toNat &&& 0x0546
        ∧ ∀ i, i ≠ cfgCommand → cfgReg d i = cfgReg s.dev i))

/-- A BAR2 access inside an entry of the mailbox table that permits it reads or writes device memory; one outside every entry is counted,
recorded as BAR2_MISS, and a read of it ends as an Unsupported Request; a read of an absent range ends as a Completer Abort (R98, R99, R101). -/
def Sys2Proof.Claims.Bar2Accesses : Prop :=
  ∀ s : State, Steady s.dev → barsOpen s.dev = true →
    let missed (d : Dev) : Prop := regN d (pgHost + 0xC0C) = min m32 (regN s.dev (pgHost + 0xC0C) + 1)
      ∧ Recorded s.dev d pgHost 2 0x100 8 ∧ d.mem = s.dev.mem
    (∀ (off : BitVec 34) (len r a : Nat), off.toNat < msixBase → mailboxAt s.dev off.toNat len = some (r, a) → mayRead s.dev r = true →
      presentRange s.dev a len = true → fillBlocked s.dev a len = false →
      ∀ bs p, memRead s.dev a len = (bs, p, s.dev) →
        Ends (.bar2Read off len) s { s.dev with out := s.dev.out ++ [if p then .poisonedTlp bs else .completion bs] })
    ∧ (∀ (off : BitVec 34) (len r a : Nat), off.toNat < msixBase → mailboxAt s.dev off.toNat len = some (r, a) → mayRead s.dev r = true →
      presentRange s.dev a len = false → fillBlocked s.dev a len = false →
      Gives (.bar2Read off len) s (fun d => d.out = s.dev.out ++ [.completerAbort] ∧ d.mem = s.dev.mem))
    ∧ (∀ (off : BitVec 34) (len : Nat), off.toNat < msixBase → mailboxAt s.dev off.toNat len = none →
      Gives (.bar2Read off len) s (fun d => missed d ∧ d.out = s.dev.out ++ [.unsupportedRequest]))
    ∧ (∀ (off : BitVec 34) (bs : List Byte) (r a : Nat), off.toNat < msixBase → mailboxAt s.dev off.toNat bs.length = some (r, a) →
      mayWrite s.dev r = true → OpenMemory s.dev a bs.length →
      Gives (.bar2Write off bs) s (fun d => StoresBytes s.dev d a bs ∧ d = withMemoryOf s.dev d))
    ∧ ∀ (off : BitVec 34) (bs : List Byte), off.toNat < msixBase → mailboxAt s.dev off.toNat bs.length = none →
      Gives (.bar2Write off bs) s (fun d => missed d ∧ d.out = s.dev.out)

/-- A rising line of a base page sends the manager's message and the page's vector, or sets the vector's PBA bit while the vector cannot be
sent; unmasking a vector sends its pending message and clears the bit (R112, R114). -/
def Sys2Proof.Claims.InterruptMessages : Prop :=
  ∀ s : State, Steady s.dev →
    (∀ (page : Bar0) l, pageAt page.toNat = some l → l.inBase = true → lineHigh s.dev (pageBase page.toNat) = true →
      sget noFlag s.dev.lines (pageBase page.toNat) = false →
      Gives (.irqLineRise page) s (fun d =>
        let sent := msixOpen s.dev (baseVector l)
        d.out = s.dev.out ++ [.mgrMessage (pageBase page.toNat)] ++ (if sent then [.msix (baseVector l)] else [])
        ∧ (∀ v, sget noFlag d.pba v = (sget noFlag s.dev.pba v || (!sent && v == baseVector l)))
        ∧ (∀ a, sget noFlag d.lines a = (sget noFlag s.dev.lines a || a == pageBase page.toNat))
        ∧ d = { s.dev with out := d.out, pba := d.pba, lines := d.lines }))
    ∧ ∀ v : Fin 1024, barsOpen s.dev = true → s.dev.pba = [(v.val, true)] → tbit (cfgReg s.dev cfgMsix) 15 = true →
      tbit (cfgReg s.dev cfgMsix) 14 = false → tbit (cfgReg s.dev cfgCommand) 2 = true →
      Gives (.msixUnmask v) s (fun d => d.out = s.dev.out ++ [.msix v.val] ∧ d.pba = []
        ∧ (∀ i, sget msixDefault d.msixTable i =
            if i = 4 * v.val + 3 then sget msixDefault s.dev.msixTable i &&& 0xFFFFFFFE else sget msixDefault s.dev.msixTable i)
        ∧ d = { s.dev with out := d.out, pba := d.pba, msixTable := d.msixTable })

/-- A TAIL is taken when it is below the ring's size, the host's consumed index as it is written; a size of at most 4096 is taken while both rings are idle and sets the ring's
indexes to 0 (R104, R105). -/
def Sys2Proof.Claims.RingRegisters : Prop :=
  ∀ (who : Requester) (val : W32) (s : State), Steady s.dev →
    let v := val.toNat
    let at' (off : Nat) := pgHost + off
    let dropped (off : Nat) := dropHeld s.dev who (at' off)
    (Reaches s.dev who (at' 0xF0C) →
      Ends (.cmdqTailWrite who val) s (if v < regN s.dev (at' 0xF08) then setRegN (dropped 0xF0C) (at' 0xF0C) v else dropped 0xF0C))
    ∧ (Reaches s.dev who (at' 0xF24) →
      Ends (.rspqHeadWrite who val) s (setRegN (dropped 0xF24) (at' 0xF24) v))
    ∧ (ringsBusy s.dev = false → v ≤ 4096 →
      (Reaches s.dev who (at' 0xF08) → Gives (.ringSizeWrite who false val) s (fun d =>
        d = { dropped 0xF08 with regs := d.regs } ∧ ∀ a, regN d a =
          if a = at' 0xF08 then v else if a = at' 0xF0C ∨ a = at' 0xF10 then 0 else regN s.dev a))
      ∧ (Reaches s.dev who (at' 0xF1C) → Gives (.ringSizeWrite who true val) s (fun d =>
        d = { dropped 0xF1C with regs := d.regs } ∧ ∀ a, regN d a =
          if a = at' 0xF1C then v else if a = at' 0xF20 ∨ a = at' 0xF24 then 0 else regN s.dev a)))

/-- A command with an opcode that no table lists gets BAD_OPCODE; the first response formed is written to its slot, after its buffer
at BUF_ADDR, the
indexes advance and vector 28 is sent (R104, R112). -/
def Sys2Proof.Claims.Responses : Prop :=
  ∀ s : State, Steady s.dev →
    (∀ (tag : W32) (opcode : BitVec 16), cmdReady s.dev = true → opcode.toNat ∉ opcodes →
      Ends (.badOpcode tag opcode) s { s.dev with resp := [⟨tag, 1, opcode, 0, 0, 0, []⟩] })
    ∧ ∀ (r : Response) (rest : List Response), s.dev.resp = r :: rest →
      let size := regN s.dev (pgHost + 0xF1C)
      let tail := regN s.dev (pgHost + 0xF20)
      let csize := regN s.dev (pgHost + 0xF08)
      let slot := BitVec.ofNat 64 (reg64 s.dev (pgHost + 0xF14) + 32 * tail)
      size ≠ 0 → (tail + 1) % size ≠ regN s.dev (pgHost + 0xF24) → csize ≠ 0 →
      Gives .commandResponse s (fun d =>
        d.out = s.dev.out ++ (if r.buf = [] then [] else [.hostWrite r.bufAddr r.buf]) ++ [.hostWrite slot (responseBytes r)]
          ++ (if msixOpen s.dev 28 then [.msix 28] else [])
        ∧ d.resp = rest ∧ (∀ a, regN d a = if a = pgHost + 0xF20 then (tail + 1) % size
            else if a = pgHost + 0xF10 then (regN s.dev a + 1) % csize else regN s.dev a)
        ∧ d = { s.dev with out := d.out, pba := d.pba, resp := d.resp, regs := d.regs })

/-- A write to JOB_DBn adds its value modulo 2^32; one of the job to JOB_NOTEn adds its value and sends vector 32 + n, and any other
requester's is discarded (R106). -/
def Sys2Proof.Claims.DoorbellsAndNotes : Prop :=
  ∀ (who : Requester) (n : Fin 16) (val : W32) (s : State), Steady s.dev →
    let db := pgHost + 0xF40 + 4 * n.val
    let note := pgHost + 0xF80 + 4 * n.val
    (Reaches s.dev who db → s.dev.fillWait = [] → Ends (.jobDbWrite who n val) s (wrote s.dev who db (reg s.dev db + val)))
    ∧ (Reaches s.dev who note → isJob who = true →
      Ends (.jobNoteWrite who n val) s (msixSend (wrote s.dev who note (reg s.dev note + val)) (32 + n.val)))
    ∧ (Reaches s.dev who note → isJob who = false → Ends (.jobNoteWrite who n val) s (dropHeld s.dev who note))

/-- A host DMA channel takes a tail below its size, and a size while its ring is empty; it starts the descriptor at its head, and the
descriptor's completion moves the bytes, writes the status entry, advances the head and sends the channel's vector where IRQ
is set (R107, R108, R109, R111). -/
def Obligations.HostDma : Prop :=
  ∀ (ch : Fin 8) (s : State), Steady s.dev →
    let r (off : Nat) := chReg ch.val off
    let h := getHdma s.dev ch.val
    let size := regN s.dev (r 0x08)
    let head := regN s.dev (r 0x18)
    (∀ (who : Requester) (val : W32),
      let v := val.toNat
      (Reaches s.dev who (r 0x14) → h.fenced = false →
        Ends (.hdmaTailWrite who ch val) s
          (if v < size then setRegN (dropHeld s.dev who (r 0x14)) (r 0x14) v else dropHeld s.dev who (r 0x14)))
      ∧ (Reaches s.dev who (r 0x08) → regN s.dev (r 0x18) = regN s.dev (r 0x14) → v ≤ 65536 →
        Gives (.hdmaCountWrite who ch val) s (fun d =>
          (∀ a, regN d a = if a = r 0x08 then v else if a = r 0x14 ∨ a = r 0x18 then 0 else regN s.dev a)
          ∧ getHdma d ch.val = { h with alive := 0 } ∧ d = { dropHeld s.dev who (r 0x08) with regs := d.regs, hdma := d.hdma })))
    ∧ (∀ x, h.cur = none → h.fenced = false → h.stopped = false → head ≠ regN s.dev (r 0x14) →
      rfld s.dev (pgHdma + 0x800 + 4 * ch.val) 0 4 ≠ 0 → linkUp s.dev = true → running s.dev pgHdma = true →
      Ends (.hdmaDescriptor ch x) s (putHdma s.dev ch.val { h with cur := some x }))
    ∧ ∀ x payload refetch, h.cur = some x → x.reserved = false → x.poly ≠ 3 → x.checked = false → 0 < x.bytes.toNat →
      oneDie x.ppa.toNat x.bytes.toNat = true → hdmaRegion s.dev x = true → fillBlocked s.dev x.ppa.toNat x.bytes.toNat = false → size ≠ 0 →
      let n := x.bytes.toNat
      let entry := Out.hostWrite (BitVec.ofNat 64 (reg64 s.dev (r 0x0C) + 16 * head)) (toBytes 4 (1 + 2 ^ 31) ++ toBytes 4 n ++ toBytes 8 0)
      let sent := if x.irq = true ∧ msixOpen s.dev (20 + ch.val) = true then [Out.msix (20 + ch.val)] else []
      let ended (d : Dev) : Prop := regN d (r 0x18) = (head + 1) % size ∧ getHdma d ch.val = { h with cur := none }
      (x.toHost = true → presentRange s.dev x.ppa.toNat n = true → ∀ bs, memRead s.dev x.ppa.toNat n = (bs, false, s.dev) →
        Gives (.hdmaDescComplete ch payload refetch true true) s (fun d =>
          ended d ∧ d.out = s.dev.out ++ [.hostWrite x.hostAddr bs, entry] ++ sent ∧ d.mem = s.dev.mem))
      ∧ (x.toHost = false → payload.length = n → OpenMemory s.dev x.ppa.toNat n →
        Gives (.hdmaDescComplete ch payload refetch true true) s (fun d =>
          ended d ∧ d.out = s.dev.out ++ [entry] ++ sent ∧ StoresBytes s.dev d x.ppa.toNat payload))

/-- A periodic re-measurement that finds the digests measured at start changes nothing; one that finds others halts the package (R130). -/
def Sys2Proof.Claims.Remeasurement : Prop :=
  ∀ (site : Site) (dieFw stub : Digest) (s : State), Steady s.dev → dieUp s.dev site.val = true →
    (dieFw = s.dev.sealU.dieDigest → stub = s.dev.sealU.stubDigest → Ends (.remeasure site dieFw stub) s s.dev)
    ∧ (dieFw ≠ s.dev.sealU.dieDigest ∨ stub ≠ s.dev.sealU.stubDigest → rfld s.dev (pgSeal + 0x800) 0 8 ≠ 0 →
      Gives (.remeasure site dieFw stub) s (fun d => HaltedBy s.dev d pgSeal 0x103))

/-! ## Host commands and the job (R12, R78, R102, R116, R117, R134, R139 to R148, R462, R493, R498) -/

namespace Sys2Proof.Machine

/-- The device with one more response waiting: a status and an opcode, without data. -/
def responded (d : Dev) (tag : W32) (status opcode : Nat) : Dev :=
  { d with resp := d.resp ++ [⟨tag, BitVec.ofNat 16 status, BitVec.ofNat 16 opcode, 0, 0, 0, []⟩] }
/-- The device with the response of a command that carries data for the buffer at `addr`. -/
def respondedWith (d : Dev) (tag : W32) (status opcode : Nat) (result : BitVec 160) (addr : W64) (buf : List Byte) : Dev :=
  { d with resp := d.resp ++ [⟨tag, BitVec.ofNat 16 status, BitVec.ofNat 16 opcode, BitVec.ofNat 32 buf.length, result, addr, buf⟩] }

end Sys2Proof.Machine

/-- A command of the ring in a job state that its row of the command table does not name gets BAD_STATE and changes nothing else (R116). -/
def Sys2Proof.Claims.BadState : Prop :=
  ∀ (tag : W32) (s : State), Steady s.dev → cmdReady s.dev = true →
    let refused (i : Instr) (opcode : Nat) (states : List Nat) : Prop :=
      jobState s.dev ∉ states → Ends i s (responded s.dev tag 2 opcode)
    (∀ img ok, refused (.loadImage tag img ok) 0x10 [0, 1]) ∧ (∀ l, refused (.seal tag l) 0x11 [1]) ∧ refused (.start tag) 0x12 [2]
    ∧ refused (.checkpoint tag) 0x13 [3] ∧ refused (.endJob tag) 0x14 [2, 3]
    ∧ (jobState s.dev = 0 → Ends (.abort tag) s (responded s.dev tag 2 0x15))
    ∧ refused (.twinCtlSolo tag) 0x40 [3] ∧ (∀ x, refused (.twinCtlResync tag x) 0x40 [3]) ∧ refused (.twinCtlRelease tag) 0x40 [3]

/-- IDENTIFY answers the levels, steppings and present units; ATTEST the report, signed with the Alias key, and its certificates, or
BUF_SHORT for a shorter buffer; READ_WEAR the newest records that fit; each in any state of the job (R116, R134, R498). -/
def Sys2Proof.Claims.ReadingCommands : Prop :=
  ∀ (tag bufLen : W32) (buf : W64) (s : State), Steady s.dev → cmdReady s.dev = true → jobState s.dev ≤ 4 →
    Ends (.identify tag) s (respondedWith s.dev tag 0 0x1 (Config.identifyResult (identity s.dev)) 0 [])
    ∧ (∀ nonce,
        let r := report s.dev (drawScalar s.dev).1 nonce
        Ends (.attest tag ⟨buf, bufLen⟩ nonce) s
          (if bufLen.toNat < r.length then responded s.dev tag 7 0x2
           else respondedWith { s.dev with free := s.dev.free + 1 } tag 0 0x2 0 buf r))
    ∧ ∀ (number : W64), Ends (.readWear tag ⟨buf, bufLen⟩ number) s
        (respondedWith s.dev tag 0 0x20 0 buf (takeRecords bufLen.toNat
          (s.dev.flash.ledger.reverse.filter (fun r => decide (number.toNat ≤ ofBytes ((r.drop 24).take 8))))))

/-- LOAD_IMAGE keeps the image and makes the job LOADED, and answers HOST_DMA where its buffer could not be read; SEAL, with
every released die re-measured as it was at start and every page of the image at its safe point, makes an image that passes every check and
installs SEALED, with its job key, package ID, level, topology and job ID; one that fails a check destroys the key and answers the status of
that check (R117, R130, R141, R142). -/
def Sys2Proof.Claims.LoadAndSeal : Prop :=
  ∀ (tag : W32) (s : State), Steady s.dev → cmdReady s.dev = true →
    (∀ img, jobState s.dev ≤ 1 →
      Gives (.loadImage tag img true) s (fun d => jobState d = 1 ∧ d.job = { s.dev.job with image := some img }
        ∧ d = { responded s.dev tag 0 0x10 with job := d.job, regs := d.regs } ∧ ∀ a, a ≠ jobStatReg → reg d a = reg s.dev a)
      ∧ Ends (.loadImage tag img false) s (responded s.dev tag 6 0x10))
    ∧ ∀ (img : List Byte) (l : List (Site × Digest × Digest)), jobState s.dev = 1 → s.dev.job.image = some img →
      s.dev.board.service = false → debugMode s.dev = false → s.dev.job.tableApplied = true →
      (∀ x : Site, dieUp s.dev x.val = true → ∃ m ∈ l, m.1 = x) →
      (∀ m ∈ l, dieUp s.dev m.1.val = true → m.2.1 = s.dev.sealU.dieDigest ∧ m.2.2 = s.dev.sealU.stubDigest) →
      (∀ st, sealCheck s.dev img = .error st →
        Gives (.seal tag l) s (fun d => jobState d = 1 ∧ d.job = { s.dev.job with key := none } ∧ tbit (regN d (pgSeal + 0x820)) 2 = false
          ∧ d = { responded s.dev tag st 0x11 with job := d.job, regs := d.regs }))
      ∧ ∀ key own x, sealCheck s.dev img = .ok (key, own, x) → (∀ p ∈ imgPairs x, pageIdle s.dev (pageBase p.1) = true) →
        pageIdle s.dev pgHost = true →
        let r := sealInstall s.dev (jbDigest img) x
        r.1 = true → r.2.board = s.dev.board →
        Gives (.seal tag l) s (fun d => jobState d = 2 ∧ d.job.key = some key ∧ d.job.packageId = own
          ∧ d.job.planeLevel = BitVec.ofNat 8 x.level ∧ d.job.topo = imgTopo x ∧ d.job.jobId = jbJobId img
          ∧ d.job.digest = jbDigest img ∧ d.job.seals = r.2.job.seals + 1 ∧ tbit (regN d (pgSeal + 0x820)) 2 = true
          ∧ d.resp = (responded r.2 tag 0 0x11).resp ∧ d.mem = r.2.mem)

/-- START of a sealed job makes it RUNNING: doorbells and notes are 0 and every context of a core in service is IDLE with its registers at 0
(R78, R106, R117, R150). -/
def Sys2Proof.Claims.JobStart : Prop :=
  ∀ (tag : W32) (s : State), Steady s.dev → cmdReady s.dev = true → jobState s.dev = 2 → s.dev.job.twinMode = false →
    Gives (.start tag) s (fun d => jobState d = 3 ∧ d.resp = (responded s.dev tag 0 0x12).resp
      ∧ (∀ n, n < 16 → regN d (pgHost + 0xF40 + 4 * n) = 0 ∧ regN d (pgHost + 0xF80 + 4 * n) = 0)
      ∧ (∀ site k n, site < 4 → k < 128 → n < 16 → dieUp s.dev site = true → coreFenced s.dev site k = false →
          getCtx d (ctxKey site k n) = ctxDefault 0)
      ∧ d.job = { s.dev.job with signalled := 0 } ∧ d.mem = s.dev.mem ∧ d.board = s.dev.board)

/-- The start signal reaches the dies in the order of their sites and arms their cores; an armed core's enabled contexts start at their
entries when its cluster begins to issue (R78, R152). -/
def Sys2Proof.Claims.StartSignals : Prop :=
  ∀ (site : Site) (s : State), Steady s.dev →
    (jobState s.dev = 3 → dieUp s.dev site.val = true → bvBit s.dev.job.signalled site.val = false →
      (∀ t, t < site.val → dieUp s.dev t = true → bvBit s.dev.job.signalled t = true) →
      Gives (.jobStartSignal site) s (fun d => d.out = s.dev.out ++ [.startSignal site.val]
        ∧ d.job = { s.dev.job with signalled := setBv s.dev.job.signalled site.val true }
        ∧ (∀ k, k < 128 → getCore d (coreKey site.val k) =
            { getCore s.dev (coreKey site.val k) with armed := (getCore s.dev (coreKey site.val k)).armed || !coreFenced s.dev site.val k })
        ∧ d = { s.dev with out := d.out, job := d.job, cores := d.cores }))
    ∧ ∀ c : Fin 16, (∀ k n, 8 * c.val ≤ k → k < 8 * c.val + 8 → n < 16 → (getCtx s.dev (ctxKey site.val k n)).d = []) →
      (∀ k, 8 * c.val ≤ k → k < 8 * c.val + 8 → running s.dev (pgCore site.val k) = true) →
      Gives (.clusterIssueStart site c) s (fun d => d = { s.dev with ctxs := d.ctxs, cores := d.cores }
        ∧ ∀ k, 8 * c.val ≤ k → k < 8 * c.val + 8 → (getCore d (coreKey site.val k)).armed = false ∧ ∀ n, n < 16 →
          let was := getCtx s.dev (ctxKey site.val k n)
          getCtx d (ctxKey site.val k n) =
            if (getCore s.dev (coreKey site.val k)).armed = true ∧ tbit (rfld s.dev (pgCore site.val k + 0x800) 0 16) n = true
                ∧ (was.cstate = .idle ∨ was.cstate = .halted ∨ was.cstate = .faulted) then
              { ctxDefault 0 with cstate := .running, pc := BitVec.ofNat 64 (rfld s.dev (pgCore site.val k + 0x840 + 4 * n) 0 15),
                                      packs := was.packs, uses := was.uses }
            else was)

/-- CHECKPOINT asks every die in service for its state; a die writes each segment as header, ciphertext and tag, here one segment from clean
memory; a segment of the checkpoint to restore whose tag verifies under the key of its header is decrypted and written, and any other is
counted (R116, R143, R144). -/
def Sys2Proof.Claims.Checkpoints : Prop :=
  ∀ s : State, Steady s.dev →
    (∀ tag, cmdReady s.dev = true → jobState s.dev = 3 →
      Ends (.checkpoint tag) s (responded { s.dev with job := { s.dev.job with ckptWanted := BitVec.ofNat 4 (upMask s.dev) } } tag 0 0x13))
    ∧ (∀ (site : Site) (number step : W64) (src dst : BitVec 40) (n : Nat) (key : Key), s.dev.job.key = some key → jobState s.dev = 3 →
      bvBit s.dev.job.ckptWanted site.val = true → dieUp s.dev site.val = true → ckptFits s.dev [(src, n, dst)] = true →
      let head := ckptHeader s.dev site.val number.toNat step.toNat 0 n
      let bs := head ++ gcmSeal (ckptKey key s.dev.job.jobId number.toNat (ckptWriter s.dev))
        (BitVec.ofNat 96 (ofBytes (ckptIv s.dev site.val 0))) head (memGet s.dev src.toNat n)
      OpenMemory s.dev src.toNat n → ReadsClean s.dev src.toNat n → OpenMemory s.dev dst.toNat bs.length →
      Gives (.checkpointWrite site number step [(src, n, dst)]) s (fun d => StoresBytes s.dev d dst.toNat bs
        ∧ d = withMemoryOf { s.dev with job := { s.dev.job with
            ckptWanted := setBv s.dev.job.ckptWanted site.val false, ckptKeyed := true } } d))
    ∧ ∀ (site : Site) (g : Segment) (key : Key), sealedJob s.dev = true → s.dev.job.key = some key → dieUp s.dev site.val = true →
      (∀ plain, segNumber g.bytes = s.dev.job.restoreNo.toNat → segOpen key s.dev.job.jobId g.bytes = some plain →
        OpenMemory s.dev g.ppa.toNat plain.length →
        Gives (.restoreSegment site g) s (fun d => StoresBytes s.dev d g.ppa.toNat plain
          ∧ d = withMemoryOf { s.dev with job := { s.dev.job with ckptKeyed := true } } d))
      ∧ (segNumber g.bytes ≠ s.dev.job.restoreNo.toNat ∨ segOpen key s.dev.job.jobId g.bytes = none →
        Ends (.restoreSegment site g) s (setRegN s.dev (pgSeal + 0x82C) (min m32 (regN s.dev (pgSeal + 0x82C) + 1))))

namespace Sys2Proof.Machine

/-- A job that has no docket and no twin left to end. -/
abbrev QuietJob (d : Dev) : Prop :=
  twinState d = 0 ∧ ∀ site, site < 4 → (getSorter d site).dockets = [] ∧ (getSorter d site).waiting = []
/-- What the end of a job leaves: no key, no job, measurements 6 and 7 at 0, no context running (R102, R117, R148). -/
def JobGone (d0 d : Dev) : Prop :=
  jobState d = 0 ∧ d.job.key = none ∧ d.job.image = none ∧ d.job.endTag = none ∧ meas d 6 = 0 ∧ meas d 7 = 0
  ∧ tbit (regN d (pgSeal + 0x820)) 2 = false ∧ d.mem = d0.mem
  ∧ ∀ site k n, site < 4 → k < 128 → n < 16 → dieUp d0 site = true →
      (getCtx d (ctxKey site k n)).cstate ≠ .running ∧ (getCtx d (ctxKey site k n)).cstate ≠ .waiting

end Sys2Proof.Machine

/-- END of a running job makes it ENDING and waits for the step boundary, at which it ends with its response; ABORT ends it at once, and END of
a sealed job too (R102, R116, R117). -/
def Sys2Proof.Claims.EndAndAbort : Prop :=
  ∀ (tag : W32) (s : State), Steady s.dev →
    (cmdReady s.dev = true → jobState s.dev = 3 →
      Gives (.endJob tag) s (fun d => jobState d = 4 ∧ d.job = { s.dev.job with endTag := some tag }
        ∧ d = { s.dev with job := d.job, regs := d.regs } ∧ ∀ a, a ≠ jobStatReg → reg d a = reg s.dev a))
    ∧ (QuietJob s.dev →
      (cmdReady s.dev = true → jobState s.dev = 2 →
        Gives (.endJob tag) s (fun d => JobGone s.dev d ∧ d.resp = (responded s.dev tag 0 0x14).resp))
      ∧ (s.dev.job.endTag = some tag → jobState s.dev = 4 →
        Gives .endStepBoundary s (fun d => JobGone s.dev d ∧ d.resp = (responded s.dev tag 0 0x14).resp))
      ∧ (cmdReady s.dev = true → jobState s.dev ≠ 0 →
        Gives (.abort tag) s (fun d => JobGone s.dev d ∧ d.resp = (responded s.dev tag 0 0x15).resp)))

/-- A proposed table that passes every check is pending, and applies at the next job boundary while a job is sealed; one whose buffer was not
read gets HOST_DMA, and one that fails a check its reason (R493, R494). -/
def Sys2Proof.Claims.Proposals : Prop :=
  ∀ (tag : W32) (bs : List Byte) (s : State), Steady s.dev → cmdReady s.dev = true → jobState s.dev ≤ 4 →
    let t := tableOf bs
    Ends (.proposeOptable tag bs false) s (responded s.dev tag 6 0x21)
    ∧ (tableReason s.dev t = 0 → 2 ≤ jobState s.dev →
      Ends (.proposeOptable tag bs true) s (responded { s.dev with board := { s.dev.board with pendTable := t } } tag 0 0x21))
    ∧ (tableReason s.dev t ≠ 0 →
      Gives (.proposeOptable tag bs true) s (fun d =>
        d.resp = (respondedWith s.dev tag 5 0x21 (BitVec.ofNat 160 (tableReason s.dev t)) 0 []).resp
        ∧ d = { s.dev with resp := d.resp, flash := d.flash } ∧ d.flash.volts = s.dev.flash.volts ∧ d.flash.freqs = s.dev.flash.freqs
        ∧ d.flash.nextRecord = s.dev.flash.nextRecord + 1))

/-- A debug token that verifies puts a package without a job into debug mode: the status bit, the features it grants, measurement 5 extended
and its epoch; one that does not verify gets AUTH_FAIL (R146, R147). -/
def Sys2Proof.Claims.DebugTokens : Prop :=
  ∀ (tag : W32) (t : List Byte) (s : State), Steady s.dev → cmdReady s.dev = true → jobState s.dev ≤ 4 →
    Ends (.debugToken tag t false) s (responded s.dev tag 6 0x30)
    ∧ (tokenOk s.dev t = false → Ends (.debugToken tag t true) s (responded s.dev tag 3 0x30))
    ∧ (tokenOk s.dev t = true → jobState s.dev = 0 → (∀ n, n < 50 → linkState s.dev n = 0 ∨ linkState s.dev n = 9) →
      s.dev.sealU.flashKey = some s.dev.flash.counterKey →
      Gives (.debugToken tag t true) s (fun d => debugMode d = true ∧ reg d (pgSeal + 0x830) = tokFeatures t ∧ d.sealU.debugBits = some (tokFeatures t)
        ∧ meas d 5 = sm3 (digestBytes (meas s.dev 5) ++ digestBytes (sm3 t)) ∧ (∀ m, m ≠ 5 → meas d m = meas s.dev m)
        ∧ (rollback d 5 = if rollback s.dev 5 < tokEpoch t then tokEpoch t else rollback s.dev 5)
        ∧ d.resp = (responded s.dev tag 0 0x30).resp ∧ d.mem = s.dev.mem))

/-- TWIN_CTL acts on a running twin-mode job in the states that R462 names, with the state and step after it in the response: SOLO from TWINNED,
HOLD or DIVERGED, RESYNC from SOLO at a later step, RELEASE from RESYNC_HOLD; in another state it gets BAD_STATE (R458, R462). -/
def Sys2Proof.Claims.TwinControl : Prop :=
  ∀ (tag : W32) (step : W64) (s : State), Steady s.dev → cmdReady s.dev = true → jobState s.dev = 3 →
    let st := twinState s.dev
    let last := lastStep s.dev
    let said (status st' : Nat) : Response := ⟨tag, BitVec.ofNat 16 status, 0x40, 0, BitVec.ofNat 160 (st' + last * 2 ^ 32), 0, []⟩
    let unchanged : Dev := { s.dev with resp := s.dev.resp ++ [said 2 st] }
    (st = 2 ∨ st = 3 ∨ st = 6 → Gives (.twinCtlSolo tag) s (fun d =>
      twinState d = 7 ∧ heldDies d = 0 ∧ d.resp = s.dev.resp ++ [said 0 7] ∧ d.twin.peerSeal = none
      ∧ Recorded s.dev d (twinPage s.dev) 2 0x109 17 ∧ d.mem = s.dev.mem))
    ∧ (¬ (st = 2 ∨ st = 3 ∨ st = 6) → Ends (.twinCtlSolo tag) s unchanged)
    ∧ (st = 7 → last < step.toNat → Gives (.twinCtlResync tag step) s (fun d =>
      twinState d = 8 ∧ d.twin = { s.dev.twin with resync := some step } ∧ d.resp = s.dev.resp ++ [said 0 8]
      ∧ d = { s.dev with resp := d.resp, twin := d.twin, regs := d.regs }))
    ∧ (¬ (st = 7 ∧ last < step.toNat) → Ends (.twinCtlResync tag step) s unchanged)
    ∧ (st = 9 → Gives (.twinCtlRelease tag) s (fun d => twinState d = 2 ∧ heldDies d = 0 ∧ d.resp = s.dev.resp ++ [said 0 2]
      ∧ d = { s.dev with resp := d.resp, regs := d.regs }))
    ∧ (st ≠ 9 → Ends (.twinCtlRelease tag) s unchanged)

/-! ## Register accesses, blocks and commits (R36 to R62, R67, R68, R471) -/

namespace Sys2Proof.Machine

/-- An offset of BAR0 that holds no page and no entry of the address book (R43, R63 to R65, R68). -/
abbrev NoPage (a : Nat) : Prop := pageAt a = none ∧ (a < 0x110000 ∨ 0x1C0000 ≤ a)
/-- The page's block starts, stops and resets by its CTRL register alone. -/
def plainBlock : List PageType := [.pmc, .irqr, .trace, .postmark, .opteng, .hbmc, .router]

end Sys2Proof.Machine

/-- An offset that holds no page reads as 0 in every register and discards writes; the TWIN page offset of sites 1 and 3 is such an offset
(R43). -/
def Obligations.AbsentPages : Prop :=
  (∀ (d : Dev) (a : Nat), NoPage a → readReg d a = 0)
  ∧ (∀ (who : Requester) (a : Bar0) (val : W32) (be : BitVec 4) (hi : Option W32) (s : State), Steady s.dev → NoPage a.toNat →
      Reaches s.dev who a.toNat →
      Ends (.regWrite who (a.zeroExtend 28) val be hi) s (if be = 0xF then dropHeld s.dev who a.toNat else s.dev))
  ∧ ∀ o, o < 0x1000 → NoPage (pgTwin 1 + o) ∧ NoPage (pgTwin 3 + o)

/-- A write without all four byte enables, or to a live copy or status register, is discarded; one to the shadow area of a page that accepts
COMMIT sets that register; a staged entry of the address book takes a word while no sealed job runs (R38, R40, R54, R68). -/
def Sys2Proof.Claims.RegisterWrites : Prop :=
  ∀ (who : Requester) (a : Bar0) (val : W32) (be : BitVec 4) (s : State), Steady s.dev → Reaches s.dev who a.toNat → s.dev.hiHeld = [] →
    let off := a.toNat % 0x1000
    let kept := dropHeld s.dev who a.toNat
    (be ≠ 0xF → ∀ hi, Ends (.regWrite who (a.zeroExtend 28) val be hi) s s.dev)
    ∧ (∀ l, pageAt a.toNat = some l → 0x800 ≤ off → off < 0xF00 → Ends (.regWrite who (a.zeroExtend 28) val 0xF none) s kept)
    ∧ (∀ l, pageAt a.toNat = some l → 0x100 ≤ off → off < 0x800 →
      Ends (.regWrite who (a.zeroExtend 28) val 0xF none) s (if (capBits l).2.1 then setReg kept (regHome a.toNat) val else kept))
    ∧ (pageAt a.toNat = none → sealedJob s.dev = false → 0x140000 ≤ a.toNat → a.toNat < 0x180000 →
      Ends (.regWrite who (a.zeroExtend 28) val 0xF none) s
        { kept with book := { s.dev.book with stagedM := sput zero32 s.dev.book.stagedM ((a.toNat - 0x140000) / 4) val } })

/-- A read of a _LO register latches its _HI half for the requester's next read of it; a run-time _HI write waits for its _LO, which then
writes both halves, here a ring base (R41, R105). -/
def Sys2Proof.Claims.PairsOfRegisters : Prop :=
  ∀ (who : Requester) (s : State), Steady s.dev →
    (∀ (a : Bar0) l, pageAt a.toNat = some l → isLo l (a.toNat % 0x1000) = true → a.toNat % 4 = 0 → (who = .host → barsOpen s.dev = true) →
      Gives (.loReadLatch who (a.zeroExtend 28)) s (fun d => d = { s.dev with loLatch := d.loLatch }
        ∧ readAs d who (a.toNat + 4) = (BitVec.ofNat 32 (readReg s.dev (a.toNat + 4))).toNat
        ∧ readAs d who a.toNat = readReg s.dev a.toNat
        ∧ ∀ w b, (w, b) ≠ (who, a.toNat + 4) → (w, b) ≠ (who, a.toNat) → readAs d w b = readAs s.dev w b))
    ∧ (∀ (a : Bar0) l val, pageAt a.toNat = some l → isHi l (a.toNat % 0x1000) = true → 0xF00 ≤ a.toNat % 0x1000 → l.typ ≠ .d2d →
      Reaches s.dev who a.toNat → Gives (.hiWriteHold who (a.zeroExtend 28) val) s (fun d => d = { s.dev with hiHeld := d.hiHeld } ∧ assocGet d.hiHeld who a.toNat = some val))
    ∧ (∀ (lo hi : W32), Reaches s.dev who (pgHost + 0xF14) →
      Ends (.regWrite who (BitVec.ofNat 28 (pgHost + 0xF14)) lo 0xF (some hi)) s (dropHeld s.dev who (pgHost + 0xF14)))
    ∧ ∀ (lo hi : W32), Reaches s.dev who (pgHost + 0xF00) → ringsBusy s.dev = false → assocGet s.dev.hiHeld who (pgHost + 0xF04) = some hi →
      Gives (.regWrite who (BitVec.ofNat 28 (pgHost + 0xF00)) lo 0xF none) s (fun d =>
        reg d (pgHost + 0xF04) = hi ∧ regN d (pgHost + 0xF00) = lo.toNat / 4096 * 4096
        ∧ assocGet d.hiHeld who (pgHost + 0xF04) = none
        ∧ (∀ a, a ≠ pgHost + 0xF00 → a ≠ pgHost + 0xF04 → reg d a = reg s.dev a) ∧ d = { s.dev with regs := d.regs, hiHeld := d.hiHeld })

/-- ENABLE set starts a block that is OFF, which is RUNNING when its start is done; ENABLE cleared drains a RUNNING block, which is OFF when its
drain is done (R47, R48). -/
def Sys2Proof.Claims.BlockStates : Prop :=
  ∀ (page : Bar0) (l : PageLoc) (s : State), Steady s.dev → pageAt page.toNat = some l → l.inBase = false → l.typ ∈ plainBlock →
    let a := pageBase page.toNat
    pageCtrl s.dev a < 8 →
    let moved (d0 d : Dev) : Prop := OnlyMeters (fun b => b = a + oState ∨ b = a + oCtrl ∨ Meter a b) d0 d
    (∀ who, Reaches s.dev who (a + oCtrl) →
      (ownState s.dev a = stOff → (l.typ = .hbmc → ∀ j, j < 12 → ownState s.dev (pgHbmc (j / 3) (j % 3)) ≠ stStarting) →
        Gives (.ctrlEnableSet who page) s (fun d =>
        ownState d a = stStarting ∧ pageCtrl d a = setBit (pageCtrl s.dev a) 0 true ∧ moved (dropHeld s.dev who (a + oCtrl)) d))
      ∧ (ownState s.dev a = stRunning → Gives (.ctrlEnableClear who page) s (fun d =>
        ownState d a = stDraining ∧ pageCtrl d a = setBit (pageCtrl s.dev a) 0 false ∧ moved (dropHeld s.dev who (a + oCtrl)) d)))
    ∧ (ownState s.dev a = stStarting → dieUp s.dev l.site = true → l.typ ≠ .hbmc → tbit (pageCtrl s.dev a) 0 = true →
      Gives (.startDone page true) s (fun d => ownState d a = stRunning ∧ moved s.dev d))
    ∧ (ownState s.dev a = stDraining → fenceReqd s.dev a = false → commitPending s.dev a = false → tbit (pageCtrl s.dev a) 0 = false →
      Gives (.drainDone page) s (fun d => ownState d a = stOff ∧ moved s.dev d))

/-- A soft reset ends the page's work, discards its pending commit and returns every register of the page to its reset value; the block is OFF
with ENABLE 0, and no other page changes (R49, R58). -/
def Sys2Proof.Claims.SoftReset : Prop :=
  ∀ (who : Requester) (page : Bar0) (l : PageLoc) (s : State), Steady s.dev → pageAt page.toNat = some l → l.typ ∈ plainBlock →
    let a := pageBase page.toNat
    Reaches s.dev who (a + oCtrl) → ownState s.dev a ≠ stFenced → ownState s.dev a ≠ stDraining →
    Gives (.softReset who page false false) s (fun d => ownState d a = stOff ∧ pageCtrl d a = 0 ∧ commitPending d a = false
      ∧ (∀ b, a ≤ b → b < a + 0x1000 → b ≠ a + oState → b ≠ a + oCtrl → reg d b = regDefault b)
      ∧ (∀ b, b < a ∨ a + 0x1000 ≤ b → reg d b = reg s.dev b)
      ∧ d = { s.dev with regs := d.regs, commits := d.commits, hiHeld := d.hiHeld, loLatch := d.loLatch, esc := d.esc, recent := d.recent
                         scrubFull := d.scrubFull, board := { s.dev.board with trainWait := d.board.trainWait } })

/-- A write of 1 to a bit of ERR_STAT clears it, and one that leaves no error of class D or higher clears the first error; INJECT takes a count
and point of the page's injection points (R50, R53). -/
def Obligations.ErrorAndInjectionRegisters : Prop :=
  ∀ (who : Requester) (page : Bar0) (l : PageLoc) (s : State), Steady s.dev → pageAt page.toNat = some l →
    let a := pageBase page.toNat
    (∀ mask, Reaches s.dev who (a + oErrStat) → Gives (.errStatClear who page mask) s (fun d =>
      let e := reg s.dev (a + oErrStat) &&& ~~~ mask
      let first (o : Nat) : Prop := reg d (a + o) = if fld e.toNat 1 3 = 0 then 0 else reg s.dev (a + o)
      reg d (a + oErrStat) = e ∧ first oErrFirst ∧ first oInfo0 ∧ first oInfo1
      ∧ d = { dropHeld s.dev who (a + oErrStat) with regs := d.regs, lines := d.lines, out := d.out, pba := d.pba }))
    ∧ ∀ val : W32, Reaches s.dev who (a + oInject) → (capBits l).1 = true → fld val.toNat 17 3 ≤ topPoint l.typ →
      Ends (.injectArm who page val) s (setRegN (dropHeld s.dev who (a + oInject)) (a + oInject) (val.toNat % 2 ^ 20))

/-- The commit key copies the shadow area and sets PENDING where every check passes; another value, or a request while one is pending, is
discarded; at the safe point the live copy takes the pending values, GENERATION counts it and STATUS is 1 (R55 to R58, R61). -/
def Obligations.Commits : Prop :=
  ∀ (page : Bar0) (l : PageLoc) (s : State), Steady s.dev → pageAt page.toNat = some l → l.typ ∈ [.router, .pmc, .irqr, .postmark] →
    let a := pageBase page.toNat
    (∀ who (key : W32), Reaches s.dev who (a + oCommit) →
      let kept := dropHeld s.dev who (a + oCommit)
      let p : PendingCommit := ⟨who, shadowCopy s.dev a, 0⟩
      let stat := setFld (setBit (regN s.dev (a + oCommitStat)) 3 true) 4 12 0
      let asked := setRegN { kept with commits := sput noCommit s.dev.commits a (some p) } (a + oCommitStat) stat
      (key ≠ 0x5EA1 ∨ commitPending s.dev a = true → Ends (.commit who page key) s kept)
      ∧ (commitPending s.dev a = false → (capBits l).2.1 = true → (pageChecks asked l (pendVal asked l p a)).all (fun c => !c.1) = true →
        reservedSet asked l p a = [] → envelopeBad asked l (pendVal asked l p a) = [] → commitForbidden asked l a p = false →
        ownState s.dev a ≠ stOff → Ends (.commit who page 0x5EA1) s asked)
      ∧ (commitPending s.dev a = false → (capBits l).2.1 = true → reservedSet asked l p a ≠ [] →
        Gives (.commit who page 0x5EA1) s (fun d => commitPending d a = false ∧ rfld d (a + oCommitStat) 0 4 = 2
          ∧ rfld d (a + oCommitStat) 16 16 = rfld s.dev (a + oCommitStat) 16 16)))
    ∧ ∀ p, sget noCommit s.dev.commits a = some p → ownState s.dev a ≠ stDraining → atSafePoint s.dev l = true →
      commitForbidden s.dev l a p = false →
      Gives (.commitSafePoint page) s (fun d => commitPending d a = false ∧ rfld d (a + oCommitStat) 0 4 = 1
        ∧ rfld d (a + oCommitStat) 16 16 = (rfld s.dev (a + oCommitStat) 16 16 + 1) % 65536
        ∧ (∀ x ∈ shadowPairs l.typ, absentReg l x.1 = false → regN d (a + x.2) = pendVal s.dev l p a x.1)
        ∧ d = { s.dev with regs := d.regs, commits := d.commits, trace := d.trace, lines := d.lines, cores := d.cores })

/-- The loopback test of a die ends: its error count, DONE, and FAIL with the first failing unit and lane where there were errors (R36). -/
def Sys2Proof.Claims.LoopbackEnds : Prop :=
  ∀ (site : Site) (errs : W32) (unit lane : Byte) (s : State), Steady s.dev → tbit (regN s.dev (pgDie site.val + 0x820)) 0 = true →
    Gives (.loopbackDone site errs unit lane) s (fun d => reg d (pgDie site.val + 0x824) = errs
      ∧ regN d (pgDie site.val + 0x820) = (if errs = 0 then 2 else 6 + 256 * unit.toNat + 65536 * lane.toNat)
      ∧ OnlyMeters (fun b => b = pgDie site.val + 0x820 ∨ b = pgDie site.val + 0x824) s.dev d)

/-! ## Power, filler, droop and temperature (R79 to R87) -/

/-- An array whose filler window ends ramps down, and is at rest when that ends; one that has ramped up is active. Every 10 µs a PMC shows its
die's power and moves the duty by one against the budget; a duty below 16 ramps the die's filler down (R79 to R81, R85). -/
def Sys2Proof.Claims.FillerAndDuty : Prop :=
  ∀ s : State, Steady s.dev →
    (∀ (core : CoreRef) (array : Fin 4),
      let co := coreAt s core
      let moved (x : Filler) (d : Dev) : Prop := OnlyMeters (Meter (pgCore core.site.val core.core.val))
        (putCore s.dev (keyOf core) { co with filler := sput (fun _ => Filler.rest) co.filler array.val x }) d
      (fillerOf co array.val = .filler → Gives (.fillerWindowExpire core array) s (moved .rampDown))
      ∧ (fillerOf co array.val = .rampDown → Gives (.fillerRampEnd core array) s (moved .rest))
      ∧ (fillerOf co array.val = .rampUp → co.cur = none → co.queue ≠ [] → Gives (.fillerRampUpDone core array) s (moved .active)))
    ∧ ∀ (site : Site) (power : BitVec 16),
      let a := pgPmc site.val
      let budget := 4 * rfld s.dev (a + 0xF00) 0 10
      let old := rfld s.dev (a + 0x824) 0 5
      let duty := if budget < power.toNat then max 1 (old - 1)
        else if 100 * power.toNat ≤ 98 * budget then min 16 (old + 1) else old
      dieUp s.dev site.val = true → ownState s.dev a = stRunning → commitPending s.dev a = false →
      Gives (.pmcPeriod site power) s (fun d => regN d (a + 0x820) = power.toNat ∧ regN d (a + 0x824) = duty
        ∧ OnlyMeters (fun b => b = a + 0x820 ∨ b = a + 0x824 ∨ Meter a b ∨ ∃ k, k < 128 ∧ Meter (pgCore site.val k) b)
            { s.dev with cores := d.cores, board := { s.dev.board with powerSum := d.board.powerSum, powerNum := d.board.powerNum } } d
        ∧ (∀ x, sget zeroNat d.board.powerSum x = sget zeroNat s.dev.board.powerSum x + (if x = site.val then power.toNat else 0)
          ∧ sget zeroNat d.board.powerNum x = sget zeroNat s.dev.board.powerNum x + (if x = site.val then 1 else 0))
        ∧ ∀ k array, k < 128 → array < 4 → fillerOf (getCore d (coreKey site.val k)) array =
            (let x := fillerOf (getCore s.dev (coreKey site.val k)) array
             if duty < 16 ∧ x = .filler then .rampDown else x))

/-- Every 1 ms the manager divides what the package limit leaves, after what is not spent by dies on average over the period, among the dies
in service: each gets the least of its target and its share, rounded down, less the thermal cut that a hot die raises by 10 W, down to no
budget at all, and any other lowers. A write of PKG_LIMIT by the board or the firmware takes a value of the envelope in steps of 10 W; another
is counted, and one of any other requester discarded and by log entry 56, the model's choice, not counted (R83, R84, R87). -/
def Sys2Proof.Claims.BudgetsAndLimits : Prop :=
  ∀ s : State, Steady s.dev →
    (∀ power : BitVec 16,
      let up := (List.range 4).filter (dieUp s.dev)
      let mean (x : Nat) : Rat := ((powerMean s.dev x).1 : Rat) / ((powerMean s.dev x).2 : Rat)
      let left : Rat := 4 * (rfld s.dev (pgBase + 0xF00) 0 12 : Rat) - ((power.toNat : Rat) - (up.map mean).sum)
      let share : Int := (left / (4 * (up.length : Rat))).floor
      let target (x : Nat) : Nat := min (rfld s.dev (pgPmc x + 0x804) 0 10) share.toNat
      let cut (x : Nat) : Nat :=
        let c := min (target x) (sget zeroNat s.dev.board.therm (cutKey x))
        if dieHot s.dev x then min (target x) (c + 10) else c - 10
      Gives (.budgetPeriod power) s (fun d => regN d (pgBase + 0x840) = power.toNat
        ∧ (∀ x ∈ up, rfld d (pgPmc x + 0xF00) 0 10 = target x - cut x ∧ sget zeroNat d.board.therm (cutKey x) = cut x
          ∧ sget zeroNat d.board.therm (lowerKey x) = (dieHot s.dev x).toNat)
        ∧ (∀ b, b ≠ pgBase + 0x840 → (∀ x ∈ up, b ≠ pgPmc x + 0xF00) → reg d b = reg s.dev b)
        ∧ (∀ k, (∀ x ∈ up, k ≠ cutKey x ∧ k ≠ lowerKey x) → reading d k = reading s.dev k)
        ∧ d = { s.dev with regs := d.regs, board := { s.dev.board with therm := d.board.therm, powerSum := [], powerNum := [] } }))
    ∧ ∀ (who : Requester) (watts : W32), Reaches s.dev who (pgBase + 0xF00) →
      let kept := dropHeld s.dev who (pgBase + 0xF00)
      let w := watts.toNat % 4096
      Ends (.pkgLimitWrite who watts) s
        (if who ≠ .board ∧ isFirmware who = false then kept
         else if pkgMinW s.dev ≤ w ∧ w ≤ pkgMaxW s.dev ∧ w % 10 = 0 then setRegN kept (pgBase + 0xF00) w
         else setRegN kept (pgBase + 0x844) (min 0xFFFF (regN kept (pgBase + 0x844) + 1)))

/-- A cluster supply below the threshold halves that cluster's clock and is counted; full frequency returns after it; one that lasts is a
class C of the PMC page. A sensor reading is shown and kept with the hottest; from the alert point on it drives ALERT_N low
and is named, and from the trip point on it drives THERM_TRIP_N low and halts the package (R86, R87). -/
def Obligations.DroopAndTemperature : Prop :=
  ∀ s : State, Steady s.dev →
    (∀ (site : Site) (c : Fin 16),
      (clusterLive s.dev site.val c.val = true → clockHalved s.dev site.val c.val = false →
        Ends (.droopDetect site c) s (setHalved (incSat s.dev (pgPmc site.val + 0x82C)) site.val c.val true))
      ∧ (clockHalved s.dev site.val c.val = true → Ends (.droopRecover site c) s (setHalved s.dev site.val c.val false))
      ∧ (clockHalved s.dev site.val c.val = true → clusterLive s.dev site.val c.val = true → Calm s.dev (pgPmc site.val) →
        Gives (.droopLong site c) s (fun d => Recorded s.dev d (pgPmc site.val) 1 0x100 8
          ∧ regN d (pgPmc site.val + oCcount) = min m32 (regN s.dev (pgPmc site.val + oCcount) + 1)
          ∧ d.mem = s.dev.mem ∧ d.board = s.dev.board ∧ d.ctxs = s.dev.ctxs)))
    ∧ ∀ (sensor : Sensor) (r : BitVec 12),
      let k := sensorKey sensor
      let kept (d : Dev) : Prop := reading d k = r.toNat ∧ reading d (hottestKey k) = max r.toNat (reading s.dev (hottestKey k))
        ∧ (∀ x, x ≠ k → x ≠ hottestKey k → reading d x = reading s.dev x)
        ∧ ∀ x y, sensor = .cluster x y →
          regN d (pgPmc x.val + 0x828) = reading d (16 * x.val + hottestCluster d x.val) % 4096 + 65536 * hottestCluster d x.val
      (r.toNat < alertLimit s.dev sensor → Gives (.thermSample sensor r) s (fun d => kept d
        ∧ (∀ b, (∀ x : Site, b ≠ pgPmc x.val + 0x828) → reg d b = reg s.dev b)
        ∧ d = { s.dev with regs := d.regs, board := { s.dev.board with therm := d.board.therm } }))
      ∧ (alertLimit s.dev sensor ≤ r.toNat → r.toNat < 16 * 105 → Gives (.thermSample sensor r) s (fun d => kept d
        ∧ d.board.alertN = false ∧ rfld d (pgBase + 0x848) 8 1 = 1
        ∧ (rfld s.dev (pgBase + 0x848) 8 1 = 0 → rfld d (pgBase + 0x848) 0 8 = (Config.sensorCode sensor).toNat)
        ∧ (∀ b, b ≠ pgBase + 0x848 → (∀ x : Site, b ≠ pgPmc x.val + 0x828) → reg d b = reg s.dev b)
        ∧ d = { s.dev with regs := d.regs, board := { s.dev.board with therm := d.board.therm, alertN := false } }))
      ∧ (16 * 105 ≤ r.toNat → s.dev.commits = [] → Gives (.thermSample sensor r) s (fun d => kept d ∧ d.board.thermTrip = true
        ∧ rfld d (pgBase + 0x848) 8 2 = 3 ∧ HaltedBy s.dev d pgBase 0x101))

/-! ## Memory by name: protection, scrubbing, poison fill (R153, R285, R286, R294, R296 to R303, R470) -/

namespace Sys2Proof.Machine

/-- No error is injected into the next unit that passes this page (R53). -/
abbrev NotArmed (d : Dev) (page : Nat) : Prop := rfld d (page + oInject) 0 16 = 0
/-- The 8-byte word at an address lies in core memory or a cluster store whose page raises these codes for a corrected and an uncorrectable
error (R285, R298, R469). -/
abbrev SramOf (d : Dev) (ppa page ce ue : Nat) : Prop :=
  sramPage (locate d ppa) = (page, ce, ue) ∧ sramPage (locate d (32 * (ppa / 32))) = (page, ce, ue)
  ∧ isMem (locate d ppa) = true ∧ isMem (locate d (32 * (ppa / 32))) = true ∧ page ≠ 0
/-- What a device has sent out on top of what another had. -/
def Sent (d d' : Dev) (l : List Out) : Prop := d'.out = d.out ++ l
/-- The number of symbols of HBM word g that are in error, and of its 16 tag bits that read 1. -/
def symbolsWrong (d : Dev) (g : Nat) : Nat := errCount (sget noErr d.hbmErr g)
def tagOnes (d : Dev) (g : Nat) : Nat := popc ((if poisonedG d g then 0xFFFF else 0) ^^^ (sget noTag d.hbmTag g).toNat) 16
/-- The agent may reach the range, and no poison fill holds the access up (R99, R109, R303). -/
abbrev MayReach (d : Dev) (who : MemAgent) (a n : Nat) (write : Bool) : Prop :=
  agentMay d who a n write = true ∧ fillBlocked d a n = false
/-- The core of a postmaster takes what is read. -/
def OnPostmaster (who : MemAgent) : Prop := ∃ x p, who = .postmaster x p
/-- Data marked poisoned arrive at an agent: memory is as it was, and a postmaster core raises PM_POISON on its DIE page (R300). -/
def PoisonArrives (d d' : Dev) (who : MemAgent) (bs : List Byte) : Prop :=
  Sent d d' [.memData bs true] ∧ SameMemory d d' ∧ d'.board = d.board ∧ d'.ctxs = d.ctxs
  ∧ ∀ x p, who = .postmaster x p → Recorded d d' (pgDie x.val) 2 0x104 12

end Sys2Proof.Machine

/-- A read of a good HBM word returns its bytes, of a poisoned one marks them; one wrong symbol is corrected and stored back, a class C that
shows the address; two are class D, counted, and leave the word poisoned; an absent word reads as poisoned zeros. An agent that may
not reach the word changes nothing, and a read of a die that awaits or runs a poison fill waits (R286, R296, R297, R300, R303). -/
def Sys2Proof.Claims.HbmReads : Prop :=
  ∀ (who : MemAgent) (ppa : BitVec 40) (noise : Disturb) (s : State) (i k a : Nat), Steady s.dev →
    let g := ppa.toNat / 32
    let page := pgHbmc i k
    let d0 := disturb s.dev g noise
    let bytes := memGet s.dev (32 * g) 32
    let cmd := Instr.hbmRead ⟨who, ppa⟩ noise
    (agentMay s.dev who (32 * g) 32 false = false → Ends cmd s s.dev)
    ∧ (agentMay s.dev who (32 * g) 32 false = true → fillBlocked s.dev (32 * g) 32 = true →
      Ends cmd s { s.dev with fillWait := s.dev.fillWait ++ [.read who ppa.toNat noise] })
    ∧ (MayReach s.dev who (32 * g) 32 false → locate s.dev (32 * g) = .absent →
      (¬ OnPostmaster who → Ends cmd s (emit s.dev (.memData (List.replicate 32 0) true)))
      ∧ Gives cmd s (fun d => PoisonArrives s.dev d who (List.replicate 32 0)))
    ∧ (MayReach s.dev who (32 * g) 32 false → locate s.dev (32 * g) = .hbm i k a → i < 4 → k < 3 → NotArmed s.dev page →
      (9 ≤ tagOnes d0 g →
        (¬ OnPostmaster who → Gives cmd s (OnlyMeters (Meter page) (emit d0 (.memData bytes true))))
        ∧ Gives cmd s (fun d => PoisonArrives s.dev d who bytes))
      ∧ (symbolsWrong d0 g = 0 → sget noTag d0.hbmTag g = 0 → poisonedG s.dev g = false →
        Gives cmd s (OnlyMeters (Meter page) (emit d0 (.memData bytes false))))
      ∧ (symbolsWrong d0 g = 0 → tagOnes d0 g = 0 → Gives cmd s (fun d => Sent s.dev d [.memData bytes false] ∧ SameMemory s.dev d))
      ∧ (tagOnes d0 g < 9 → Calm s.dev page → bvBit s.dev.filling i = false →
        (symbolsWrong d0 g = 1 ∨ (symbolsWrong d0 g = 0 ∧ sget noTag d0.hbmTag g ≠ 0 ∧ tagOnes d0 g ≠ 0) → Gives cmd s (fun d =>
          Sent s.dev d [.memData bytes false]
          ∧ SameMemory s.dev d ∧ sget noErr d.hbmErr g = [] ∧ sget noTag d.hbmTag g = 0 ∧ poisonedG d g = false
          ∧ Recorded s.dev d page 1 0x100 0 ∧ regN d (page + oCcount) = min m32 (regN s.dev (page + oCcount) + 1)
          ∧ regN d (page + 0x82C) = 32 * g % 2 ^ 32 ∧ regN d (page + 0x830) = 32 * g / 2 ^ 32 % 256
          ∧ d.board = s.dev.board ∧ d.ctxs = s.dev.ctxs))
        ∧ (symbolsWrong d0 g = 2 → Gives cmd s (fun d => PoisonArrives s.dev d who bytes
          ∧ poisonedG d g = true ∧ Recorded s.dev d page 2 0x101 1
          ∧ regN d (page + 0x824) = min m32 (regN s.dev (page + 0x824) + 1)))))

/-- A write within one HBM word leaves those bytes in it, no error, and the word poisoned if the data is or a part of a poisoned word
is kept; every other byte is as it was. A write to an absent address is discarded with one class D on the page of
the die that would hold it, or of the writer (R286, R299). -/
def Sys2Proof.Claims.HbmWrites : Prop :=
  ∀ (who : MemAgent) (ppa : BitVec 40) (bs : List Byte) (poison : Bool) (s : State), Steady s.dev → bs ≠ [] →
    ppa.toNat % 32 + bs.length ≤ 32 → MayReach s.dev who ppa.toNat bs.length true →
    let g := ppa.toNat / 32
    (∀ i k a b, locate s.dev ppa.toNat = .hbm i k a → locate s.dev (32 * g) = .hbm i k b → i < 4 → k < 3 →
      (bs.length = 32 ∨ (symbolsWrong s.dev g = 0 ∧ sget noTag s.dev.hbmTag g = 0)) → NotArmed s.dev (pgHbmc i k) →
      Gives (.hbmWrite who ppa bs poison) s (fun d => StoresBytes s.dev d ppa.toNat bs
        ∧ poisonedG d g = (poison || (bs.length ≠ 32 && poisonedG s.dev g)) ∧ sget noErr d.hbmErr g = [] ∧ sget noTag d.hbmTag g = 0
        ∧ (∀ h, h ≠ g → poisonedG d h = poisonedG s.dev h)
        ∧ OnlyMeters (Meter (pgHbmc i k))
            { s.dev with mem := d.mem, poison := d.poison, hbmErr := d.hbmErr, hbmTag := d.hbmTag } d))
    ∧ (locate s.dev ppa.toNat = .absent → locate s.dev (32 * g) = .absent → codeHitRange s.dev ppa.toNat bs.length = none →
      ∀ flips, ∀ i ∈ [Instr.hbmWrite who ppa bs poison, .sramAccess who ppa (some bs) poison flips],
      Gives i s (fun d => SameMemory s.dev d ∧ d.ctxs = s.dev.ctxs ∧ d.board = s.dev.board
        ∧ (∀ x, ownerDie ppa.toNat = some x → dieUp s.dev x = true → Recorded s.dev d (pgDie x) 2 0x103 11)
        ∧ ((∀ x, ownerDie ppa.toNat = some x → dieUp s.dev x = false) →
          Recorded s.dev d (match who with | .die x | .postmaster x _ => pgDie x.val | _ => pgMgr) 2 0x103 11)))

/-- An 8-byte word of core memory or a cluster store: a good one is returned, one wrong bit is corrected as class C, two are class D and
poison the granule. A write within one granule stores its bytes, or, in a core's live code range, is discarded
with class D on that core's page (R153, R286, R298). -/
def Obligations.SramAccesses : Prop :=
  ∀ (who : MemAgent) (ppa : BitVec 40) (poison : Bool) (flips : BitVec 72) (s : State) (page ce ue : Nat), Steady s.dev →
    let w := ppa.toNat / 8
    let g := ppa.toNat / 32
    let e := sget noFlip s.dev.sramErr w ^^^ flips
    let bytes := memGet s.dev (8 * w) 8
    let read := Instr.sramAccess who ppa none poison flips
    (agentMay s.dev who (8 * w) 8 false = true → locate s.dev ppa.toNat = .absent →
      (¬ OnPostmaster who → Ends read s (emit s.dev (.memData (List.replicate 8 0) true)))
      ∧ Gives read s (fun d => PoisonArrives s.dev d who (List.replicate 8 0)))
    ∧ (SramOf s.dev ppa.toNat page ce ue → NotArmed s.dev page →
    (agentMay s.dev who (8 * w) 8 false = true →
      (popc e.toNat 72 = 0 →
        (poisonedG s.dev g = false ∨ ¬ OnPostmaster who → Ends read s
          (emit { s.dev with sramErr := sput noFlip s.dev.sramErr w e } (.memData bytes (poisonedG s.dev g))))
        ∧ (poisonedG s.dev g = true → Gives read s (fun d => PoisonArrives s.dev d who bytes)))
      ∧ (popc e.toNat 72 = 1 → Calm s.dev page → Gives read s (fun d =>
          Sent s.dev d [.memData bytes (poisonedG s.dev g)] ∧ SameMemory s.dev d ∧ sget noFlip d.sramErr w = 0
          ∧ Recorded s.dev d page 1 ce (ce - 0xF8) ∧ regN d (page + oCcount) = min m32 (regN s.dev (page + oCcount) + 1)
          ∧ d.board = s.dev.board ∧ d.ctxs = s.dev.ctxs))
      ∧ (popc e.toNat 72 = 2 → Calm s.dev page → Gives read s (fun d => PoisonArrives s.dev d who bytes ∧ poisonedG d g = true
          ∧ Recorded s.dev d page 2 ue (ue - 0xF8))))
    ∧ ∀ bs : List Byte, bs ≠ [] → ppa.toNat % 32 + bs.length ≤ 32 → MayReach s.dev who ppa.toNat bs.length true →
      (WordsClean s.dev ppa.toNat bs.length → codeHit s.dev (32 * g) = none → codeHitRange s.dev ppa.toNat bs.length = none →
        Gives (.sramAccess who ppa (some bs) poison flips) s (fun d => StoresBytes s.dev d ppa.toNat bs
          ∧ poisonedG d g = (poison || (bs.length ≠ 32 && poisonedG s.dev g)) ∧ (∀ h, h ≠ g → poisonedG d h = poisonedG s.dev h)
          ∧ d = { s.dev with mem := d.mem, poison := d.poison, sramErr := d.sramErr }))
      ∧ ∀ i k, codeHit s.dev (32 * g) = some (i, k) → codeHitRange s.dev ppa.toNat bs.length = some (i, k) →
        Gives (.sramAccess who ppa (some bs) poison flips) s (fun d => SameMemory s.dev d ∧ Recorded s.dev d (pgCore i k) 2 0x108 16
          ∧ d.board = s.dev.board ∧ d.ctxs = s.dev.ctxs))

/-- A scrub read of a good word moves the pass on by 32 bytes, and at the end of the stack counts it; SCRUB_NOW starts a pass at full
rate; a refresh window applies the controller's pending commit; the fill after a stack fence begins, and ends once the fenced stacks have
left the map; the manager makes a die's address-book replica good (R294, R301, R303, R470). -/
def Obligations.ScrubFillAndRefresh : Prop :=
  ∀ (site : Site) (s : State), Steady s.dev →
    (∀ k : Fin 3,
      let page := pgHbmc site.val k.val
      let key := scrubKey site.val k.val
      (∀ noise : Disturb,
        let pos := reg64 s.dev (page + 0x834)
        let g := hbmEncode site.val k.val pos (dieStacks s.dev site.val) / 32
        let d0 := disturb s.dev g noise
        scrubbing s.dev site.val k.val = true → symbolsWrong d0 g = 0 → sget noTag d0.hbmTag g = 0 →
        Gives (.scrubRead site k noise) s (fun d =>
          reg64 d (page + 0x834) = (if pos + 32 < stackBytes then pos + 32 else 0)
          ∧ regN d (page + 0x83C) = (if pos + 32 < stackBytes then regN s.dev (page + 0x83C) else min m32 (regN s.dev (page + 0x83C) + 1))
          ∧ sget noFlag d.scrubFull key = (if pos + 32 < stackBytes then sget noFlag s.dev.scrubFull key else false)
          ∧ OnlyMeters (fun b => Meter page b ∨ (page + 0x834 ≤ b ∧ b ≤ page + 0x83C)) { d0 with scrubFull := d.scrubFull } d))
      ∧ (∀ (who : Requester) (val : W32), Reaches s.dev who (page + 0xF00) →
        let kept := dropHeld s.dev who (page + 0xF00)
        Ends (.scrubNow who site k val) s
          (if val.getLsbD 0 = true ∧ ownState s.dev page = stRunning then
             { setReg64 kept (page + 0x834) 0 with scrubFull := sput noFlag s.dev.scrubFull key true }
           else kept))
      ∧ ∀ (l : PageLoc) (p : PendingCommit), pageAt page = some l → sget noCommit s.dev.commits page = some p →
        ownState s.dev page ≠ stDraining → ownState s.dev page ≠ stFenced →
        Gives (.refreshWindow site k) s (fun d => commitPending d page = false ∧ rfld d (page + oCommitStat) 0 4 = 1
          ∧ rfld d (page + oCommitStat) 16 16 = (rfld s.dev (page + oCommitStat) 16 16 + 1) % 65536
          ∧ (∀ x ∈ shadowPairs .hbmc, absentReg l x.1 = false → regN d (page + x.2) = pendVal s.dev l p page x.1)
          ∧ d = { s.dev with regs := d.regs, commits := d.commits, trace := d.trace, lines := d.lines }))
    ∧ Ends (.stackFenceFill site) s
        (if bvBit s.dev.fillDue site.val = true then
           { s.dev with fillDue := setBv s.dev.fillDue site.val false, filling := setBv s.dev.filling site.val true }
         else s.dev)
    ∧ ((getSorter s.dev site.val).reorder = [] →
      (bvBit s.dev.filling site.val = false ∨ dieStacks s.dev site.val ≠ stacksLeft s.dev site.val → Ends (.fillComplete site) s s.dev)
      ∧ (bvBit s.dev.filling site.val = true → dieStacks s.dev site.val = stacksLeft s.dev site.val → s.dev.fillWait = [] →
        Ends (.fillComplete site) s { s.dev with filling := setBv s.dev.filling site.val false }))
    ∧ Gives (.replicaRewrite site) s (fun d => d = { s.dev with book := { s.dev.book with damaged := d.book.damaged } }
        ∧ ∀ e, e ∈ d.book.damaged ↔ e ∈ s.dev.book.damaged ∧ (e.1 < replicaKey site.val 0 ∨ replicaKey site.val 255 < e.1))

/-! ## Fences (R47, R48, R478, R479) -/

/-- A fence request, or a class F, of a RUNNING core or cluster records itself and drains the block; a drain that takes too long is ended
and the block is FENCED, a core's contexts HALTED; the manager then writes a wear record and clears the die's recovering bit
(R47, R478, R479). -/
def Obligations.Fences : Prop :=
  ∀ (page : Bar0) (l : PageLoc) (s : State), Steady s.dev → pageAt page.toNat = some l → l.typ = .core ∨ l.typ = .cluster →
    let a := pageBase page.toNat
    let leaving (code : Nat) (d : Dev) : Prop := ownState d a = stDraining ∧ fenceReqd d a = true ∧ Recorded s.dev d a 3 code 2
      ∧ d.board = { s.dev.board with fencing := [⟨.page a, a, code⟩] } ∧ recoveringBit d l.site = true
      ∧ d.mem = s.dev.mem ∧ d.ctxs = s.dev.ctxs
    (ownState s.dev a = stRunning → s.dev.board.fencing = [] →
      (∀ who, Reaches s.dev who (a + oCtrl) → fenceReqd s.dev a = false → Gives (.fenceReq who page) s (leaving 0x002))
      ∧ ∀ (code : BitVec 12) unit, dieUp s.dev l.site = true → regN s.dev (pgMgr + 0x820) / 16 = 0 →
        Gives (.fenceSequence page code unit) s (leaving code.toNat))
    ∧ (ownState s.dev a = stDraining → fenceReqd s.dev a = true → twinState s.dev = twOff →
      Gives (.fenceDrainTimeout page) s (fun d => ownState d a = stFenced ∧ fenceReqd d a = false ∧ d.mem = s.dev.mem
        ∧ (l.typ = .core → ∀ n, n < 16 →
          let c := getCtx s.dev (ctxKey l.site l.inst n)
          (getCtx d (ctxKey l.site l.inst n)).cstate = if c.cstate = .running ∨ c.cstate = .waiting then .halted else c.cstate)
        ∧ (l.typ = .cluster → ∀ i, i < 8 → ownState d (pgCore l.site (8 * l.inst + i)) = stFenced)
        ∧ (sealedJob s.dev = true → rfld d jobStatReg 8 1 = 1)))
    ∧ ∀ code, ownState s.dev a = stFenced → s.dev.board.fencing = [⟨.page a, a, code⟩] →
      Gives (.fenceComplete page) s (fun d => d.board = { s.dev.board with fencing := [] }
        ∧ regN d (pgMgr + 0x890) = min m32 (regN s.dev (pgMgr + 0x890) + 1) ∧ (∀ x, x < 4 → recoveringBit d x = false)
        ∧ d.flash.nextRecord = s.dev.flash.nextRecord + 1
        ∧ d = { s.dev with regs := d.regs, flash := d.flash, board := d.board })

/-! ## Die-to-die edges (R313 to R331) -/

namespace Sys2Proof.Machine

/-- A flit as it leaves on module k: header, payload and check, and their bits on the lanes of the module as `m` uses them (R314). -/
def d2dOut (m : Module) (k : Nat) (h : W64) (body : List Byte) : Out :=
  .d2dFlit k h (pad 244 body) (BitVec.ofNat 32 (flitCrc h body))
    (d2dLanes (m.mstate == 1) m.upper (ofBytes (toBytes 8 h.toNat ++ pad 244 body ++ toBytes 4 (flitCrc h body))))
/-- The idle flit that module k sends back: the sequence number it has accepted last, and credits of a pool (R314, R315). -/
def idleFlit (m : Module) (k ack : Nat) (nak : Bool) (pool credits : Nat) : Out :=
  d2dOut m k (d2dHeader 0 ack nak true 0 false false false 0 pool credits) []
/-- The data flits of a replay buffer as they leave again, ACK as it stands now (R314, R315). -/
def resent (m : Module) (k ack : Nat) (l : List ReplayFlit) : List Out :=
  l.map (fun f => d2dOut m k (BitVec.ofNat 64 (setFld f.header.toNat 12 12 ack)) f.body)
/-- The number that a module has accepted last. -/
def accepted (d : Dev) (k : Nat) : Nat := ((getMod d k).expect - 1).toNat
/-- The edge of a module holds back no packet. -/
abbrev edgeFree (d : Dev) (k : Nat) : Prop := (getEdge d (edgeKey (k / 64) (k / 32 % 2))).heldPkts = []
/-- A module in service on a RUNNING edge that no lane test holds. -/
abbrev ModuleOpen (d : Dev) (k : Nat) : Prop :=
  inService d k = true ∧ modRetrains d k = false ∧ ownState d (modPage k) = stRunning ∧ NotArmed d (modPage k)
/-- No recovery at the facing edge (R475). -/
abbrev facingQuiet (d : Dev) (k : Nat) : Prop :=
  edgeBusy d (facing (k / 64) (k / 32 % 2)).1 (facing (k / 64) (k / 32 % 2)).2 = false

end Sys2Proof.Machine

/-- A flit with a bad check is discarded, with one NAK for data; a good one takes what it acknowledges out of the replay buffer and
returns credits; data in sequence is accepted and acknowledged, its packet handed on at its end; other data gets one NAK.
With no ACK for TIMEOUT cycles all unacknowledged flits leave again, and the fourth failure in a row retrains (R314 to R316). -/
def Obligations.FlitsBetweenDies : Prop :=
  ∀ (m : ModRef) (s : State), Steady s.dev →
    let k := modRefKey m
    let page := modPage k
    let old := getMod s.dev k
    let ek := edgeKey (k / 64) (k / 32 % 2)
    ModuleOpen s.dev k →
    (∀ flit : D2dFlit,
      let h := flit.header.toNat
      let answer := if old.nakSent then [] else [idleFlit old k (accepted s.dev k) true 0 0]
      let acked := dropAcked old.replay (fld h 12 12)
      let credited (d : Dev) : Prop := ∀ p, sget zeroNat (getEdge d ek).credits p =
        sget zeroNat (getEdge s.dev ek).credits p + if p = fld h 40 3 then fld h 44 8 else 0
      (flitCrc flit.header flit.payload ≠ flit.crc.toNat →
        Gives (.d2dFlitReceive m flit) s (fun d => Sent s.dev d (if tbit h 25 then [] else answer)
          ∧ getMod d k = { old with nakSent := old.nakSent || !tbit h 25 } ∧ d = { s.dev with mods := d.mods, out := d.out }))
      ∧ (flitCrc flit.header flit.payload = flit.crc.toNat → tbit h 24 = false → edgeFree s.dev k →
        (tbit h 25 = true → Gives (.d2dFlitReceive m flit) s (fun d => Sent s.dev d [] ∧ credited d
          ∧ getMod d k = { old with replay := acked } ∧ d = { s.dev with mods := d.mods, edges := d.edges }))
        ∧ (tbit h 25 = false → fld h 0 12 ≠ old.expect.toNat → Gives (.d2dFlitReceive m flit) s (fun d => Sent s.dev d answer ∧ credited d
          ∧ getMod d k = { old with replay := acked, nakSent := true } ∧ d = { s.dev with mods := d.mods, edges := d.edges, out := d.out }))
        ∧ (tbit h 25 = false → fld h 0 12 = old.expect.toNat →
          let bytes := (if tbit h 29 then [] else old.rx) ++ flit.payload.take (fld h 32 8)
          let p := pktOf bytes
          (tbit h 30 = false → Gives (.d2dFlitReceive m flit) s (fun d => Sent s.dev d [idleFlit old k (fld h 0 12) false 0 0] ∧ credited d
            ∧ getMod d k = { old with replay := acked, nakSent := false, expect := old.expect + 1, rx := bytes }
            ∧ OnlyMeters (Meter page) { s.dev with mods := d.mods, edges := d.edges, out := d.out } d))
          ∧ (tbit h 30 = true → (egress s.dev m.site.val (setRoute p 4 4 0)).1 = .eject → fld p.dst.toNat 11 2 = m.site.val →
            Gives (.d2dFlitReceive m flit) s (fun d =>
              Sent s.dev d [.eject m.site.val p, idleFlit old k (fld h 0 12) false (poolOf (fld h 26 2) (tbit h 28)) (pktUnits p)]
              ∧ credited d ∧ getMod d k = { old with replay := acked, nakSent := false, expect := old.expect + 1, rx := [] }
              ∧ OnlyMeters (Meter page) { s.dev with mods := d.mods, edges := d.edges, out := d.out } d)))))
    ∧ (rfld s.dev (page + 0x800) 0 10 = 0 → Ends (.d2dReplayTimeout m) s s.dev)
    ∧ (rfld s.dev (page + 0x800) 0 10 ≠ 0 → old.replay ≠ [] → Calm s.dev page → facingQuiet s.dev k →
      ((∀ f ∈ old.replay, f.fails < 3) → Gives (.d2dReplayTimeout m) s (fun d => Sent s.dev d (resent old k (accepted s.dev k) old.replay)
          ∧ Recorded s.dev d page 1 0x100 8 ∧ (getMod d k).replay = old.replay.map (fun f => { f with fails := f.fails + 1 })
          ∧ regN d (page + 0x82C) = min m32 (regN s.dev (page + 0x82C) + 1) ∧ d.board = s.dev.board ∧ d.mem = s.dev.mem))
      ∧ ((∃ f ∈ old.replay, 3 ≤ f.fails) → Gives (.d2dReplayTimeout m) s (fun d => Sent s.dev d [] ∧ Recorded s.dev d page 2 0x103 11
          ∧ (getMod d k).retraining = true ∧ d.board = s.dev.board ∧ d.mem = s.dev.mem)))

/-- A retrain stops a module and is counted at both ends; its end applies the repair ladder to both and they send their replay buffers
again, or, where the ladder has no width left, are taken out. A disabled module of a RUNNING edge leaves with the last number each side
accepted, one of an edge that does not run yet is OFF at once; a silent peer fails the packets a module still held (R321 to R324, R326). -/
def Obligations.ModulesRetrainAndLeave : Prop :=
  ∀ (m : ModRef) (s : State), Steady s.dev →
    let k := modRefKey m
    let k2 := facingMod k
    let a := getMod s.dev k
    let b := getMod s.dev k2
    (modRetrains s.dev k = true ∨ inService s.dev k = false → Ends (.d2dRetrain m) s s.dev)
    ∧ (modRetrains s.dev k = false → inService s.dev k = true →
      Ends (.d2dRetrain m) s (incSat (incSat (putMod s.dev k { a with retraining := true }) (modPage k + 0x830)) (modPage k2 + 0x830)))
    ∧ (∀ found, modRetrains s.dev k = false → Ends (.d2dRetrainDone m found) s s.dev)
    ∧ (∀ found,
      let r := ladder a (found ||| b.failed)
      let fresh (l : List ReplayFlit) := l.map (fun f => { f with fails := 0 })
      modRetrains s.dev k = true → a.joining = false →
      (r.1 ≤ 2 → edgeFree s.dev k → edgeFree s.dev k2 → NotArmed s.dev (modPage k) → NotArmed s.dev (modPage k2) →
        Gives (.d2dRetrainDone m found) s (fun d =>
          Sent s.dev d (resent r.2 k (accepted s.dev k) a.replay
            ++ resent { b with mstate := r.2.mstate, upper := r.2.upper } k2 (accepted s.dev k2) b.replay)
          ∧ getMod d k = { r.2 with retraining := false, joining := false, replay := fresh a.replay, tests := a.tests + 1 }
          ∧ getMod d k2 = { b with failed := r.2.failed, spares := r.2.spares, mstate := r.2.mstate, upper := r.2.upper, tests := b.tests + 1
                                   retraining := false, joining := false, replay := fresh b.replay }
          ∧ (r.1 = 1 → Recorded s.dev d (modPage k) 1 0x101 9 ∧ Recorded s.dev d (modPage k2) 1 0x101 9)
          ∧ (r.1 = 2 → Recorded s.dev d (modPage k) 1 0x102 10 ∧ Recorded s.dev d (modPage k2) 1 0x102 10)
          ∧ d.board = s.dev.board ∧ d.mem = s.dev.mem))
      ∧ (r.1 = 3 → regN s.dev (pgMgr + 0x820) / 16 = 0 → Gives (.d2dRetrainDone m found) s (fun d =>
          Recorded s.dev d (modPage k) 3 0x104 12 ∧ Recorded s.dev d (modPage k2) 3 0x104 12
          ∧ (getMod d k).disabled = true ∧ (getMod d k2).disabled = true)))
    ∧ (inService s.dev k = false → Ends (.moduleDisable m) s s.dev)
    ∧ (inService s.dev k = true → ownState s.dev (modPage k) ≠ stRunning → Gives (.moduleDisable m) s (fun d => Sent s.dev d []
        ∧ ∀ x ∈ [k, k2], (getMod d x).disabled = true ∧ (getMod d x).mstate = 2))
    ∧ (inService s.dev k = true → ownState s.dev (modPage k) = stRunning → 9 ≤ upCount s.dev (k / 64) (k / 32 % 2) →
      Gives (.moduleDisable m) s (fun d => Sent s.dev d [.sideband k (a.expect - 1), .sideband k2 (b.expect - 1)]
        ∧ getMod d k = { a with disabled := true, leaving := true, retraining := false }
        ∧ getMod d k2 = { b with disabled := true, leaving := true, retraining := false }
        ∧ (∀ x ∈ [k, k2], ownState s.dev (modPage x) = stRunning → (getEdge d (edgeKey (x / 64) (x / 32 % 2))).quiescing = true)
        ∧ fencingNow d (.module k) = true
        ∧ d = { s.dev with mods := d.mods, edges := d.edges, out := d.out, regs := d.regs
                           board := { s.dev.board with fencing := d.board.fencing } }))
    ∧ (let waits := a.leaving = true ∨ (ownState s.dev (modPage k) = stDraining ∧ fenceReqd s.dev (modPage k) = true)
      let ps := packetsHeld a.replay
      (¬ waits → Ends (.sidebandTimeout m) s s.dev)
      ∧ (waits → ∃ d1, Ends (.sidebandTimeout m) s (settle (ps.foldl (fun d p => errorAnswer d (k / 64) p.pkt) d1))
        ∧ getMod d1 k = { a with replay := [] } ∧ (ps ≠ [] → Recorded s.dev d1 (modPage k) 2 0x107 15) ∧ d1.out = s.dev.out
        ∧ d1.board = s.dev.board ∧ d1.mem = s.dev.mem)
      ∧ (waits → (∀ p ∈ ps, p.pkt.typ ≠ 1 ∧ p.pkt.typ ≠ 2) → Gives (.sidebandTimeout m) s (fun d =>
        getMod d k = { a with replay := [] } ∧ (ps ≠ [] → Recorded s.dev d (modPage k) 2 0x107 15) ∧ Sent s.dev d []
        ∧ d.board = s.dev.board ∧ d.mem = s.dev.mem)))

/-- A RUNNING edge quiesces, and when no module in service holds an unacknowledged flit those that leave are out, the steering table is
written anew and traffic resumes; a fenced edge drains on both sides with EDGE_FENCE; the manager then writes the shortest
surviving routes into every die in service (R317, R318, R324 to R326). -/
def Sys2Proof.Claims.EdgesQuiesceAndFence : Prop :=
  ∀ (site : Site) (edgeB : Bool) (s : State), Steady s.dev →
    let i := site.val
    let e := edgeB.toNat
    let ek := edgeKey i e
    let f := facing i e
    (Ends (.edgeQuiesce site edgeB) s
      (if ownState s.dev (pgD2d i e) = stRunning then putEdge s.dev ek { getEdge s.dev ek with quiescing := true } else s.dev))
    ∧ ((getEdge s.dev ek).quiescing = false → Ends (.quiesceDone site edgeB) s s.dev)
    ∧ ((getEdge s.dev ek).quiescing = true → (getEdge s.dev ek).heldPkts = [] → runLevel s.dev i = runLevel s.dev f.1 →
      (∀ k ∈ edgeModules i e, inService s.dev k = true → (getMod s.dev k).replay = []) →
      (∀ k ∈ edgeModules i e, (getMod s.dev k).leaving = true →
        unaccepted s.dev k = [] ∧ ((getMod s.dev k).disabled = true ∨ masked s.dev k = true)) →
      Gives (.quiesceDone site edgeB) s (fun d => (getEdge d ek).quiescing = false
        ∧ (getEdge d ek).table = (getEdge (writeTable s.dev i e) ek).table ∧ rfld d (pgD2d i e + 0x820) 8 8 = runLevel s.dev i
        ∧ (∀ k ∈ edgeModules i e, (getMod s.dev k).leaving = true → (getMod d k).leaving = false ∧ (getMod d k).replay = []
          ∧ (getMod d k).mstate = if (getMod s.dev k).disabled = true then 2 else 3)
        ∧ (∀ k ∈ edgeModules i e, (getMod s.dev k).leaving = false → getMod d k = getMod s.dev k)
        ∧ d = { s.dev with mods := d.mods, edges := d.edges, regs := d.regs }))
    ∧ (dieUp s.dev i = true → dieUp s.dev f.1 = true → ownState s.dev (pgD2d i e) = stRunning →
      ownState s.dev (pgD2d f.1 f.2) = stRunning → s.dev.board.fencing = [] →
      Gives (.edgeFence site edgeB) s (fun d => d.board.routeChange = true
        ∧ ownState d (pgD2d i e) = stDraining ∧ ownState d (pgD2d f.1 f.2) = stDraining
        ∧ Recorded s.dev d (pgD2d i e) 3 0x105 13 ∧ Recorded s.dev d (pgD2d f.1 f.2) 3 0x105 13 ∧ d.mem = s.dev.mem ∧ d.mods = s.dev.mods))
    ∧ (s.dev.board.routeChange = false ∨ drained s.dev = false → Ends .routeRewrite s s.dev)
    ∧ (s.dev.board.routeChange = true → drained s.dev = true → (∀ x, x < 4 → sget noHeld s.dev.relayHeld x = []) →
      (∀ x y, x < 4 → y < 2 → (getEdge s.dev (edgeKey x y)).heldPkts = []) → (∀ x, x < 4 → dieUp s.dev x = true → x ∈ keptSegment s.dev) →
      Gives .routeRewrite s (fun d => d.board = { s.dev.board with routeChange := false } ∧ d.mem = s.dev.mem ∧ d.mods = s.dev.mods
        ∧ ∀ x y, x < 4 → y < 4 → routeOf d x y = if dieUp s.dev x then routeField s.dev x y else routeOf s.dev x y))

/-- Bring-up of a package whose four dies agree, whose lanes are good and whose modules are all in use starts every edge with all modules in service and shows the peer's
site and version; an edge whose peer stays silent is fenced; one that is done has its steering table, returns the credits of all its
pools and runs, and its die has routes (R313, R320, R325). -/
def Sys2Proof.Claims.EdgeBringup : Prop :=
  ∀ s : State, Quiescent s.dev → s.dev.board.bootStep = 5 → s.dev.board.service = false →
    ((∀ x, x < 4 → dieUp s.dev x = true ∧ runLevel s.dev x = runLevel s.dev 0 ∧ ∀ y, y < 3 → ownState s.dev (pgD2d x y) = stOff) →
      (∀ x y, x < 4 → y < 2 → regN s.dev (pgD2d x y + 0x804) = 0) → (∀ k, k < 256 → (getMod s.dev k).failed = 0 ∧ (getMod s.dev k).disabled = false ∧ repairMap s.dev k = 0) →
      Gives (.d2dBringup [] []) s (fun d => d.mem = s.dev.mem ∧ d.board = s.dev.board ∧ d.out = s.dev.out
        ∧ ∀ x, x < 4 → (∀ y, y < 3 → ownState d (pgD2d x y) = stStarting ∧ tbit (pageCtrl d (pgD2d x y)) 0 = true)
          ∧ regN d (pgD2d x 0 + 0x820) = (x + 1) % 4 + 4 + 256 * runLevel s.dev x
          ∧ regN d (pgD2d x 1 + 0x820) = (x + 3) % 4 + 256 * runLevel s.dev x
          ∧ ∀ y, y < 2 → ∀ k ∈ edgeModules x y, (getMod d k).mstate = 0))
    ∧ ∀ (site : Site) (edgeB : Bool),
      let i := site.val
      let e := edgeB.toNat
      let a := pgD2d i e
      let k := modKey i e ((serviceList s.dev i e).getD 0 0).val
      dieUp s.dev i = true → ownState s.dev a = stStarting →
      (Gives (.d2dPeerAbsent site edgeB) s (fun d => ownState d a = stFenced ∧ Recorded s.dev d a 3 0x120 14 ∧ d.board.routeChange = true))
      ∧ (rfld s.dev (a + 0x820) 8 8 ≠ 0 → 8 ≤ upCount s.dev i e → tbit (pageCtrl s.dev a) 0 = true →
        (∃ x y, x < 4 ∧ y < 2 ∧ (x, y) ≠ (i, e) ∧ dieUp s.dev x = true ∧ ownState s.dev (pgD2d x y) = stStarting) →
        (∀ x, x < 4 → sget noHeld s.dev.relayHeld x = []) →
        Gives (.d2dBringupDone site edgeB) s (fun d => ownState d a = stRunning
          ∧ (getEdge d (edgeKey i e)).table = (getEdge (writeTable s.dev i e) (edgeKey i e)).table
          ∧ Sent s.dev d ((List.range 8).map (fun p => idleFlit (getMod s.dev k) k (accepted s.dev k) false p (Config.edgePool (edgeKey i e) p).toNat))
          ∧ (s.dev.board.routeChange = false → ∀ x y, x < 4 → y < 4 → dieUp s.dev x = true → routeOf d x y = routeField d x y)
          ∧ d.mem = s.dev.mem ∧ d.board = s.dev.board ∧ d.mods = s.dev.mods))

/-! ## Fabric and twin ports, the link handshake, routers (R24, R135 to R138, R334 to R349, R355 to R361, R368) -/

namespace Sys2Proof.Machine

/-- A flit as it leaves on a port: header, body and check, their error correction, and the symbols of the frame on the lanes that the port
uses (R333 to R335, R338). -/
def portOut (d : Dev) (n : Nat) (h : W64) (body : List Byte) : Out :=
  let st := regN d (pgOfPort n + 0x840)
  let flit := toBytes 8 h.toNat ++ body ++ toBytes 4 (flitCrc h body)
  .flit n h body (BitVec.ofNat 32 (flitCrc h body)) (frameParity flit) (frameLanes (fld st 4 3) (tbit st 7) (flit ++ frameParity flit))
/-- The idle flit of a port (R339, R341). -/
def portIdleFlit (d : Dev) (n ack : Nat) (nak : Bool) (pool credits : Nat) : Out :=
  portOut d n (portHeader 0 ack nak true false 0 false false false 0 pool credits) (pad 244 [])
/-- The data flits of a port's replay buffer as they leave again, identical (R138, R341). -/
def portResent (d : Dev) (n : Nat) (l : List ReplayFlit) : List Out := l.map (fun f => portOut d n f.header (pad 244 f.body))
/-- Neither the port page nor its postmark page injects an error. -/
abbrev PortClean (d : Dev) (n : Nat) : Prop := NotArmed d (pgOfPort n) ∧ NotArmed d (pgPortMark n)
/-- The answer of a port that has not sent a NAK for this event yet. -/
def nakOnce (d : Dev) (n : Nat) : List Out :=
  if (getPort d n).nakSent then [] else [portIdleFlit d n (getPort d n).lastAcc.toNat true 0 0]

/-- A failed handshake: the port waits in AUTH_HOLD with its reason shown, its session erased and counted; the first failure after READY is
class D (R135, R349). -/
def HandshakeFailed (d d' : Dev) (n reason : Nat) : Prop :=
  let a := pgOfPort n
  linkState d' n = 6 ∧ rfld d' (a + 0x840) 16 16 = reason
  ∧ (getPort d' n).stage = 0 ∧ (getPort d' n).tx = none ∧ (getPort d' n).rx = none ∧ (getPort d' n).everReady = false
  ∧ regN d' (a + 0x85C) = min m32 (regN d (a + 0x85C) + 1) ∧ regN d' (pgSeal + 0x828) = min m32 (regN d (pgSeal + 0x828) + 1)
  ∧ ((getPort d n).everReady = true → Recorded d d' a 2 0x105 13) ∧ d'.board = d.board ∧ d'.mem = d.mem
/-- The port has sent messages of the handshake: each is shown, and its flits carry them (R135, R339). -/
def HsSent (d d' : Dev) (n : Nat) (ms : List HsMsg) : Prop :=
  ∃ l, Sent d d' l ∧ l.filterMap (fun o => match o with | .handshake _ m => some m | _ => none) = ms
    ∧ ∀ o ∈ l, (∃ m, o = .handshake n m) ∨ ∃ h body c par lanes, o = .flit n h body c par lanes
/-- A handshake goes on: the port is `p` but for the messages sent, which wait for their ACK, and beside ports and what leaves the package
only counters, trace, lines and drawn numbers differ. -/
def HsStep (d d' : Dev) (n : Nat) (p : Port) (ms : List HsMsg) : Prop :=
  getPort d' n = { p with sent := p.sent ++ ms, sendSeq := (getPort d' n).sendSeq, replay := (getPort d' n).replay } ∧ HsSent d d' n ms
  ∧ OnlyMeters (Meter (pgOfPort n)) { d with ports := d'.ports, out := d'.out, free := d'.free } d'
/-- The port has begun a handshake with its own HELLO. -/
def HelloSent (d d' : Dev) (n : Nat) : Prop :=
  let m : HsMsg := .hello (ownHello d n (Config.random d.free))
  linkState d' n = 5 ∧ (getPort d' n).stage = 0 ∧ (getPort d' n).tx = none ∧ HsSent d d' n [m] ∧ (getPort d' n).sent = [m]
  ∧ d'.free = d.free + 1 ∧ d'.board = d.board ∧ d'.mem = d.mem
/-- The message that carries an ephemeral key. -/
def kexMsg (eph : Nat) : HsMsg := .kex (BitVec.ofNat 520 (ofBytes (point65 (sm2Public eph))))

end Sys2Proof.Machine

/-- A frame whose codewords are beyond correction, or whose flit has a bad check, is discarded, with one NAK for data; a good idle flit acknowledges and returns credits; data
in sequence joins its group and is delivered when the group's tag verifies; a bad tag discards the group. With no ACK for TIMEOUT
cycles all unacknowledged flits leave again, and a fourth failure retrains (R334, R338 to R342). -/
def Obligations.FabricFrames : Prop :=
  ∀ (port : Fin 50) (s : State), Steady s.dev →
    let n := port.val
    let a := pgOfPort n
    let mark := pgPortMark n
    let old := getPort s.dev n
    PortClean s.dev n → linkState s.dev n = lsUp → old.held = [] →
    (∀ f : List Byte,
      let counted' (d : Dev) : Prop := regN d (mark + 0x820) = min m32 (regN s.dev (mark + 0x820) + 1)
        ∧ regN d (mark + 0x824) = min m32 (regN s.dev (mark + 0x824) + 1)
      (frameDecode f = none → Gives (.frameReceive port f) s (fun d => Sent s.dev d (nakOnce s.dev n)
        ∧ regN d (a + 0x854) = min m32 (regN s.dev (a + 0x854) + 1) ∧ counted' d ∧ getPort d n = { old with nakSent := true }))
      ∧ ∀ flit corrected, frameDecode f = some (flit, corrected) →
      let header : W64 := BitVec.ofNat 64 (bytesAt flit 0 8)
      let body := bytesFrom flit 8 244
      let h := header.toNat
      let acked := dropAcked old.replay (fld h 12 12)
      (flitCrc header body ≠ bytesAt flit 252 4 →
        Gives (.frameReceive port f) s (fun d => Sent s.dev d (if tbit h 25 then [] else nakOnce s.dev n)
          ∧ regN d (a + 0x850) = min m32 (regN s.dev (a + 0x850) + corrected) ∧ (tbit h 25 = false → counted' d)
          ∧ getPort d n = { old with nakSent := old.nakSent || !tbit h 25 }))
      ∧ (flitCrc header body = bytesAt flit 252 4 → tbit h 24 = false →
        (tbit h 25 = true → Gives (.frameReceive port f) s (fun d => Sent s.dev d [] ∧ (getPort d n).replay = acked
          ∧ ∀ p, sget zeroNat (getPort d n).credits p = sget zeroNat old.credits p + if p = fld h 40 3 then fld h 44 11 else 0))
        ∧ (tbit h 25 = false → fld h 0 12 ≠ old.expect.toNat → Gives (.frameReceive port f) s (fun d => Sent s.dev d (nakOnce s.dev n)
          ∧ (getPort d n).nakSent = true ∧ (getPort d n).expect = old.expect ∧ (getPort d n).replay = acked))
        ∧ (tbit h 25 = false → fld h 0 12 = old.expect.toNat → tbit h 26 = false → Gives (.frameReceive port f) s (fun d => Sent s.dev d []
          ∧ (getPort d n).rxGroup = old.rxGroup ++ [(header, body)] ∧ (getPort d n).expect = BitVec.ofNat 12 (nextSeq (fld h 0 12) false)
          ∧ (getPort d n).lastAcc = old.lastAcc ∧ (getPort d n).replay = acked))
        ∧ (tbit h 25 = false → fld h 0 12 = old.expect.toNat → tbit h 26 = true →
          let g := old.rxGroup ++ [(header, body)]
          (∀ plain, groupOpen s.dev n g = some plain → (∀ x ∈ plain, tbit x.1.toNat 31 = false) → Gives (.frameReceive port f) s (fun d =>
            Sent s.dev d [portIdleFlit s.dev n (fld h 0 12) false 0 0] ∧ (getPort d n).rxGroup = [] ∧ (getPort d n).lastAcc.toNat = fld h 0 12
            ∧ (getPort d n).expect = BitVec.ofNat 12 (nextSeq (fld h 0 12) true)
            ∧ (getPort d n).rxBytes = plain.foldl (fun bs x => (if tbit x.1.toNat 30 then [] else bs) ++ x.2.take (fld x.1.toNat 32 8)) old.rxBytes))
          ∧ (groupOpen s.dev n g = none → Calm s.dev a → Gives (.frameReceive port f) s (fun d => (getPort d n).rxGroup = []
            ∧ (getPort d n).expect = BitVec.ofNat 12 (fld (g.headD (header, body)).1.toNat 0 12) ∧ Recorded s.dev d a 1 0x101 9
            ∧ regN d (a + 0x858) = min m32 (regN s.dev (a + 0x858) + 1)
            ∧ Sent s.dev d [portIdleFlit s.dev n old.lastAcc.toNat true 0 0])))))
    ∧ (rfld s.dev (a + 0x800) 0 16 = 0 → Ends (.portReplayTimeout port) s s.dev)
    ∧ (rfld s.dev (a + 0x800) 0 16 ≠ 0 → old.replay ≠ [] → Calm s.dev a → ownState s.dev a = stRunning →
      ((∀ f ∈ old.replay, f.fails < 3) → Gives (.portReplayTimeout port) s (fun d => Sent s.dev d (portResent s.dev n old.replay)
          ∧ Recorded s.dev d a 1 0x100 8 ∧ (getPort d n).replay = old.replay.map (fun f => { f with fails := f.fails + 1 })
          ∧ linkState d n = lsUp ∧ d.board = s.dev.board ∧ d.mem = s.dev.mem))
      ∧ ((∃ f ∈ old.replay, 3 ≤ f.fails) → Gives (.portReplayTimeout port) s (fun d => Sent s.dev d [] ∧ Recorded s.dev d a 2 0x103 11
          ∧ linkState d n = 8 ∧ d.board = s.dev.board ∧ d.mem = s.dev.mem)))

/-- Light from the peer trains a port that looks for it; a silent peer leaves it looking. A retrain, asked for by register, needed for an active
lane that lost lock or begun by the port itself, ends with the width of its whole lane pairs and its replay sent again, or with
NO_WIDTH; training ends the same way and goes on to the topology record or the handshake (R336, R342, R347, R348, R365). -/
def Sys2Proof.Claims.PortTraining : Prop :=
  ∀ (port : Fin 50) (s : State), Steady s.dev →
    let n := port.val
    let a := pgOfPort n
    let st := linkState s.dev n
    let old := getPort s.dev n
    let started (d : Dev) : Dev := incSat (setLink d n 8) (a + 0x84C)
    let canStart := st = lsUp ∧ ownState s.dev a = stRunning
    Ends (.portLightSeen port) s (if st = 2 then setLink s.dev n 3 else s.dev)
    ∧ Gives (.peerRetryTimer port) s (fun d => (∀ b, reg d b = reg s.dev b) ∧ d = { s.dev with regs := d.regs })
    ∧ (canStart → Ends (.portRetrain port) s (started s.dev)) ∧ (¬ canStart → Ends (.portRetrain port) s s.dev)
    ∧ (∀ who (val : W32), Reaches s.dev who (a + 0xF00) →
      let kept := dropHeld s.dev who (a + 0xF00)
      (val.getLsbD 0 = true ∧ canStart → Ends (.retrain who port val) s (started kept))
      ∧ (¬ (val.getLsbD 0 = true ∧ canStart) → Ends (.retrain who port val) s kept))
    ∧ (∀ lane : Fin 4,
      let w := rfld s.dev (a + 0x840) 4 3
      let active := w = 4 ∨ (w = 2 ∧ (2 ≤ lane.val ↔ rfld s.dev (a + 0x840) 7 1 = 1))
      (st ≠ lsUp ∨ ¬ active → Ends (.cdrLockLoss port lane) s s.dev)
      ∧ (canStart → active → Calm s.dev a → Gives (.cdrLockLoss port lane) s (fun d => linkState d n = 8 ∧ Recorded s.dev d a 2 0x103 11
        ∧ regN d (a + 0x84C) = min m32 (regN s.dev (a + 0x84C) + 1) ∧ d.board = s.dev.board ∧ d.mem = s.dev.mem)))
    ∧ ∀ found : BitVec 4,
      let failed := found ||| old.failedLanes
      let wide (w : Nat) (up deg : Bool) (d : Dev) : Prop := rfld d (a + 0x840) 4 3 = w ∧ rfld d (a + 0x840) 7 1 = up.toNat
        ∧ rfld d (a + 0x840) 8 4 = failed.toNat ∧ (deg = true → Recorded s.dev d a 1 0x102 10) ∧ d.mem = s.dev.mem
      let noWidth (i : Instr) : Prop := widthOf (regN s.dev (a + 0x804)) failed = none → regN s.dev (pgMgr + 0x820) / 16 = 0 →
        (ownState s.dev a = stRunning →
          Gives i s (fun d => Recorded s.dev d a 3 0x106 14 ∧ ownState d a = stDraining ∧ fenceReqd d a = true ∧ d.mem = s.dev.mem))
        ∧ (ownState s.dev a = stStarting → old.replay = [] → old.held = [] → twinState s.dev = twOff →
          Gives i s (fun d => Recorded s.dev d a 3 0x106 14 ∧ ownState d a = stFenced ∧ d.mem = s.dev.mem))
      (st ≠ 8 → Ends (.portRetrainDone port found) s s.dev)
      ∧ (st = 8 → noWidth (.portRetrainDone port found))
      ∧ (∀ w up deg, st = 8 → widthOf (regN s.dev (a + 0x804)) failed = some (w, up, deg) → PortClean s.dev n → old.held = [] →
        Gives (.portRetrainDone port found) s (fun d => wide w up deg d ∧ linkState d n = lsUp ∧ Sent s.dev d (portResent d n old.replay)
          ∧ (getPort d n).replay = old.replay.map (fun f => { f with fails := 0 })))
      ∧ (st ≠ 3 → Ends (.portTrainingDone port found) s s.dev)
      ∧ (st = 3 → noWidth (.portTrainingDone port found))
      ∧ (∀ w up deg, st = 3 → widthOf (regN s.dev (a + 0x804)) failed = some (w, up, deg) →
        (old.topo = none → Gives (.portTrainingDone port found) s (fun d => wide w up deg d ∧ linkState d n = 4 ∧ Sent s.dev d []))
        ∧ (old.topo ≠ none → debugMode s.dev = false →
          Gives (.portTrainingDone port found) s (fun d => wide w up deg d ∧ HelloSent s.dev d n)))

/-- The handshake of a port: HELLO, certificates, key exchange, confirmation and READY each move it on one stage and are answered as the
initiator or the responder does; whatever does not match is answered with ABORT and its reason: a chain that does not lead to the
manufacturing CA, another DeviceID key, a key exchange without a result, another confirmation value or a signature that does not verify.
READY gives both directions their keys and the peer's credits and the port is UP; a direction takes a new key after 2^28 groups (R135 to R137, R343, R347, R349). -/
def Sys2Proof.Claims.LinkHandshake : Prop :=
  ∀ (port : Fin 50) (s : State), Steady s.dev →
    let n := port.val
    let a := pgOfPort n
    let old := getPort s.dev n
    let aborts (i : Instr) (reason : Nat) : Prop :=
      Gives i s (fun d => HandshakeFailed s.dev d n reason ∧ HsSent s.dev d n [.abort (BitVec.ofNat 16 reason)])
    let initiator := isInitiator s.dev n
    let own := aliasPublic s.dev
    let peer := peerAlias old
    (linkState s.dev n = 5 →
      (∀ h t c, old.stage = 0 → old.topo = some t → s.dev.sealU.aliasCert = some c →
        (helloFault s.dev n h t = none → PortClean s.dev n → Gives (.hello port h) s (fun d =>
          HsStep s.dev d n { old with stage := 1, peerHello := some h, got := old.got ++ [.hello h] } [.cert c s.dev.flash.devidCert]))
        ∧ ∀ r, helloFault s.dev n h t = some r → aborts (.hello port h) r)
      ∧ (∀ t x y, old.stage = 1 → old.topo = some t →
        let next : Port := { old with stage := 2, got := old.got ++ [.cert x y] }
        let eph := (drawScalar s.dev).1
        (chainOk s.dev x y = true → keyDigest (pointOf y.key) = t.peerDevid → PortClean s.dev n → Gives (.cert port x y) s (fun d =>
          (initiator = true → HsStep s.dev d n { next with eph := eph } [kexMsg eph]) ∧ (initiator = false → HsStep s.dev d n next [])))
        ∧ (chainOk s.dev x y = false → aborts (.cert port x y) 6)
        ∧ (chainOk s.dev x y = true → keyDigest (pointOf y.key) ≠ t.peerDevid → aborts (.cert port x y) 8))
      ∧ (∀ point e, old.stage = 2 → (∀ m ∈ old.got, hsCode m ≠ 3) → pointOf65 (toBytes 65 point.toNat) = some e →
        let next : Port := { old with stage := 3, got := old.got ++ [.kex point] }
        let eph := (drawScalar s.dev).1
        (initiator = true → (∀ v, kexPoint (aliasPrivate s.dev) old.eph peer e = some v → Gives (.kex port point) s (fun d =>
            HsStep s.dev d n { next with shared := pointBytes v, kdf := kexKey v own peer 80 } []))
          ∧ (kexPoint (aliasPrivate s.dev) old.eph peer e = none → aborts (.kex port point) 7))
        ∧ (initiator = false →
          (∀ v, kexPoint (aliasPrivate s.dev) eph peer e = some v → PortClean s.dev n → Gives (.kex port point) s (fun d =>
            ∃ sig, HsStep s.dev d n { next with eph := eph, shared := pointBytes v, kdf := kexKey v peer own 80 }
              [kexMsg eph, .confirm (hsConfirm d n false) sig]))
          ∧ (kexPoint (aliasPrivate s.dev) eph peer e = none → Gives (.kex port point) s (fun d =>
            HandshakeFailed s.dev d n 7 ∧ HsSent s.dev d n [kexMsg eph, .abort 7]))))
      ∧ (∀ value sig, old.stage = 3 →
        let good := value = hsConfirm s.dev n (!initiator) ∧ sm2Verify peer (hsDigest s.dev n) (toBytes 64 sig.toNat) = true
        (good → PortClean s.dev n → Gives (.confirm port ⟨value, sig⟩) s (fun d => ∃ own',
          HsStep s.dev d n { old with stage := 4, got := old.got ++ [.confirm value sig] }
            (if initiator then [.confirm (hsConfirm s.dev n true) own', .ready] else [.ready])))
        ∧ (¬ good → aborts (.confirm port ⟨value, sig⟩) 7))
      ∧ (∀ h, old.stage = 4 → old.peerHello = some h → old.held = [] →
        Gives (.handshakeReady port) s (fun d => linkState d n = lsUp ∧ (getPort d n).everReady = true
          ∧ (∃ t r, (getPort d n).tx = some t ∧ (getPort d n).rx = some r ∧ t.epoch = 0 ∧ r.epoch = 0
            ∧ (let o := if initiator then (0, 1) else (1, 0)
               t.key.toNat = bytesAt old.kdf (16 * o.1) 16 ∧ r.key.toNat = bytesAt old.kdf (16 * o.2) 16))
          ∧ (∀ j, j < 8 → sget zeroNat (getPort d n).credits j = (h.pools.getD j 0).toNat)
          ∧ (getPort d n).sendSeq = old.sendSeq ∧ (getPort d n).expect = old.expect
          ∧ regN d (a + 0x844) = h.pkgId.toNat + 65536 * fld h.port.toNat 0 6 + 2 ^ 31
          ∧ (ownState s.dev a = stStarting → tbit (pageCtrl s.dev a) 0 = true → ownState d a = stRunning) ∧ d.mem = s.dev.mem))
      ∧ (∀ reason : BitVec 16, Gives (.handshakeAbort port reason) s (fun d => HandshakeFailed s.dev d n reason.toNat ∧ Sent s.dev d []))
      ∧ aborts (.handshakeTimeout port) 10)
    ∧ (linkState s.dev n ≠ 5 → ∀ reason, Ends (.handshakeAbort port reason) s s.dev ∧ Ends (.handshakeTimeout port) s s.dev)
    ∧ (linkState s.dev n ≠ 6 → Ends (.authRetry port) s s.dev)
    ∧ (linkState s.dev n = 6 → old.topo = none → Ends (.authRetry port) s (setLink s.dev n 4))
    ∧ (linkState s.dev n = 6 → old.topo ≠ none →
      (debugMode s.dev = false → Gives (.authRetry port) s (HelloSent s.dev · n)) ∧ (debugMode s.dev = true → aborts (.authRetry port) 9))
    ∧ ∀ k receive, (if receive then old.rx else old.tx) = some k →
      Gives (.rekey port receive) s (fun d => d = { s.dev with ports := d.ports } ∧ ∃ k',
        getPort d n = (if receive then { old with rx := some k' } else { old with tx := some k' })
        ∧ (k.groups < 2 ^ 28 → k' = k) ∧ (2 ^ 28 ≤ k.groups → k'.groups = 0 ∧ k'.epoch = k.epoch + 1 ∧ k'.salt = k.salt))

/-- The router of a die delivers a packet for one of its agents, hands one for a port of its die to that port, holds one that must wait for
routes, and gives any other a dead letter, counted and of class D, with a failed answer to a READ or a WRITE. The routers learn each
other's free credits; a ring update shows its lanes, and a ring at its limit fences its lane (R355, R357, R360, R361, R368). -/
def Obligations.PacketsAndRings : Prop :=
  ∀ s : State, Steady s.dev →
    (∀ (site : Site) (arrival : Option (Fin 50)) (p : Packet),
      let i := site.val
      let a := pgRouter i
      let from' := match arrival with | some x => x.val | none => 63
      let r := egress s.dev i p
      let q := setRoute r.2 4 4 (pktHops p + 1)
      let d1 := countEvt s.dev a 0x1000 (pktVc p) 1
      (∀ reason, (badHeader p = true ∧ reason = 5) ∨ (badHeader p = false ∧ r.1 = .dead reason) →
        let size := fld (regN s.dev (a + 0x810)) 0 13
        let x := if badHeader p then p else q
        let slot := regN s.dev (a + 0x808) + 2 ^ 32 * fld (regN s.dev (a + 0x80C)) 0 8 + 128 * (regN s.dev (a + 0xA00) % size)
        let w := if size = 0 then d1 else agentWrite d1 (.die i) slot (deadRecord x reason from' 63 (regN s.dev (a + 0xA00))) false
        let lost (d : Dev) : Prop := d.mem = w.mem ∧ regN d (a + 0xA00) = (regN s.dev (a + 0xA00) + 1) % 2 ^ 32 ∧ Recorded w d a 2 0x100 8
          ∧ d.out = w.out ∧ d.board = w.board
        (∃ d1, Ends (.packetRoute site arrival p) s (settle (errorAnswer d1 i x)) ∧ lost d1)
        ∧ (w.board = s.dev.board → x.typ ≠ 1 → x.typ ≠ 2 → Gives (.packetRoute site arrival p) s lost))
      ∧ (badHeader p = false → r.1 = .eject → fld p.dst.toNat 11 2 = i →
        Gives (.packetRoute site arrival p) s (fun d => OnlyMeters (Meter a) (emit s.dev (.eject i q)) d))
      ∧ (badHeader p = false → (∃ n, r.1 = .port n ∧ siteOfPort n ≠ i ∧ ¬ (dieUp s.dev (siteOfPort n) = true
          ∧ (ownState s.dev (pgOfPort n) = stOff ∨ ownState s.dev (pgOfPort n) = stFenced)))
          ∨ (r.1 = .eject ∧ fld p.dst.toNat 11 2 ≠ i) →
        s.dev.board.routeChange = true → Gives (.packetRoute site arrival p) s (fun d =>
          sget noHeld d.relayHeld i = sget noHeld s.dev.relayHeld i ++ [⟨decide (from' ≠ 63), q, from'⟩] ∧ Sent s.dev d [] ∧ d.mem = s.dev.mem))
      ∧ (∀ n, badHeader p = false → r.1 = .port n → siteOfPort n = i → ownState s.dev (pgOfPort n) ≠ stOff →
        ownState s.dev (pgOfPort n) ≠ stFenced → linkState s.dev n ≠ lsUp →
        Gives (.packetRoute site arrival p) s (fun d => (getPort d n).held = (getPort s.dev n).held
            ++ [⟨decide (from' ≠ 63), q, from'⟩]
          ∧ Sent s.dev d [] ∧ d.mem = s.dev.mem)))
    ∧ Gives .creditExchange s (fun d => d = { s.dev with creditSeen := d.creditSeen }
        ∧ ∀ n, n < 50 → sget zeroNat d.creditSeen n = sget zeroNat (getPort s.dev n).credits 4)
    ∧ ∀ (engine : Fin 13) (lanes : List (Fin 16 × W32)) (relocked : Option (Fin 16)),
      let a := pgOpt engine.val
      let shown (d : Dev) : Prop := (lanes.map (·.1)).Nodup →
        ∀ x ∈ lanes, regN d (a + 0x820 + 4 * x.1.val) = x.2.toNat % 2 ^ 20 + 2 ^ 24 * fld x.2.toNat 24 2
      commitPending s.dev a = false → Calm s.dev a →
      (∀ x, relocked = some x → 50 ≤ portOfLane engine.val x.val ∨ linkBusy s.dev (portOfLane engine.val x.val) = false) →
      Gives (.ringHeaterUpdate engine lanes relocked none) s (fun d => shown d ∧ (relocked ≠ none → Recorded s.dev d a 1 0x100 8)
        ∧ d.board = s.dev.board ∧ d.ports = s.dev.ports ∧ d.mem = s.dev.mem)
      ∧ ∀ y : Fin 16, Gives (.ringHeaterUpdate engine lanes none (some y)) s (fun d => shown d ∧ Recorded s.dev d a 3 0x102 10
        ∧ (portOfLane engine.val y.val < 50 → bvBit (getPort d (portOfLane engine.val y.val)).failedLanes (y.val % 4) = true)
        ∧ d.mem = s.dev.mem)

/-! ## The Sorter, chunks, buckets and post boxes (R275 to R283, R371 to R377, R386 to R415, R423 to R438) -/

namespace Sys2Proof.Machine

/-- No word holds a stored error, no page injects one and no die is filled with poison: reads and writes of memory wait for nothing, and raise
nothing but the errors of absent addresses and of code ranges (R153, R286, R297, R298, R303). -/
def MemoryQuiet (d : Dev) : Prop :=
  d.hbmErr = [] ∧ d.hbmTag = [] ∧ d.sramErr = [] ∧ d.filling = 0 ∧ d.fillDue = 0 ∧ ∀ page, page % 0x1000 = 0 → NotArmed d page
/-- The counter of a posted docket has been incremented, when it names one (R181). -/
def Bumped (d d' : Dev) (i : Nat) (p : Posted) : Prop :=
  p.ctrEn = true → cReg (getCtx d' (ctxKey i p.core.val p.ctx.val)) p.ctr.toNat = cReg (getCtx d (ctxKey i p.core.val p.ctx.val)) p.ctr.toNat + 1
/-- The FAIL notices of a docket (R413). -/
def failNotices (d : Dev) (i : Nat) (k : Docket) (status : Byte) (origin : BitVec 16) : List Out :=
  let ex := exchanged (planIn d k)
  (if ex = [] then (List.range (dkN d k)).filter (· ≠ k.self) else ex).map
    (fun j => .failNotice i j ⟨Fin.ofNat 256 (dkGroup (dkWord k)), k.cseq, status, origin⟩)
/-- What a docket that fails leaves: it is gone, its counter is incremented and its class D raised (R413). -/
def DocketFailed (d d' : Dev) (i : Nat) (k : Docket) (code : Nat) : Prop :=
  findDocket d' i k.id = none ∧ Bumped d d' i k.post ∧ Recorded d d' (pgSorter i) 2 code ((blockErrBit .sorter code).getD 1)
  ∧ d'.board = d.board
/-- A chunk as it leaves, with a fresh check (R371). -/
def sentChunk (d : Dev) (i e : Nat) (h : BitVec 512) (payload : List Byte) : Out :=
  let c : Chunk := ⟨BitVec.ofNat 512 (setFld h.toNat 256 64 (chunkCheck (gPoly e) h payload)), payload⟩
  .chunk i c (chunkPackets d i e c)
/-- The Sorter of a die runs and holds back no chunk. -/
abbrev SorterOpen (d : Dev) (i : Nat) : Prop := ownState d (pgSorter i) = stRunning ∧ (getSorter d i).reorder = []

end Sys2Proof.Machine

/-- The oldest posted docket is accepted in turn: counted, given its class's next CSEQ and its group's next number. One that a rule makes
bad fails with BAD_DOCKET, and where its group does not hold the Sorter takes no CSEQ. A held or stopped Sorter accepts none (R386 to
R388, R393, R450, R470). -/
def Sys2Proof.Claims.DocketAcceptance : Prop :=
  ∀ (site : Site) (replica : Fin 3) (s : State), Steady s.dev →
    let i := site.val
    let a := pgSorter i
    let x := getSorter s.dev i
    (x.waiting = [] ∨ ownState s.dev a ≠ stRunning ∨ sorterHeld s.dev i = true → Ends (.docketAccept site replica) s s.dev)
    ∧ ∀ p rest, x.waiting = p :: rest → p.triggered = false → SorterOpen s.dev i → sorterHeld s.dev i = false → x.held = [] → x.fates = [] →
      MemoryQuiet s.dev →
      let w := p.word
      let cls := gClass (grp s.dev (dkGroup w))
      let cseq := nextCseq s.dev i cls
      let took (d : Dev) : Prop := (getSorter d i).waiting = rest ∧ regN d (a + 0xB00) = (regN s.dev (a + 0xB00) + 1) % 2 ^ 32
        ∧ d.board = s.dev.board
      let bad (d : Dev) : Prop := took d ∧ Recorded s.dev d a 2 0x102 10 ∧ Bumped s.dev d i p
      (w.toNat = opOptstep + dkAux w * 2 ^ 192 → dkAux w % 64 = 0 → dieRange s.dev i (dkAux w) 128 = true →
        Gives (.docketAccept site replica) s (fun d => took d ∧ SameMemory s.dev d
          ∧ (getSorter d i).dockets = x.dockets ++ [newDocket x.nextId p 0xFFFFFFFF 0 0 0]))
      ∧ (dkOp w ≠ opOptstep → sget noFlag s.dev.book.damaged (replicaKey i (dkGroup w)) = false →
        (∀ me, replica = 0 → memberIndex s.dev i (dkGroup w) = some me →
          (docketBad s.dev i w me = false → Gives (.docketAccept site replica) s (fun d => took d ∧ SameMemory s.dev d
            ∧ nextCseq d i cls = cseq + 1
            ∧ (getSorter d i).dockets = x.dockets ++ [newDocket x.nextId p cseq cls me (sget zero64 x.numbers (dkGroup w))]
            ∧ sget zero64 (getSorter d i).numbers (dkGroup w) = sget zero64 x.numbers (dkGroup w) + 1))
          ∧ (docketBad s.dev i w me = true → Gives (.docketAccept site replica) s (fun d => bad d ∧ nextCseq d i cls = cseq + 1)))
        ∧ (replica = 0 → memberIndex s.dev i (dkGroup w) = none →
          Gives (.docketAccept site replica) s (fun d => bad d ∧ (getSorter d i).dockets = x.dockets ∧ ∀ c, c < 16 → nextCseq d i c = nextCseq s.dev i c))
        ∧ (replica = 2 → Calm s.dev pgBook → Gives (.docketAccept site replica) s (fun d => bad d ∧ (getSorter d i).dockets = x.dockets
          ∧ Recorded s.dev d pgBook 2 0x101 9)))

/-- A docket of any operation starts in the order of its class: it has read what it contributes and formed the chunks it can send, with
every chunk of its first phase. One whose turn has not come waits, and one whose lanes are not all in service fails with LANE_DOWN. A
GATHER_DROP takes its slot when the slot is FREE (R389, R392, R395 to R402, R414). -/
def Sys2Proof.Claims.DocketsStart : Prop :=
  ∀ (site : Site) (id : Nat) (s : State) (k : Docket), Steady s.dev → findDocket s.dev site.val id = some k →
    let i := site.val
    (∀ c ∈ ([(.allreduce site id, opAllreduce), (.reduceScatter site id, opReduceScatter), (.allgather site id, opAllgather),
        (.broadcast site id, opBroadcast), (.reduce site id, opReduce), (.alltoall site id, opAlltoall), (.alltoallv site id, opAlltoallv),
        (.barrier site id, opBarrier), (.send site id, opSend), (.recv site id, opRecv), (.norm site id, opNorm),
        (.gatherDrop site id, opGather)] : List (Instr × Nat)),
      (dkOp (dkWord k) ≠ c.2 ∨ (k.started = false ∧ mayStart s.dev i k = false) → Ends c.1 s s.dev)
      ∧ (dkOp (dkWord k) = c.2 → mayStart s.dev i k = true → SorterOpen s.dev i → MemoryQuiet s.dev →
        let lanes := gLaneList (dkEntry s.dev k)
        ((∃ l ∈ lanes, pageFenced s.dev (pgSlane i l) = true) →
          Gives c.1 s (fun d => DocketFailed s.dev d i k 0x123 ∧ Sent s.dev d (failNotices s.dev i k 11 (BitVec.ofNat 16 k.self))))
        ∧ ((∀ l ∈ lanes, pageFenced s.dev (pgSlane i l) = false) → dkNoise (dkWord k) = false → (getSorter s.dev i).held = [] →
          (getSorter s.dev i).refused = [] →
          let r := startData s.dev i { k with started := true }
          let r := if c.2 = opGather then claimSlot r.1 i r.2 else r
          let x := advance (enginePhases r.1 r.2) r.1 i r.2
          r.2.doom = 0 → x.2.doom = 0 → Gives c.1 s (fun d => findDocket d i id = some x.2 ∧ x.2.started = true ∧ d.mem = x.1.mem
            ∧ (c.2 ≠ opGather → planOf (planIn s.dev k) ≠ [] → k.next = 0 → k.ended = false →
                ∀ y ∈ sendsAt (planIn s.dev k) 0, ∃ o ∈ x.2.todo, o.dst = y.rcv ∧ o.phase = 0)
            ∧ (c.2 = opGather → slotState s.dev i (dkRegion (dkWord k)) ≠ slFree → x.2.claimed = k.claimed)))))

/-- OPTSTEP whose parameter block breaks a rule changes no memory and reports status 4; any other leaves memory and its result record as its
regions give them; the record is then written, the counter incremented, and poison or dropped mask bits are class D (R268, R275, R279,
R281 to R283). -/
def Sys2Proof.Claims.OptstepRuns : Prop :=
  ∀ (site : Site) (id : Nat) (s : State) (k : Docket), Steady s.dev → findDocket s.dev site.val id = some k →
    dkOp (dkWord k) = opOptstep → MemoryQuiet s.dev →
    let i := site.val
    let aux := dkAux (dkWord k)
    let b := memRead s.dev aux 128
    let x := optRun s.dev i aux
    (mayStart s.dev i k = false → Ends (.optstep site id) s s.dev)
    ∧ (mayStart s.dev i k = true → Gives (.optstep site id) s (fun d =>
        findDocket d i id = some { k with started := true, ended := true, report := toBytes 5 x.2.1 ++ x.2.2 } ∧ d.mem = x.1.mem
        ∧ (b.2.1 = false → paramBad (optParam b.1) = true → SameMemory s.dev d ∧ bytesAt x.2.2 0 4 = 4)
        ∧ (b.2.1 = true → SameMemory s.dev d ∧ bytesAt x.2.2 0 4 = 6)))
    ∧ (k.ended = false → Ends (.optstepComplete site id) s s.dev)
    ∧ (k.ended = true →
      let at' := bytesAt k.report 0 5
      let record := k.report.drop 5
      let status := bytesAt record 0 4
      Gives (.optstepComplete site id) s (fun d => findDocket d i id = none ∧ Bumped s.dev d i k.post ∧ d.board = s.dev.board
        ∧ d.mem = (if at' % 64 = 0 ∧ dieRange s.dev i at' 64 = true then agentWrite s.dev (.die i) at' record false else s.dev).mem
        ∧ (status = 6 → Recorded s.dev d (pgSorter i) 2 0x103 11) ∧ (status = 7 → Recorded s.dev d (pgSorter i) 2 0x106 14)))

/-- A lane sends the next chunk of the earliest docket that has one, numbered and checked; a retry request reads a chunk again from its
source and sends it with its first count, a RESUME sends a kept chunk again, a HOLD keeps it. A chunk that fails its check is asked for once, then fails its docket; one ahead of its count is a gap, one behind
it a duplicate; one whose docket has not started waits in held mail while there is room; one in its turn is accepted. A retry that is
late ends the collective, a chunk held too long is dropped (R371 to R377, R390, R406 to R408, R411). -/
def Obligations.Chunks : Prop :=
  ∀ (site : Site) (lane : Fin 4) (s : State), Steady s.dev →
    let i := site.val
    let a := pgSorter i
    let mark := pgLaneMark i lane.val
    let x := getSorter s.dev i
    SorterOpen s.dev i → MemoryQuiet s.dev →
    (x.dockets.find? (fun k => (nextOut s.dev k lane.val).isSome) = none → Ends (.chunkSend site lane) s s.dev)
    ∧ (∀ k o, x.dockets.find? (fun k => (nextOut s.dev k lane.val).isSome) = some k → nextOut s.dev k lane.val = some o →
      findDocket s.dev i k.id = some k →
      let ak := aliveKey lane.val (dkGroup (dkWord k)) o.dst
      let alive := sget zero32 x.aliveTx ak
      Gives (.chunkSend site lane) s (fun d => Sent s.dev d [sentChunk s.dev i (dkEntry s.dev k) (chunkHeader k o alive) o.payload]
        ∧ sget zero32 (getSorter d i).aliveTx ak = alive + 1 ∧ SameMemory s.dev d
        ∧ ∃ c, findDocket d i k.id = some { k with todo := k.todo.erase o, sent := k.sent ++ [c] } ∧ c.peer = o.dst ∧ c.index = o.index))
    ∧ (∀ n : ChunkName,
      let hit (c : ChunkRec) : Bool := c.peer == n.peer.toNat && c.phase % 256 == n.phase.toNat && c.index == n.chunk.toNat && !c.again
      let found := x.dockets.find? (fun k => dkOp k.post.word != opOptstep && dkGroup k.post.word == n.group.val && k.cseq == n.cseq && k.sent.any hit)
      (found = none → Ends (.e2eRetryRequest site n) s s.dev)
      ∧ (∀ k c, found = some k → k.sent.find? hit = some c → c.lane < 4 → findDocket s.dev i k.id = some k →
        let again := (chunkAgain (incSat s.dev (pgLaneMark i c.lane + 0x828)) i k c).2
        let h := match again with | some o => chunkHeader k o (chAlive c.header) | none => c.header
        let bytes := match again with | some o => o.payload | none => c.payload
        Gives (.e2eRetryRequest site n) s (fun d => Sent s.dev d [sentChunk s.dev i (dkEntry s.dev k) h bytes]
          ∧ SameMemory s.dev d ∧ findDocket d i k.id = some { k with sent := k.sent.map (fun y => if y = c then { y with again := true } else y) }
          ∧ regN d (pgLaneMark i c.lane + 0x828) = min m32 (regN s.dev (pgLaneMark i c.lane + 0x828) + 1)))
      ∧ (let sentBefore := x.past ++ (x.dockets.filter (fun k => dkOp k.post.word != opOptstep)).flatMap
            (fun k => k.sent.map (fun c => (dkGroup k.post.word, k.cseq, c)))
         let kept := sentBefore.find? (fun e => e.1 == n.group.val && e.2.1 == n.cseq && e.2.2.peer == n.peer.toNat
            && e.2.2.phase % 256 == n.phase.toNat && e.2.2.index == n.chunk.toNat)
         Ends (.holdNotice site n) s (match kept with
           | some e => putSorter s.dev i { x with kept := x.kept.filter (· ≠ e) ++ [e] }
           | none => s.dev)))
    ∧ (∀ (group : Fin 256) (cseq : W32) (peer : BitVec 16),
      let mine (e : Nat × W32 × ChunkRec) : Bool := e.1 == group.val && e.2.1 == cseq && e.2.2.peer == peer.toNat
      Gives (.resumeNotice site group cseq peer) s (fun d => (getSorter d i).kept = x.kept.filter (fun e => !mine e)
        ∧ Sent s.dev d ((x.kept.filter mine).map (fun e => sentChunk s.dev i (grp s.dev group.val) e.2.2.header e.2.2.payload))))
    ∧ (∀ idx, (regN s.dev (a + 0x804) = 0 ∨ x.held[idx]? = none → Ends (.heldExpired site idx) s s.dev)
      ∧ ∀ e, x.held[idx]? = some e → regN s.dev (a + 0x804) ≠ 0 → Gives (.heldExpired site idx) s (fun d =>
          (getSorter d i).held = x.held.eraseIdx idx ∧ regN d (a + 0xB04) = heldBytes s.dev i - chunkSize e.2
          ∧ Recorded s.dev d a 1 0x109 17 ∧ d.board = s.dev.board))
    ∧ (∀ (group : Fin 256) (peer : BitVec 16),
      let asked := x.retries.find? (fun r => r.lane == lane.val && r.group == group.val && r.peer == peer.toNat)
      (regN s.dev (mark + 0x800) = 0 ∨ asked = none → Ends (.retryTimeout site lane group peer) s s.dev)
      ∧ (regN s.dev (mark + 0x800) ≠ 0 → asked.isSome = true → Calm s.dev mark →
        Gives (.retryTimeout site lane group peer) s (fun d => Recorded s.dev d mark 2 0x104 12 ∧ d.board = s.dev.board)))
    ∧ ∀ c : Chunk,
      let h := c.header
      let r := chunkName lane.val h
      let e := grp s.dev (chGroup h)
      let alive := sget zero32 x.aliveRx (aliveKey lane.val r.group r.peer)
      (gEnable e = false ∨ chCheck h ≠ chunkCheck (gPoly e) h c.payload → Calm s.dev mark →
        (r ∉ x.retries → Gives (.chunkReceive site lane c) s (fun d => Sent s.dev d [.retryRequest i (noticeName r)]
          ∧ (getSorter d i).retries = x.retries ++ [r] ∧ Recorded s.dev d mark 1 0x100 8 ∧ SameMemory s.dev d))
        ∧ (r ∈ x.retries → Gives (.chunkReceive site lane c) s (fun d => Recorded s.dev d mark 2 0x101 9 ∧ d.board = s.dev.board)))
      ∧ (gEnable e = true → chCheck h = chunkCheck (gPoly e) h c.payload → mustWait s.dev i lane h = false → r ∉ x.refused →
        (chAlive h ≠ alive → Calm s.dev mark →
          (atOrAbove (chAlive h) alive = true → Gives (.chunkReceive site lane c) s (fun d => Recorded s.dev d mark 2 0x103 11
            ∧ regN d (mark + 0x830) = min m32 (regN s.dev (mark + 0x830) + 1) ∧ d.board = s.dev.board))
          ∧ (atOrAbove (chAlive h) alive = false → Gives (.chunkReceive site lane c) s (fun d => Recorded s.dev d mark 1 0x102 10
            ∧ regN d (mark + 0x82C) = min m32 (regN s.dev (mark + 0x82C) + 1) ∧ SameMemory s.dev d
            ∧ (getSorter d i).dockets = x.dockets)))
        ∧ (∀ k, chAlive h = alive → docketOf s.dev i (chClass h) (chCseq h) = some k → dkGroup (dkWord k) = chGroup h →
          chunkOpFits (dkOp (dkWord k)) (chOp h) = true →
          let counted' (d : Dev) : Prop := sget zero32 (getSorter d i).aliveRx (aliveKey lane.val r.group r.peer) = alive + 1
          (k.started = false → heldBytes s.dev i + chunkSize c ≤ heldMail → Gives (.chunkReceive site lane c) s (fun d => counted' d
            ∧ (getSorter d i).held = x.held ++ [(lane, c)] ∧ regN d (a + 0xB04) = heldBytes s.dev i + chunkSize c ∧ Sent s.dev d []))
          ∧ (k.started = false → heldMail < heldBytes s.dev i + chunkSize c → Gives (.chunkReceive site lane c) s (fun d => counted' d
            ∧ (getSorter d i).refused = x.refused ++ [r] ∧ Sent s.dev d [.holdNotice i (noticeName r)]))
          ∧ (∀ y, k.started = true → findDocket s.dev i k.id = some k → xferOf s.dev k h = some y → chDst h = k.self →
            (expectedTotal s.dev k y = none ∨ expectedTotal s.dev k y = some (chTotal h)) → dkOp (dkWord k) ≠ opAlltoallv →
            chPois h = false → chLast h = false → k.doom = 0 → Gives (.chunkReceive site lane c) s (fun d => counted' d
              ∧ findDocket d i k.id = some { k with got := k.got ++ [⟨y.snd, y.ph, chIndex h, lane.val, h, c.payload, false⟩] }
              ∧ SameMemory s.dev d ∧ Sent s.dev d []))))

/-- A docket that stalls, fails on its own member or hears of a failure sends its notices, counts and raises the class D of its status; one
that has made every transfer and written its results leaves its records and counts. ACC_CLR clears what its bits name (R394,
R409, R410, R412, R413, R415). -/
def Sys2Proof.Claims.DocketsEnd : Prop :=
  ∀ (site : Site) (s : State), Steady s.dev →
    let i := site.val
    let a := pgSorter i
    (∀ id k, findDocket s.dev i id = some k → dkOp (dkWord k) ≠ opOptstep → SorterOpen s.dev i → MemoryQuiet s.dev →
      (k.started = true → regN s.dev (a + 0x804) ≠ 0 → Gives (.watchdogExpire site id) s (fun d => DocketFailed s.dev d i k 0x101
        ∧ Sent s.dev d (failNotices s.dev i k 3 (BitVec.ofNat 16 k.self))))
      ∧ (k.started = false ∨ regN s.dev (a + 0x804) = 0 → Ends (.watchdogExpire site id) s s.dev)
      ∧ (∀ (status : Byte) code, statusCode status.toNat false = some code → Gives (.docketFail site id status) s (fun d =>
          DocketFailed s.dev d i k code ∧ Sent s.dev d (failNotices s.dev i k status (BitVec.ofNat 16 k.self))))
      ∧ (Gives (.docketFail site id 12) s (fun d => findDocket d i id = none ∧ Bumped s.dev d i k.post ∧ Sent s.dev d []
          ∧ regN d (a + oErrStat) = regN s.dev (a + oErrStat)))
      ∧ (∀ f : FailInfo, docketOf s.dev i (gClass (grp s.dev f.group.val)) f.cseq = some k → dkGroup (dkWord k) = f.group.val → f.status ≠ 12 →
          Gives (.failNotice site f) s (fun d => DocketFailed s.dev d i k 0x105 ∧ Sent s.dev d (failNotices s.dev i k f.status f.origin)))
      ∧ (k.ended = false ∨ k.todo ≠ [] ∨ k.doom ≠ 0 ∨ foldWaits s.dev i k = true → Ends (.docketComplete site id) s s.dev)
      ∧ (k.ended = true → k.todo = [] → k.doom = 0 → foldWaits s.dev i k = false → dkNormAcc (dkWord k) = false → dkNoise (dkWord k) = false →
        Gives (.docketComplete site id) s (fun d => findDocket d i id = none ∧ Bumped s.dev d i k.post ∧ d.board = s.dev.board
          ∧ (statUsable s.dev i (dkStat (dkWord k)) = true → tbit (regN s.dev (a + 0x800)) 1 = false →
              d.mem = (agentWrite s.dev (.die i) (dkStat (dkWord k)) (statusRecord 1 k.cseq.toNat k.self k.nanMember k.nanElem k.ovf
                (ledgerValue k.sent) (ledgerValue k.got) k.number.toNat) false).mem)
          ∧ regN d (a + 0xB08) = min m32 (regN s.dev (a + 0xB08) + k.ovf))))
    ∧ (∀ f : FailInfo, docketOf s.dev i (gClass (grp s.dev f.group.val)) f.cseq = none →
      let cls := gClass (grp s.dev f.group.val)
      let x := getSorter s.dev i
      Ends (.failNotice site f) s (if atOrAbove f.cseq (nextCseq s.dev i cls) then
        putSorter s.dev i { x with fates := x.fates ++ [⟨cls, f.group.val, f.cseq, f.status.toNat, f.origin.toNat, true⟩] } else s.dev))
    ∧ ∀ who, Reaches s.dev who (a + 0xF08) →
      let kept := dropHeld s.dev who (a + 0xF08)
      Gives (.normAccClear who site) s (fun d => reg64 d (a + 0xBE0) = 0 ∧ (getSorter d i).normClass = none
        ∧ (∀ b, b ≠ a + 0xBE0 → b ≠ a + 0xBE4 → reg d b = reg s.dev b) ∧ d = { kept with regs := d.regs, sorters := d.sorters })
      ∧ Gives (.noiseAccClear who site) s (fun d => (hasFeature s.dev i .noise = true → reg64 d (a + 0xBE8) = 0)
        ∧ (hasFeature s.dev i .noise = false → d = kept)
        ∧ (∀ b, b ≠ a + 0xBE8 → b ≠ a + 0xBEC → reg d b = reg s.dev b) ∧ d = { kept with regs := d.regs })
      ∧ Gives (.classDigestClear who site) s (fun d => (∀ c, c < 16 → reg64 d (a + 0xB60 + 8 * c) = 0) ∧ (getSorter d i).digBase = []
        ∧ (getSorter d i).digWait = [] ∧ (∀ b, b < a + 0xB60 ∨ a + 0xBE0 ≤ b → reg d b = reg s.dev b)
        ∧ d = { kept with regs := d.regs, sorters := d.sorters })

/-- A bucket slot that is full triggers the docket its template gives, at its Sorter's turn, and is empty again; one that is not full, or more
than sixteen out, triggers none; a slot filled beyond bb is class D and ends triggering (R423, R426, R427, R450). -/
def Sys2Proof.Claims.Buckets : Prop :=
  ∀ (site : Site) (s : State), Steady s.dev →
    let i := site.val
    let a := pgSorter i
    let x := getSorter s.dev i
    let t := bucketTemplate s.dev i
    let bb := bucketBytes s.dev i
    let j := bucketNext s.dev i
    (bb = 0 ∨ tplSlots t = 0 ∨ x.trigStop = true ∨ bucketOver s.dev i = true ∨ 16 ≤ triggeredOut s.dev i ∨ ownState s.dev a ≠ stRunning
      ∨ slotFill s.dev i ((j + triggersHeld s.dev i) % tplSlots t) < bb ∨ tplSlots t ≤ triggersHeld s.dev i → Ends (.bucketTrigger site) s s.dev)
    ∧ (bb ≠ 0 → tplSlots t ≠ 0 → x.trigStop = false → bucketOver s.dev i = false → bb ≤ slotFill s.dev i (j % tplSlots t) → triggeredOut s.dev i < 16 →
      triggersHeld s.dev i = 0 → SorterOpen s.dev i →
      (sorterHeld s.dev i = true → Ends (.bucketTrigger site) s (putSorter s.dev i { x with waiting := x.waiting ++ [⟨0, 0, 0, false, 0, true⟩] }))
      ∧ (∀ me, sorterHeld s.dev i = false → x.held = [] → x.fates = [] → MemoryQuiet s.dev →
        let w := bucketDocket t bb j
        let cls := gClass (grp s.dev (dkGroup w))
        let p : Posted := ⟨w, Fin.ofNat 128 (fld t 424 7), Fin.ofNat 16 (fld t 431 4), tbit t 443, BitVec.ofNat 4 (fld t 439 4), true⟩
        dkOp w ≠ opOptstep → sget noFlag s.dev.book.damaged (replicaKey i (dkGroup w)) = false →
        memberIndex s.dev i (dkGroup w) = some me → docketBad s.dev i w me = false →
        Gives (.bucketTrigger site) s (fun d => slotFill d i (j % tplSlots t) = 0 ∧ bucketNext d i = (j + 1) % 2 ^ 32
          ∧ (getSorter d i).dockets = x.dockets
              ++ [newDocket x.nextId p (nextCseq s.dev i cls) cls me (sget zero64 x.numbers (dkGroup w))]
          ∧ nextCseq d i cls = nextCseq s.dev i cls + 1 ∧ SameMemory s.dev d)))
    ∧ ∀ slot, (bb = 0 ∨ slotFill s.dev i slot ≤ bb ∨ x.trigStop = true → Ends (.bucketOverfill site slot) s s.dev)
      ∧ (bb ≠ 0 → bb < slotFill s.dev i slot → x.trigStop = false → Gives (.bucketOverfill site slot) s (fun d =>
          (getSorter d i).trigStop = true ∧ Recorded s.dev d a 2 0x10B 19 ∧ d.board = s.dev.board ∧ SameMemory s.dev d))

/-- A box discards a packet that is not for it as class D. A GRANT gives a send box its credits and slot size, a CREDIT returns some; a send use
that is filled leaves as packets of up to 2048 bytes and completes; data packets fill the message's slot and whole messages become
present in order; a receive use that has read its message completes and returns the credit (R433 to R437). -/
def Sys2Proof.Claims.PostBoxes : Prop :=
  ∀ (site : Site) (s : State), Steady s.dev →
    let i := site.val
    (∀ p : PbPacket,
      let b := p.dstBox.toNat
      let bx := getBox s.dev i b
      let owner := boxOwner s.dev i b
      (∀ c ∈ ([(.postboxData site p, (0 : Byte), true), (.postboxGrant site p, 1, false), (.postboxCredit site p, 2, false)] :
          List (Instr × Byte × Bool)),
        (p.pkind ≠ c.2.1 → Ends c.1 s s.dev)
        ∧ (p.pkind = c.2.1 → pbStray s.dev i p c.2.2 = true → Gives c.1 s (fun d => Recorded s.dev d (pgSorter i) 2 0x10A 18
          ∧ (∀ x, getBox d i x = getBox s.dev i x) ∧ SameMemory s.dev d ∧ d.board = s.dev.board)))
      ∧ (boxWaiting s.dev i owner.1 owner.2 b = [] →
        (p.pkind = 1 → pbStray s.dev i p false = false →
          Ends (.postboxGrant site p) s (putBox s.dev i b { bx with
            credits := fld p.length.toNat 0 8, slots := fld p.length.toNat 0 8, size := fld p.length.toNat 8 16 }))
        ∧ (p.pkind = 2 → pbStray s.dev i p false = false →
          Ends (.postboxCredit site p) s (putBox s.dev i b { bx with credits := bx.credits + p.length.toNat }))
        ∧ (p.pkind = 0 → pbStray s.dev i p true = false → MemoryQuiet s.dev →
          let l := storePacket bx.msgs p.seq p.length.toNat p.index
          (pbBelow p.seq bx.seq = true → Ends (.postboxData site p) s s.dev)
          ∧ (pbBelow p.seq bx.seq = false → Gives (.postboxData site p) s (fun d =>
            getBox d i b = { bx with msgs := l, seq := bx.seq + BitVec.ofNat 32 (wholeFrom (l.length + 1) l bx.seq) }
            ∧ d.mem = (agentWrite s.dev (.die i) (pbSlotAddr s.dev i b p.seq.toNat + 2048 * p.index.toNat) p.body false).mem)))))
    ∧ ∀ box : Fin 16,
      let b := box.val
      let bx := getBox s.dev i b
      let owner := boxOwner s.dev i b
      let key := ctxKey i owner.1 owner.2
      let used (d : Dev) (r : Nat) (st : Stream) : Prop := (dReg (getCtx d key) r).active = false
        ∧ (dscCtrEn st.desc = true → cReg (getCtx d key) (dscCtr st.desc) = cReg (getCtx s.dev key) (dscCtr st.desc) + 1)
      boxEnabled s.dev i b = true → boxWaiting s.dev i owner.1 owner.2 b = [] →
      (∀ r st, boxReceives s.dev i b = false → boxStream s.dev i owner.1 owner.2 b 1 = some (r, st) → dReg (getCtx s.dev key) r = st →
        (st.pos < dscSize st.desc → Ends (.postboxSend site box) s s.dev)
        ∧ (dscSize st.desc ≤ st.pos → st.outBytes.length = dscSize st.desc → st.outBytes ≠ [] →
          let parts := chunksOf 2048 (st.outBytes.length + 1) st.outBytes
          Gives (.postboxSend site box) s (fun d => used d r st ∧ (getBox d i b).seq = bx.seq + 1
            ∧ Sent s.dev d ((List.range parts.length).map (fun n =>
                .postbox i (pbPacket s.dev i b 0 n bx.seq.toNat st.outBytes.length (parts.getD n []))))
            ∧ SameMemory s.dev d)))
      ∧ (∀ r st m rest, boxReceives s.dev i b = true → boxStream s.dev i owner.1 owner.2 b 2 = some (r, st) → dReg (getCtx s.dev key) r = st →
        bx.msgs = m :: rest →
        (st.pos < dscSize st.desc → Ends (.postboxReceiveUse site box) s s.dev)
        ∧ (dscSize st.desc ≤ st.pos → Gives (.postboxReceiveUse site box) s (fun d => used d r st ∧ (getBox d i b).msgs = rest
          ∧ Sent s.dev d [.postbox i (pbPacket s.dev i b 2 0 m.seq.toNat 1 [])] ∧ SameMemory s.dev d)))

/-! ## Twin planes (R449 to R460) -/

namespace Sys2Proof.Machine

/-- A message of the twin unit without payload. -/
def twinOut (code a b c : Nat) : Out := .twinMsg code (BitVec.ofNat 64 a) (BitVec.ofNat 64 b) (BitVec.ofNat 64 c)
/-- The verdict register: verdict, differing dies, reason. -/
def verdictIs (d : Dev) (code diff reason : Nat) : Prop := regN d (twReg 0xA0C) = code + 16 * diff + 256 * reason
/-- A recopy has ended in failure (R454). -/
def RecopyFailed (d d' : Dev) : Prop :=
  twinState d' = twDiverged ∧ recopyDies d' = 0 ∧ d'.twin.resync = none ∧ d'.twin.joiner = false
  ∧ Recorded d d' (twinPage d) 2 0x10A 18 ∧ d'.mem = d.mem
/-- The twin is taken to be lost: SOLO with the Sorters held that have contributed to the next seal, or, in a recopy, DIVERGED (R455). -/
def TwinLost (d d' : Dev) : Prop :=
  Recorded d d' (twinPage d) 2 0x109 17 ∧ d'.mem = d.mem ∧ d'.board = d.board
  ∧ (twinState d = twSend ∨ twinState d = twRecv → twinState d' = twDiverged ∧ recopyDies d' = 0)
  ∧ (twinState d ≠ twSend → twinState d ≠ twRecv → twinState d' = twSolo ∧ heldDies d' = d.twin.given.toNat
      ∧ d'.twin.peerSeal = none ∧ d'.twin.sentFences = [])
/-- The CRC of a die's class digests, which a seal names as its ledger digest (R449). -/
def ledgerDigest (d : Dev) (s : Nat) : Nat := crc64 ((List.range 16).flatMap (fun c => toBytes 8 (reg64 d (pgSorter s + 0xB60 + 8 * c))))

end Sys2Proof.Machine

/-- SEAL_GO takes the digests of the dies it names and holds their Sorters; when none in service is missing the seal is formed with the step,
the dies and their digests, and sent by a TWINNED package; dies that disagree on the step make it DIVERGED. A twin's seal is compared with the
own one: equal seals release the Sorters, differing ones without errors on one side start a recopy from there, any others diverge
(R449 to R452). -/
def Obligations.TwinSeals : Prop :=
  ∀ s : State, Steady s.dev →
    let st := twinState s.dev
    (∀ (who : Requester) (dies : BitVec 4), Reaches s.dev who (pgTwin 0 + 0xF50) →
      let kept := dropHeld s.dev who (pgTwin 0 + 0xF50)
      let step := match (List.range 4).filter (dieUp s.dev) with | x :: _ => stepOf s.dev x | [] => 0
      let all := ∀ x, x < 4 → dies.getLsbD x = dieUp s.dev x
      (st = twOff → Ends (.sealGo who dies) s kept)
      ∧ (st ≠ twOff → (∃ x, x < 4 ∧ dieUp s.dev x = true ∧ s.dev.twin.given.getLsbD x = false ∧ dies.getLsbD x = false) →
        Gives (.sealGo who dies) s (fun d => Sent s.dev d [] ∧ d.mem = s.dev.mem ∧ ∀ x, x < 4 →
          d.twin.given.getLsbD x = (s.dev.twin.given.getLsbD x || (dies.getLsbD x && dieUp s.dev x))
          ∧ (dieUp s.dev x = true → dies.getLsbD x = true → s.dev.twin.given.getLsbD x = false →
              sorterHeld d x = true ∧ (sget zero64 d.twin.ledgers x).toNat = ledgerDigest s.dev x % 2 ^ 64
              ∧ ∀ c, c < 16 → reg64 d (pgSorter x + 0xB60 + 8 * c) = 0)))
      ∧ (all → dies ≠ 0 → s.dev.twin.given = 0 → (∀ x, x < 4 → dieUp s.dev x = true → stepOf s.dev x = step) →
        let formed (x : BitVec 768) (d : Dev) : Prop := sealStep x = step ∧ sealMask x = dies.toNat ∧ lastStep d = step
          ∧ d.twin.given = 0 ∧ d.twin.ownSeal = some x ∧ (∀ y, y < 4 → dieUp s.dev y = true →
            sealLedger x y = ledgerDigest s.dev y % 2 ^ 64 ∧ sealShard x y = shardDigest s.dev y) ∧ d.mem = s.dev.mem
        (st = twTwinned → s.dev.twin.peerSeal = none → Gives (.sealGo who dies) s (fun d =>
          twinState d = twHold ∧ ∃ x, formed x d ∧ Sent s.dev d [.twinSeal x]))
        ∧ (st = twSolo → Gives (.sealGo who dies) s (fun d => twinState d = twSolo ∧ heldDies d = 0 ∧ Sent s.dev d [] ∧ ∃ x, formed x d)))
      ∧ (all → dies ≠ 0 → s.dev.twin.given = 0 → st ≠ twOff → (∃ x, x < 4 ∧ dieUp s.dev x = true ∧ stepOf s.dev x ≠ step) →
        Gives (.sealGo who dies) s (fun d => twinState d = twDiverged ∧ verdictIs d 4 0 1
          ∧ Recorded s.dev d (twinPage s.dev) 2 0x10B 19 ∧ Sent s.dev d [])))
    ∧ ∀ peer : BitVec 768,
      (st = twOff → Ends (.twinSeal peer) s s.dev)
      ∧ (st ≠ twOff → (st ≠ twHold ∨ s.dev.twin.ownSeal = none) → Gives (.twinSeal peer) s (fun d => d.twin.peerSeal = some peer
        ∧ shownPeer d = peer ∧ twinState d = st ∧ d = { s.dev with regs := d.regs, twin := d.twin }))
      ∧ ∀ own, st = twHold → s.dev.twin.ownSeal = some own →
        let diff := sealDiff own peer
        let agree := sealStep own = sealStep peer ∧ sealMask own = sealMask peer
        let mine := sealEvents own
        let theirs := sealEvents peer
        let diverges (reason : Nat) : Prop := Gives (.twinSeal peer) s (fun d => twinState d = twDiverged ∧ verdictIs d 4 diff reason
          ∧ Recorded s.dev d (twinPage s.dev) 2 0x108 16 ∧ d.twin.peerSeal = none ∧ d.mem = s.dev.mem)
        (agree → diff = 0 → Gives (.twinSeal peer) s (fun d => twinState d = twTwinned ∧ heldDies d = 0 ∧ verdictIs d 1 0 0
          ∧ d.twin.peerSeal = none ∧ Sent s.dev d []))
        ∧ (agree → diff ≠ 0 → mine ≠ 0 → theirs = 0 → Gives (.twinSeal peer) s (fun d => twinState d = twRecv ∧ recopyDies d = diff
          ∧ verdictIs d 3 diff 0 ∧ d.twin.recopyCrc = 0 ∧ Sent s.dev d []))
        ∧ (agree → diff ≠ 0 → mine = 0 → theirs ≠ 0 → (∀ x r, x < 4 → r < 8 → (stateList s.dev x r).2 = 0) →
          Gives (.twinSeal peer) s (fun d => twinState d = twSend ∧ recopyDies d = diff ∧ verdictIs d 2 diff 0
            ∧ Sent s.dev d (twinOut 3 diff (listCrc s.dev) 0 :: ((List.range 4).filter (tbit diff)).map (fun x => twinOut 5 0 x 0))))
        ∧ (sealStep own ≠ sealStep peer → diverges 1)
        ∧ (sealStep own = sealStep peer → sealMask own ≠ sealMask peer → diverges 2)
        ∧ (agree → diff ≠ 0 → (mine = 0 ↔ theirs = 0) → diverges 3)

/-- A receiver whose state lists agree takes the bytes of a recopy into their ranges; a list, a byte or a CRC that does not hold ends it
DIVERGED. After the last die's CRC it answers status 0, and both packages are TWINNED with their Sorters released, or hold where a twin
joins again (R453, R454, R458). -/
def Sys2Proof.Claims.Recopies : Prop :=
  ∀ s : State, Steady s.dev →
    let st := twinState s.dev
    (∀ (mask : BitVec 4) (crc : W64),
      (st ≠ twRecv → st ≠ twJoining → Ends (.recopyBegin mask crc) s s.dev)
      ∧ (st = twRecv ∨ st = twJoining →
        (crc.toNat = listCrc s.dev → Gives (.recopyBegin mask crc) s (fun d => twinState d = twRecv ∧ recopyDies d = mask.toNat
          ∧ d.twin.recopyCrc = 0 ∧ d.twin.joiner = (s.dev.twin.joiner || st == twJoining) ∧ Sent s.dev d [] ∧ d.mem = s.dev.mem))
        ∧ (crc.toNat ≠ listCrc s.dev → Gives (.recopyBegin mask crc) s (fun d => RecopyFailed s.dev d ∧ Sent s.dev d [twinOut 6 1 0 0]))))
    ∧ (∀ (site : Site) (range : Fin 8) (off : W64) (data : List Byte),
      let x := stateList s.dev site.val range.val
      let bs := data.take (x.2 - off.toNat)
      (st ≠ twRecv ∨ tbit (recopyDies s.dev) site.val = false → ∀ poison, Ends (.recopyData site range off data poison) s s.dev)
      ∧ (st = twRecv → tbit (recopyDies s.dev) site.val = true →
        Gives (.recopyData site range off data true) s (RecopyFailed s.dev)
        ∧ (MemoryQuiet s.dev → Gives (.recopyData site range off data false) s (fun d =>
          d.mem = (agentWrite s.dev .manager (x.1 + off.toNat) bs false).mem
          ∧ d.twin.recopyCrc = BitVec.ofNat 64 (crc64From s.dev.twin.recopyCrc.toNat bs)
          ∧ reg64 d (twReg 0xA18) = (reg64 s.dev (twReg 0xA18) + bs.length) % 2 ^ 64 ∧ twinState d = twRecv))))
    ∧ (∀ (site : Site) (crc : W64),
      let more := ∃ y, y < 4 ∧ site.val < y ∧ tbit (recopyDies s.dev) y = true
      (st ≠ twRecv ∨ tbit (recopyDies s.dev) site.val = false → Ends (.recopyEnd site crc) s s.dev)
      ∧ (st = twRecv → tbit (recopyDies s.dev) site.val = true →
        (crc ≠ s.dev.twin.recopyCrc → Gives (.recopyEnd site crc) s (fun d => RecopyFailed s.dev d ∧ Sent s.dev d [twinOut 6 2 0 0]))
        ∧ (crc = s.dev.twin.recopyCrc →
          (more → Ends (.recopyEnd site crc) s { s.dev with twin := { s.dev.twin with recopyCrc := 0 } })
          ∧ (¬ more → s.dev.twin.joiner = false → Gives (.recopyEnd site crc) s (fun d => twinState d = twTwinned ∧ heldDies d = 0
            ∧ recopyDies d = 0 ∧ Sent s.dev d [twinOut 6 0 0 0] ∧ d.mem = s.dev.mem
            ∧ ∀ own, s.dev.twin.ownSeal = some own → d.twin.ownSeal = some (adoptSeal own (shownPeer s.dev) (recopyDies s.dev))))
          ∧ (¬ more → s.dev.twin.joiner = true → Gives (.recopyEnd site crc) s (fun d => twinState d = twResync ∧ recopyDies d = 0
            ∧ lastStep d = sealStep (shownPeer s.dev) ∧ Sent s.dev d [twinOut 6 0 0 0] ∧ d.mem = s.dev.mem)))))
    ∧ ∀ status : Byte,
      (st ≠ twSend → Ends (.recopyAck status) s s.dev)
      ∧ (st = twSend → status ≠ 0 → Gives (.recopyAck status) s (RecopyFailed s.dev))
      ∧ (st = twSend → s.dev.twin.resync = none → Gives (.recopyAck 0) s (fun d => twinState d = twTwinned ∧ heldDies d = 0
        ∧ recopyDies d = 0 ∧ d.mem = s.dev.mem))
      ∧ (st = twSend → s.dev.twin.resync ≠ none → Gives (.recopyAck 0) s (fun d => twinState d = twResync ∧ d.twin.resync = none
        ∧ recopyDies d = 0 ∧ d.mem = s.dev.mem))

/-- STOPPED, a seal or an acknowledgement that is late and twin ports that stay down end in the loss of the twin, where the state allows
one. A JOIN that agrees makes two JOINING packages TWINNED; one that disagrees is class D; a package that is alone answers. A mirror
fence fences the same unit and is acknowledged (R455, R457 to R460). -/
def Sys2Proof.Claims.TwinsMeetAndPart : Prop :=
  ∀ s : State, Steady s.dev →
    let st := twinState s.dev
    let page := twinPage s.dev
    let loses (i : Instr) (c : Prop) : Prop := (c → Gives i s (TwinLost s.dev)) ∧ (¬ c → Ends i s s.dev)
    loses .stopped (canLose s.dev = true)
    ∧ loses .sealWaitExpire (st = twHold ∧ rfld s.dev (twReg 0x880) 0 16 ≠ 0)
    ∧ loses .lostWaitExpire (canLose s.dev = true ∧ twinPortUp s.dev = false)
    ∧ loses .mirrorAckTimeout (s.dev.twin.sentFences ≠ [] ∧ canLose s.dev = true)
    ∧ Ends .joinResend s (if st = twJoining ∧ s.dev.twin.peerJoined = false then sendJoin s.dev else s.dev)
    ∧ (∀ (last crc : W64) (peer : BitVec 4),
      let agrees := crc.toNat = fencedCrc s.dev
      (st = twOff → Ends (.join last peer crc) s s.dev)
      ∧ (st ≠ twOff → st ≠ twJoining → st ≠ twSolo → st ≠ twArmed → Gives (.join last peer crc) s (TwinLost s.dev))
      ∧ (st = twJoining → agrees → peer.toNat = twJoining → Gives (.join last peer crc) s (fun d => twinState d = twTwinned ∧ heldDies d = 0
        ∧ d.twin.peerJoined = true ∧ Sent s.dev d [] ∧ d.mem = s.dev.mem))
      ∧ (st = twJoining → ¬ agrees → Gives (.join last peer crc) s (fun d => twinState d = st ∧ Recorded s.dev d page 2 0x10A 18
        ∧ Sent s.dev d [] ∧ d.board = s.dev.board ∧ d.mem = s.dev.mem))
      ∧ (st = twSolo ∨ st = twArmed → agrees → peer.toNat = twJoining → Gives (.join last peer crc) s (fun d => twinState d = st
        ∧ d.twin.peerJoined = true ∧ Recorded s.dev d page 1 0x10D 21 ∧ Sent s.dev d [twinOut 2 (lastStep s.dev) st (fencedCrc s.dev)]
        ∧ d.mem = s.dev.mem)))
    ∧ ∀ (kind index : Byte) (site : Site),
      let u := (kind.toNat, site.val, index.toNat)
      Ends (.fenceAck kind site index) s { s.dev with twin := { s.dev.twin with sentFences := s.dev.twin.sentFences.filter (· ≠ u) } }
      ∧ (st = twOff ∨ unitTarget u.1 u.2.1 u.2.2 = none → Ends (.mirrorFence kind site index) s s.dev)
      ∧ ∀ t, st ≠ twOff → unitTarget u.1 u.2.1 u.2.2 = some t →
        (unitFenced s.dev t = true → Ends (.mirrorFence kind site index) s (sendTwin s.dev 8 u.1 u.2.1 u.2.2))
        ∧ (kind = 1 ∨ kind = 2 → ownState s.dev (unitPage t) = stRunning → s.dev.board.fencing = [] →
          Gives (.mirrorFence kind site index) s (fun d => ownState d (unitPage t) = stDraining ∧ fenceReqd d (unitPage t) = true
            ∧ Recorded s.dev d (unitPage t) 3 0x002 2 ∧ Recorded s.dev d page 1 0x10C 20 ∧ d.twin.noticed = s.dev.twin.noticed ++ [u]
            ∧ regN d (twReg 0xA20) = min m32 (regN s.dev (twReg 0xA20) + 1) ∧ Sent s.dev d [twinOut 8 u.1 u.2.1 u.2.2] ∧ d.mem = s.dev.mem))

/-! ## Ageing, wear, counters and trace (R487 to R521) -/

namespace Sys2Proof.Machine

/-- The EVCTL register of a page. -/
def evctlOf (d : Dev) (a : Nat) : Nat := regN d (a + oEvctl)
/-- Only the eight counters of page `a` may differ. -/
def OnlyCounters (d d' : Dev) (a : Nat) : Prop :=
  d' = { d with regs := d'.regs, hiHeld := d'.hiHeld } ∧ ∀ b, ¬ (a + oEvcnt ≤ b ∧ b < a + 0x100) → reg d' b = reg d b
/-- Only bit 18 of the page's EVCTL, FROZEN, may differ. -/
def OnlyFrozen (d d' : Dev) (a : Nat) : Prop :=
  d' = { d with regs := d'.regs, hiHeld := d'.hiHeld } ∧ (∀ b, b ≠ a + oEvctl → reg d' b = reg d b)
  ∧ ∀ k, k ≠ 18 → tbit (evctlOf d' a) k = tbit (evctlOf d a) k
/-- A trace entry has been written at the number that WR_NUMBER shows; a full buffer gives up its oldest (R514, R518). -/
def Traced (d d' : Dev) (s : Nat) (e : TraceEntry) : Prop :=
  let wr := regN d (pgTrace s + 0x820)
  let full := (wr + 2 ^ 32 - regN d (pgTrace s + 0x824)) % 2 ^ 32 = traceSlots
  e.number = BitVec.ofNat 32 wr ∧ e.loc = BitVec.ofNat 64 (localCount d s)
  ∧ d' = { d with regs := d'.regs, hiHeld := d'.hiHeld, trace := sput traceDefault d.trace (traceSlots * s + wr % traceSlots) e }
  ∧ regN d' (pgTrace s + 0x820) = (wr + 1) % 2 ^ 32
  ∧ regN d' (pgTrace s + 0x824) = (regN d (pgTrace s + 0x824) + if full then 1 else 0) % 2 ^ 32
  ∧ ∀ b, b ≠ pgTrace s + 0x820 → b ≠ pgTrace s + 0x824 → reg d' b = reg d b
/-- The trace buffer takes an entry: it is not full, or it overwrites (R518). -/
abbrev TraceOpen (d : Dev) (s : Nat) : Prop :=
  ownState d (pgTrace s) ≠ stFenced ∧ (tbit (regN d (pgTrace s + 0x800)) 0 = false
    ∨ (regN d (pgTrace s + 0x820) + 2 ^ 32 - regN d (pgTrace s + 0x824)) % 2 ^ 32 ≠ traceSlots)

end Sys2Proof.Machine

/-- EVCTL: CLEAR sets counters to 0 and nothing else, FREEZE and THAW set and clear FROZEN, a 1 to OVF clears it. A running counter at
2^48 - 1 wraps to 0, sets its OVF bit, and freezes the page where FREEZE_OVF is set. FREEZE_ALL does so to every page of one die
(R504 to R508, R513). -/
def Sys2Proof.Claims.EventCounters : Prop :=
  ∀ (s : State) (page : Bar0), Steady s.dev →
    let a := pageBase page.toNat
    let old := evctlOf s.dev a
    (∀ (who : Requester), Reaches s.dev who (a + oEvctl) →
      (∀ mask : Byte, Gives (.evctlClear who page mask) s (fun d => OnlyCounters s.dev d a
        ∧ ∀ n, n < 8 → evcnt d a n = if mask.getLsbD n then 0 else evcnt s.dev a n))
      ∧ Gives (.evctlFreeze who page) s (fun d => OnlyFrozen s.dev d a ∧ frozen d a = true)
      ∧ Gives (.evctlThaw who page) s (fun d => OnlyFrozen s.dev d a ∧ frozen d a = false)
      ∧ ∀ mask : Byte, Gives (.evctlOvfClear who page mask) s (fun d =>
          (∀ k, k < 24 → tbit (evctlOf d a) k = tbit old k)
          ∧ (∀ n, n < 8 → tbit (evctlOf d a) (24 + n) = (tbit old (24 + n) && !mask.getLsbD n))
          ∧ (∀ n, n < 8 → evcnt d a n = evcnt s.dev a n) ∧ sget noFlag d.lines a = lineHigh d a ∧ d.mem = s.dev.mem))
    ∧ (∀ n : Fin 8,
      let wraps := evcnt s.dev a n.val = 2 ^ 48 - 1 ∧ tbit old n.val = true ∧ frozen s.dev a = false ∧ ownState s.dev a ≠ stFenced
      (¬ wraps → Ends (.counterWrap page n) s s.dev)
      ∧ (wraps → Gives (.counterWrap page n) s (fun d => evcnt d a n.val = 0 ∧ tbit (evctlOf d a) (24 + n.val) = true
        ∧ frozen d a = tbit old 19 ∧ (∀ m, m < 8 → m ≠ n.val → evcnt d a m = evcnt s.dev a m)
        ∧ reg d (a + oErrStat) = reg s.dev (a + oErrStat) ∧ d.mem = s.dev.mem)))
    ∧ ∀ (who : Requester) (site : Site), Reaches s.dev who (pgTrace site.val + 0xF08) →
      ∀ e ∈ [(Instr.freezeAll who site, true), (.thawAll who site, false)], Gives e.1 s (fun d =>
        (∀ x ∈ diePages site.val, frozen d x = e.2 ∧ ∀ k, k ≠ 18 → tbit (evctlOf d x) k = tbit (evctlOf s.dev x) k)
        ∧ (∀ b, (∀ x ∈ diePages site.val, b ≠ x + oEvctl) → reg d b = reg s.dev b)
        ∧ d = { s.dev with regs := d.regs, hiHeld := d.hiHeld })

/-- MARK is always written to the trace, an event when its kind is enabled; in STOP mode a full buffer drops and counts it. The telemetry hub
writes its record whole and numbers the next. A loopback test starts, or one of no blocks is over, and ends with its errors
(R35, R36, R514 to R518, R521). -/
def Sys2Proof.Claims.TraceTelemetryAndLoopback : Prop :=
  ∀ s : State, Steady s.dev →
    (∀ (who : Requester) (site : Site) (val : W32), Reaches s.dev who (pgTrace site.val + 0xF04) → TraceOpen s.dev site.val →
      Gives (.mark who site val) s (fun d => ∃ e, Traced s.dev d site.val e
        ∧ e.kind = 5 ∧ e.typ = 0 ∧ e.inst = 0 ∧ e.code = 0 ∧ e.seq = 0 ∧ e.data.toNat = val.toNat))
    ∧ (∀ (site : Site) (kind : Byte) (page : Bar0) (l : PageLoc) (code : BitVec 16) (seq : W32) (data : W64),
      pageAt (pageBase page.toNat) = some l → l.inBase = false → l.site = site.val →
      let i := Instr.traceEntryWrite site kind page code seq data
      let on := tbit (regN s.dev (pgTrace site.val + 0x800)) (if kind = 6 then 5 else kind.toNat)
      (kind = 6 → dataTraced s.dev = false → Ends i s s.dev)
      ∧ ((1 ≤ kind.toNat ∧ kind.toNat ≤ 4) ∨ (kind = 6 ∧ dataTraced s.dev = true) →
        (on = false → Ends i s s.dev)
        ∧ (on = true → TraceOpen s.dev site.val → Gives i s (fun d => ∃ e, Traced s.dev d site.val e
          ∧ e.kind = kind ∧ e.typ.toNat = l.typ.code ∧ e.inst.toNat = l.inst ∧ e.code = code ∧ e.seq = seq ∧ e.data = data))
        ∧ (on = true → ownState s.dev (pgTrace site.val) ≠ stFenced → ¬ TraceOpen s.dev site.val →
          Ends i s (incSat s.dev (pgTrace site.val + 0x828)))))
    ∧ Gives .telemetryRecord s (fun d =>
        (∀ w, w < 16 → regN d (pgBase + 0x880 + 4 * w) = bytesAt (telemetryBytes s.dev s.dev.board.telem) (4 * w) 4)
        ∧ (∀ b, ¬ (pgBase + 0x880 ≤ b ∧ b < pgBase + 0x8C0) → reg d b = reg s.dev b)
        ∧ d = { s.dev with regs := d.regs, board := { s.dev.board with telem := s.dev.board.telem + 1 } })
    ∧ Ends (.testPortAccess .boundaryScan) s s.dev
    ∧ (∀ site, Ends (.testPortAccess (.wrapper site)) s (emit s.dev (.wrapper site.val (granted s.dev 3))))
    ∧ ∀ (site : Site) (ctrl count : W32), (dieFact s.dev site.val).fitted = true →
        Gives (.testPortAccess (.loopback site ctrl count)) s (fun d =>
          regN d (pgDie site.val + 0x820) = (if count = 0 then 2 else if ctrl.toNat % 4 = 0 then 0 else 1)
          ∧ regN d (pgDie site.val + 0x824) = 0 ∧ d = { s.dev with regs := d.regs })

/-- A sample shows a cluster's delay, margin, ring oscillators and leakage. A margin below its floor raises the guard band by one step with a
GUARD record where steps and voltage allow it, and else sets DROP_PENDING; one below the critical floor fences the cluster; a sample that is not
valid raises SENSOR_FAIL and moves no guard; the periodic sample of a period of 0 does not run. The manager's PERIODIC record takes the next
number and the guards that it shows are those a later rise of PWR_OK restores (R8, R487, R488, R491, R492, R496, R499). -/
def Obligations.AgeSamplesAndTheLedger : Prop :=
  ∀ s : State, Steady s.dev →
    (∀ (site : Site) (c : Fin 16) (r : AgeReading),
      let a := pgAgemon site.val
      let i := 16 * site.val + c.val
      let freq := rfld s.dev (opReg i) 0 6
      let margin : Int := ((if freq = 0 then 0 else 20000 / freq : Nat) : Int) - r.delays.toNat
      let env := envOf s.dev i
      let cfg := regN s.dev (a + 0x804)
      let g := guardOf s.dev i
      let mayRaise := g < fld cfg 8 4 ∧ tableVolt s.dev i + (g + 1) * fld cfg 0 4 ≤ env.vmax
      let shown (d : Dev) : Prop :=
        regN d (ageReg i 0x820) = r.delays.toNat + 65536 * (margin % 65536).toNat
        ∧ regN d (ageReg i 0x824) = r.ro0.toNat + 65536 * r.ro1.toNat ∧ regN d (ageReg i 0x828) = r.leak.toNat
        ∧ regN d (a + 0x924) = (margin % 65536).toNat + 65536 * c.val ∧ d.mem = s.dev.mem ∧ d.board.halted = false
      running s.dev a = true → dieUp s.dev site.val = true → s.dev.commits = [] →
      ownState s.dev (pgCluster site.val c.val) ≠ stFenced →
      (∀ who (val : W32), val.getLsbD 0 = false → Reaches s.dev who (a + 0xF00) →
        Ends (.sampleNow who site val [(c, r)]) s (dropHeld s.dev who (a + 0xF00)))
      ∧ (rfld s.dev (a + 0x800) 0 16 = 0 → Ends (.agemonSample site [(c, r)]) s s.dev)
      ∧ ∀ cmd : Instr, ((rfld s.dev (a + 0x800) 0 16 ≠ 0 ∧ cmd = .agemonSample site [(c, r)])
          ∨ ∃ who, ∃ val : W32, val.getLsbD 0 = true ∧ Reaches s.dev who (a + 0xF00) ∧ cmd = .sampleNow who site val [(c, r)]) →
      (r.valid = false → Calm s.dev a → Gives cmd s (fun d => Recorded s.dev d a 2 0x101 9 ∧ d.flash = s.dev.flash
        ∧ reg d (opReg i) = reg s.dev (opReg i) ∧ d.mem = s.dev.mem))
      ∧ (r.valid = true → (env.floorPs : Int) ≤ margin → (env.critPs : Int) ≤ margin →
        Gives cmd s (fun d => shown d ∧ d = { s.dev with regs := d.regs, hiHeld := d.hiHeld }))
      ∧ (r.valid = true → margin < env.floorPs → (env.critPs : Int) ≤ margin →
        (mayRaise → Gives cmd s (fun d => shown d ∧ Recorded s.dev d a 1 0x100 8 ∧ guardOf d i = g + 1
          ∧ fld (regN d (opReg i)) 20 4 = (g + 1) % 16 ∧ d.flash.nextRecord = s.dev.flash.nextRecord + 1
          ∧ dropPending d i = dropPending s.dev i))
        ∧ (¬ mayRaise → Gives cmd s (fun d => shown d ∧ Recorded s.dev d a 1 0x100 8 ∧ d.flash = s.dev.flash ∧ dropPending d i = true)))
      ∧ (r.valid = true → margin < env.critPs → ownState s.dev (pgCluster site.val c.val) = stRunning → s.dev.board.fencing = [] →
        Gives cmd s (fun d => shown d ∧ Recorded s.dev d (pgCluster site.val c.val) 3 0x002 2
          ∧ ownState d (pgCluster site.val c.val) = stDraining ∧ fenceReqd d (pgCluster site.val c.val) = true)))
    ∧ Gives .wearPeriodic s (fun d => d.flash.nextRecord = s.dev.flash.nextRecord + 1
        ∧ (∃ body, (wearBytes s.dev 1 2816 body).length = 2816
            ∧ d = { wearAppend s.dev (wearBytes s.dev 1 2816 body) with
                      board := d.board, flash := { (wearAppend s.dev (wearBytes s.dev 1 2816 body)).flash with guards := d.flash.guards } })
        ∧ (∀ i, i < 64 → sget zeroNat d.flash.guards i = ((clusterEntry s.dev i).getD 13 0).toNat)
        ∧ ∀ k, k < 80 → reading d (hottestKey k) = 0 ∧ reading d k = reading s.dev k)

/-! ## Statements of several parts -/

/-- Scalar arithmetic, logic, compare and reads of the CTRL slot: every part of it holds. -/
def Obligations.ScalarOperations : Prop := Claims.ScalarArithmetic ∧ Claims.ScalarCompareAndRead

/-- Vector lanes and vector reductions: every part of it holds. -/
def Obligations.VectorOperations : Prop := Claims.VectorLanes ∧ Claims.VectorReductions

/-- Predicates, conversions and routing: every part of it holds. -/
def Obligations.PredicatesAndRouting : Prop := Claims.Predicates ∧ Claims.ConvertAndRoute

/-- Vector loads and stores of core memory and of streams: every part of it holds. -/
def Obligations.VectorMemoryAndStreams : Prop := Claims.VectorMemory ∧ Claims.VectorStreams

/-- Blocks are multiplied and added, runs end, accumulators drain: every part of it holds. -/
def Obligations.BlocksRunsAndDrains : Prop := Claims.BlocksAndRuns ∧ Claims.Drains

/-- Copies, packs and stream uses complete: every part of it holds. -/
def Obligations.CopiesAndStreamUses : Prop := Claims.StreamEvents ∧ Claims.CopiesComplete ∧ Claims.PackComplete

/-- Contexts start, stop and hold; a bundle is the word at the pc: every part of it holds. -/
def Obligations.ContextsAndBundles : Prop := Claims.ContextsStartStopAndHold ∧ Claims.ABundleIsTheWordAtThePc

/-- PWR_OK rises and falls; a recovery image is taken: every part of it holds. -/
def Obligations.PowerRiseAndFall : Prop := Claims.PowerRise ∧ Claims.PowerFallAndRecovery

/-- Dies, stacks and ports start in order: every part of it holds. -/
def Obligations.StartUp : Prop := Claims.DiesStart ∧ Claims.StacksAndPortsStart

/-- Class X halts the package, a failed re-measurement among it: every part of it holds. -/
def Obligations.HaltsAndRemeasurement : Prop := Claims.Halts ∧ Claims.Remeasurement

/-- The board over SMBus, and the laser inputs: every part of it holds. -/
def Obligations.BoardAndLasers : Prop := Claims.TheBoardOverSmbus ∧ Claims.Lasers

/-- Width of the host link, PERST_N and configuration space: every part of it holds. -/
def Obligations.HostLink : Prop := Claims.HostLinkWidth ∧ Claims.PerstResetsTheLink ∧ Claims.ConfigurationSpace

/-- Accesses through BAR2 and interrupt messages: every part of it holds. -/
def Obligations.Bar2AndInterrupts : Prop := Claims.Bar2Accesses ∧ Claims.InterruptMessages

/-- Command and response rings, doorbells and notes: every part of it holds. -/
def Obligations.Rings : Prop := Claims.RingRegisters ∧ Claims.Responses ∧ Claims.DoorbellsAndNotes

/-- LOAD, SEAL, the commands that read, and BAD_STATE: every part of it holds. -/
def Obligations.CommandsBeforeAJob : Prop := Claims.BadState ∧ Claims.ReadingCommands ∧ Claims.LoadAndSeal

/-- START and its signals to the dies: every part of it holds. -/
def Obligations.JobsStart : Prop := Claims.JobStart ∧ Claims.StartSignals

/-- Checkpoints, END and ABORT: every part of it holds. -/
def Obligations.JobsEnd : Prop := Claims.Checkpoints ∧ Claims.EndAndAbort

/-- Table proposals, debug tokens and twin control: every part of it holds. -/
def Obligations.ProposalsTokensAndTwinControl : Prop := Claims.Proposals ∧ Claims.DebugTokens ∧ Claims.TwinControl

/-- Writes of registers and accesses of pairs: every part of it holds. -/
def Obligations.RegisterAccess : Prop := Claims.RegisterWrites ∧ Claims.PairsOfRegisters

/-- A block's states, and a soft reset: every part of it holds. -/
def Obligations.BlockStatesAndReset : Prop := Claims.BlockStates ∧ Claims.SoftReset

/-- Filler, duty, budgets and the package limit: every part of it holds. -/
def Obligations.FillerAndBudgets : Prop := Claims.FillerAndDuty ∧ Claims.BudgetsAndLimits

/-- Reads and writes of HBM words and their protection: every part of it holds. -/
def Obligations.HbmReadsAndWrites : Prop := Claims.HbmReads ∧ Claims.HbmWrites

/-- Edges come up, quiesce and are fenced: every part of it holds. -/
def Obligations.Edges : Prop := Claims.EdgesQuiesceAndFence ∧ Claims.EdgeBringup

/-- Ports train and shake hands: every part of it holds. -/
def Obligations.PortsTrainAndShakeHands : Prop := Claims.PortTraining ∧ Claims.LinkHandshake

/-- A Sorter takes dockets and starts them: every part of it holds. -/
def Obligations.DocketsAreTakenAndStart : Prop := Claims.DocketAcceptance ∧ Claims.DocketsStart

/-- OPTSTEP runs, and dockets end: every part of it holds. -/
def Obligations.OptstepAndTheEndOfDockets : Prop := Claims.OptstepRuns ∧ Claims.DocketsEnd

/-- Buckets trigger dockets; post boxes carry messages: every part of it holds. -/
def Obligations.BucketsAndPostBoxes : Prop := Claims.Buckets ∧ Claims.PostBoxes

/-- Recopy, joining, mirror fences and the loss of a twin: every part of it holds. -/
def Obligations.RecopyAndTwinLoss : Prop := Claims.Recopies ∧ Claims.TwinsMeetAndPart

/-- Event counters, trace, telemetry and loopback: every part of it holds. -/
def Obligations.CountersTraceAndLoopback : Prop := Claims.EventCounters ∧ Claims.TraceTelemetryAndLoopback ∧ Claims.LoopbackEnds
end

