-- ==== Sys2Proof/Laws/Sparse.lean ====
section
/-!
SUPPORT. The laws of sparse maps: what a write leaves at every key, whatever the map's form, and the canonical form kept by every
operation.
-/
namespace Sys2Proof.Machine

variable {α : Type}

theorem sget_sdel (d : Nat → α) (m : Sparse α) (k j : Nat) : sget d (sdel m k) j = if j = k then d k else sget d m j := by
  induction m with
  | nil => simp only [sdel, sget]; split <;> simp_all
  | cons e m ih =>
    obtain ⟨i, v⟩ := e
    simp only [sdel]
    by_cases hi : i = k
    · subst hi
      rw [if_pos rfl, ih]
      simp only [sget]
      by_cases hj : j = i
      · simp [hj]
      · rw [if_neg hj, if_neg hj, if_neg (Ne.symm hj)]
    · rw [if_neg hi]
      simp only [sget]
      by_cases hij : i = j
      · subst hij; simp [hi]
      · rw [if_neg hij, if_neg hij, ih]

theorem sget_sins (d : Nat → α) (m : Sparse α) (k : Nat) (x : α) (h : ∀ e ∈ m, e.1 ≠ k) (j : Nat) :
    sget d (sins m k x) j = if j = k then x else sget d m j := by
  induction m with
  | nil =>
    simp only [sins, sget]
    by_cases hj : j = k
    · subst hj; simp
    · rw [if_neg hj, if_neg (Ne.symm hj)]
  | cons e m ih =>
    obtain ⟨i, v⟩ := e
    have hik : i ≠ k := h (i, v) (by simp)
    have ih := ih (fun e he => h e (List.mem_cons_of_mem _ he))
    simp only [sins]
    split
    · simp only [sget]
      by_cases hj : j = k
      · subst hj; simp
      · rw [if_neg (Ne.symm hj), if_neg hj]
    · simp only [sget]
      by_cases hij : i = j
      · subst hij; simp [hik]
      · rw [if_neg hij, if_neg hij, ih]

theorem sdel_ne {m : Sparse α} {k : Nat} : ∀ e ∈ sdel m k, e.1 ≠ k := by
  induction m with
  | nil => simp [sdel]
  | cons f m ih =>
    obtain ⟨i, v⟩ := f
    simp only [sdel]
    split
    · exact ih
    · next hi =>
      intro e he
      rcases List.mem_cons.mp he with rfl | he
      · exact hi
      · exact ih e he

/-- What a write leaves at every key. -/
theorem sget_sput [DecidableEq α] (d : Nat → α) (m : Sparse α) (k : Nat) (x : α) (j : Nat) :
    sget d (sput d m k x) j = if j = k then x else sget d m j := by
  simp only [sput]
  split
  · next hx => rw [sget_sdel, hx]
  · rw [sget_sins d _ k x sdel_ne, sget_sdel]
    split <;> rfl

/-- A write is read back. -/
@[simp] theorem sget_sput_same [DecidableEq α] (d : Nat → α) (m : Sparse α) (k : Nat) (x : α) : sget d (sput d m k x) k = x := by
  rw [sget_sput, if_pos rfl]

/-- A write leaves every other key alone. -/
theorem sget_sput_other [DecidableEq α] (d : Nat → α) (m : Sparse α) {k j : Nat} (x : α) (h : j ≠ k) :
    sget d (sput d m k x) j = sget d m j := by
  rw [sget_sput, if_neg h]

/-! ## The canonical form -/

theorem risingFrom_mono {m : Sparse α} {a b : Nat} (hab : a ≤ b) (h : risingFrom b m = true) : risingFrom a m = true := by
  cases m with
  | nil => rfl
  | cons e m =>
    obtain ⟨j, v⟩ := e
    simp only [risingFrom, Bool.and_eq_true, decide_eq_true_eq] at h ⊢
    exact ⟨by omega, h.2⟩

theorem risingFrom_sdel {m : Sparse α} {lo : Nat} (k : Nat) (h : risingFrom lo m = true) : risingFrom lo (sdel m k) = true := by
  induction m generalizing lo with
  | nil => rfl
  | cons e m ih =>
    obtain ⟨i, v⟩ := e
    simp only [risingFrom, Bool.and_eq_true, decide_eq_true_eq] at h
    simp only [sdel]
    split
    · exact risingFrom_mono (by omega) (ih h.2)
    · simp only [risingFrom, Bool.and_eq_true, decide_eq_true_eq]; exact ⟨h.1, ih h.2⟩

theorem risingFrom_sins {m : Sparse α} {lo k : Nat} (x : α) (h : risingFrom lo m = true) (hk : lo ≤ k)
    (hn : ∀ e ∈ m, e.1 ≠ k) : risingFrom lo (sins m k x) = true := by
  induction m generalizing lo with
  | nil => simp [sins, risingFrom, hk]
  | cons e m ih =>
    obtain ⟨i, v⟩ := e
    have hik : i ≠ k := hn (i, v) (by simp)
    simp only [risingFrom, Bool.and_eq_true, decide_eq_true_eq] at h
    simp only [sins]
    split
    · simp only [risingFrom, Bool.and_eq_true, decide_eq_true_eq]; exact ⟨hk, by omega, h.2⟩
    · simp only [risingFrom, Bool.and_eq_true, decide_eq_true_eq]
      exact ⟨h.1, ih h.2 (by omega) (fun e he => hn e (List.mem_cons_of_mem _ he))⟩

theorem mem_sdel {m : Sparse α} {k : Nat} {e : Nat × α} (h : e ∈ sdel m k) : e ∈ m := by
  induction m with
  | nil => exact h
  | cons f m ih =>
    obtain ⟨i, v⟩ := f
    simp only [sdel] at h
    split at h
    · exact List.mem_cons_of_mem _ (ih h)
    · rcases List.mem_cons.mp h with h | h
      · exact List.mem_cons.mpr (.inl h)
      · exact List.mem_cons_of_mem _ (ih h)

theorem mem_sins {m : Sparse α} {k : Nat} {x : α} {e : Nat × α} (h : e ∈ sins m k x) : e = (k, x) ∨ e ∈ m := by
  induction m with
  | nil => simpa [sins] using h
  | cons f m ih =>
    obtain ⟨i, v⟩ := f
    simp only [sins] at h
    split at h
    · rcases List.mem_cons.mp h with h | h
      · exact .inl h
      · exact .inr h
    · rcases List.mem_cons.mp h with h | h
      · exact .inr (List.mem_cons.mpr (.inl h))
      · rcases ih h with h | h
        · exact .inl h
        · exact .inr (List.mem_cons_of_mem _ h)

theorem risingFrom_filter {m : Sparse α} {lo : Nat} (p : Nat × α → Bool) (h : risingFrom lo m = true) :
    risingFrom lo (m.filter p) = true := by
  induction m generalizing lo with
  | nil => rfl
  | cons e m ih =>
    obtain ⟨i, v⟩ := e
    simp only [risingFrom, Bool.and_eq_true, decide_eq_true_eq] at h
    rw [List.filter_cons]
    split
    · simp only [risingFrom, Bool.and_eq_true, decide_eq_true_eq]; exact ⟨h.1, ih h.2⟩
    · exact ih (risingFrom_mono (by omega) h.2)

variable [DecidableEq α]

theorem swf_iff (d : Nat → α) (m : Sparse α) : swf d m = true ↔ risingFrom 0 m = true ∧ ∀ e ∈ m, e.2 ≠ d e.1 := by
  simp [swf]

@[simp] theorem swf_nil (d : Nat → α) : swf d [] = true := rfl

/-- A write keeps the canonical form. -/
theorem swf_sput {d : Nat → α} {m : Sparse α} (h : swf d m = true) (k : Nat) (x : α) : swf d (sput d m k x) = true := by
  obtain ⟨hr, hd⟩ := (swf_iff d m).mp h
  simp only [sput]
  split
  · exact (swf_iff _ _).mpr ⟨risingFrom_sdel k hr, fun e he => hd e (mem_sdel he)⟩
  · next hn =>
    refine (swf_iff _ _).mpr ⟨risingFrom_sins x (risingFrom_sdel k hr) (Nat.zero_le k) sdel_ne, fun e he => ?_⟩
    rcases mem_sins he with rfl | he
    · exact hn
    · exact hd e (mem_sdel he)

/-- Dropping entries keeps the canonical form. -/
theorem swf_filter {d : Nat → α} {m : Sparse α} (h : swf d m = true) (p : Nat × α → Bool) : swf d (m.filter p) = true := by
  obtain ⟨hr, hd⟩ := (swf_iff d m).mp h
  exact (swf_iff _ _).mpr ⟨risingFrom_filter _ hr, fun e he => hd e (List.mem_filter.mp he).1⟩

/-- Clearing a range keeps the canonical form. -/
theorem swf_sclear {d : Nat → α} {m : Sparse α} (h : swf d m = true) (lo hi : Nat) : swf d (sclear m lo hi) = true := swf_filter h _

end Sys2Proof.Machine
end

