-- ==== Sys2Proof/Laws/State.lean ====
section
/-!
SUPPORT. The laws of the state: one lemma per field and update, so that no proof unfolds a record update, and what a read of a numbered
unit gives after a write of one.
-/
namespace Sys2Proof.Machine

variable (d : Dev)

/-! ### setReg -/

@[simp] theorem setReg_board (a : Nat) (v : W32) : (setReg d a v).board = d.board := (rfl)
@[simp] theorem setReg_dies (a : Nat) (v : W32) : (setReg d a v).dies = d.dies := (rfl)
@[simp] theorem setReg_baseLevel (a : Nat) (v : W32) : (setReg d a v).baseLevel = d.baseLevel := (rfl)
@[simp] theorem setReg_flash (a : Nat) (v : W32) : (setReg d a v).flash = d.flash := (rfl)
@[simp] theorem setReg_commits (a : Nat) (v : W32) : (setReg d a v).commits = d.commits := (rfl)
@[simp] theorem setReg_hiHeld (a : Nat) (v : W32) : (setReg d a v).hiHeld = d.hiHeld := (rfl)
@[simp] theorem setReg_loLatch (a : Nat) (v : W32) : (setReg d a v).loLatch = d.loLatch := (rfl)
@[simp] theorem setReg_esc (a : Nat) (v : W32) : (setReg d a v).esc = d.esc := (rfl)
@[simp] theorem setReg_recent (a : Nat) (v : W32) : (setReg d a v).recent = d.recent := (rfl)
@[simp] theorem setReg_book (a : Nat) (v : W32) : (setReg d a v).book = d.book := (rfl)
@[simp] theorem setReg_cfg (a : Nat) (v : W32) : (setReg d a v).cfg = d.cfg := (rfl)
@[simp] theorem setReg_msixTable (a : Nat) (v : W32) : (setReg d a v).msixTable = d.msixTable := (rfl)
@[simp] theorem setReg_pba (a : Nat) (v : W32) : (setReg d a v).pba = d.pba := (rfl)
@[simp] theorem setReg_lines (a : Nat) (v : W32) : (setReg d a v).lines = d.lines := (rfl)
@[simp] theorem setReg_hdma (a : Nat) (v : W32) : (setReg d a v).hdma = d.hdma := (rfl)
@[simp] theorem setReg_resp (a : Nat) (v : W32) : (setReg d a v).resp = d.resp := (rfl)
@[simp] theorem setReg_job (a : Nat) (v : W32) : (setReg d a v).job = d.job := (rfl)
@[simp] theorem setReg_sealU (a : Nat) (v : W32) : (setReg d a v).sealU = d.sealU := (rfl)
@[simp] theorem setReg_twin (a : Nat) (v : W32) : (setReg d a v).twin = d.twin := (rfl)
@[simp] theorem setReg_ctxs (a : Nat) (v : W32) : (setReg d a v).ctxs = d.ctxs := (rfl)
@[simp] theorem setReg_cores (a : Nat) (v : W32) : (setReg d a v).cores = d.cores := (rfl)
@[simp] theorem setReg_arrived (a : Nat) (v : W32) : (setReg d a v).arrived = d.arrived := (rfl)
@[simp] theorem setReg_mods (a : Nat) (v : W32) : (setReg d a v).mods = d.mods := (rfl)
@[simp] theorem setReg_edges (a : Nat) (v : W32) : (setReg d a v).edges = d.edges := (rfl)
@[simp] theorem setReg_relayHeld (a : Nat) (v : W32) : (setReg d a v).relayHeld = d.relayHeld := (rfl)
@[simp] theorem setReg_creditSeen (a : Nat) (v : W32) : (setReg d a v).creditSeen = d.creditSeen := (rfl)
@[simp] theorem setReg_ports (a : Nat) (v : W32) : (setReg d a v).ports = d.ports := (rfl)
@[simp] theorem setReg_sorters (a : Nat) (v : W32) : (setReg d a v).sorters = d.sorters := (rfl)
@[simp] theorem setReg_mem (a : Nat) (v : W32) : (setReg d a v).mem = d.mem := (rfl)
@[simp] theorem setReg_poison (a : Nat) (v : W32) : (setReg d a v).poison = d.poison := (rfl)
@[simp] theorem setReg_filled (a : Nat) (v : W32) : (setReg d a v).filled = d.filled := (rfl)
@[simp] theorem setReg_filling (a : Nat) (v : W32) : (setReg d a v).filling = d.filling := (rfl)
@[simp] theorem setReg_fillDue (a : Nat) (v : W32) : (setReg d a v).fillDue = d.fillDue := (rfl)
@[simp] theorem setReg_hbmErr (a : Nat) (v : W32) : (setReg d a v).hbmErr = d.hbmErr := (rfl)
@[simp] theorem setReg_hbmTag (a : Nat) (v : W32) : (setReg d a v).hbmTag = d.hbmTag := (rfl)
@[simp] theorem setReg_sramErr (a : Nat) (v : W32) : (setReg d a v).sramErr = d.sramErr := (rfl)
@[simp] theorem setReg_scrubFull (a : Nat) (v : W32) : (setReg d a v).scrubFull = d.scrubFull := (rfl)
@[simp] theorem setReg_trace (a : Nat) (v : W32) : (setReg d a v).trace = d.trace := (rfl)
@[simp] theorem setReg_clock (a : Nat) (v : W32) : (setReg d a v).clock = d.clock := (rfl)
@[simp] theorem setReg_free (a : Nat) (v : W32) : (setReg d a v).free = d.free := (rfl)
@[simp] theorem setReg_baseLetter (a : Nat) (v : W32) : (setReg d a v).baseLetter = d.baseLetter := (rfl)
@[simp] theorem setReg_baseNum (a : Nat) (v : W32) : (setReg d a v).baseNum = d.baseNum := (rfl)
@[simp] theorem setReg_uds (a : Nat) (v : W32) : (setReg d a v).uds = d.uds := (rfl)
@[simp] theorem setReg_rootDigest (a : Nat) (v : W32) : (setReg d a v).rootDigest = d.rootDigest := (rfl)
@[simp] theorem setReg_caKey (a : Nat) (v : W32) : (setReg d a v).caKey = d.caKey := (rfl)
@[simp] theorem setReg_fresh (a : Nat) (v : W32) : (setReg d a v).fresh = d.fresh := (rfl)
@[simp] theorem setReg_fillWait (a : Nat) (v : W32) : (setReg d a v).fillWait = d.fillWait := (rfl)
@[simp] theorem setReg_out (a : Nat) (v : W32) : (setReg d a v).out = d.out := (rfl)

/-! ### setRegN -/

@[simp] theorem setRegN_board (a n : Nat) : (setRegN d a n).board = d.board := (rfl)
@[simp] theorem setRegN_dies (a n : Nat) : (setRegN d a n).dies = d.dies := (rfl)
@[simp] theorem setRegN_baseLevel (a n : Nat) : (setRegN d a n).baseLevel = d.baseLevel := (rfl)
@[simp] theorem setRegN_flash (a n : Nat) : (setRegN d a n).flash = d.flash := (rfl)
@[simp] theorem setRegN_commits (a n : Nat) : (setRegN d a n).commits = d.commits := (rfl)
@[simp] theorem setRegN_hiHeld (a n : Nat) : (setRegN d a n).hiHeld = d.hiHeld := (rfl)
@[simp] theorem setRegN_loLatch (a n : Nat) : (setRegN d a n).loLatch = d.loLatch := (rfl)
@[simp] theorem setRegN_esc (a n : Nat) : (setRegN d a n).esc = d.esc := (rfl)
@[simp] theorem setRegN_recent (a n : Nat) : (setRegN d a n).recent = d.recent := (rfl)
@[simp] theorem setRegN_book (a n : Nat) : (setRegN d a n).book = d.book := (rfl)
@[simp] theorem setRegN_cfg (a n : Nat) : (setRegN d a n).cfg = d.cfg := (rfl)
@[simp] theorem setRegN_msixTable (a n : Nat) : (setRegN d a n).msixTable = d.msixTable := (rfl)
@[simp] theorem setRegN_pba (a n : Nat) : (setRegN d a n).pba = d.pba := (rfl)
@[simp] theorem setRegN_lines (a n : Nat) : (setRegN d a n).lines = d.lines := (rfl)
@[simp] theorem setRegN_hdma (a n : Nat) : (setRegN d a n).hdma = d.hdma := (rfl)
@[simp] theorem setRegN_resp (a n : Nat) : (setRegN d a n).resp = d.resp := (rfl)
@[simp] theorem setRegN_job (a n : Nat) : (setRegN d a n).job = d.job := (rfl)
@[simp] theorem setRegN_sealU (a n : Nat) : (setRegN d a n).sealU = d.sealU := (rfl)
@[simp] theorem setRegN_twin (a n : Nat) : (setRegN d a n).twin = d.twin := (rfl)
@[simp] theorem setRegN_ctxs (a n : Nat) : (setRegN d a n).ctxs = d.ctxs := (rfl)
@[simp] theorem setRegN_cores (a n : Nat) : (setRegN d a n).cores = d.cores := (rfl)
@[simp] theorem setRegN_arrived (a n : Nat) : (setRegN d a n).arrived = d.arrived := (rfl)
@[simp] theorem setRegN_mods (a n : Nat) : (setRegN d a n).mods = d.mods := (rfl)
@[simp] theorem setRegN_edges (a n : Nat) : (setRegN d a n).edges = d.edges := (rfl)
@[simp] theorem setRegN_relayHeld (a n : Nat) : (setRegN d a n).relayHeld = d.relayHeld := (rfl)
@[simp] theorem setRegN_creditSeen (a n : Nat) : (setRegN d a n).creditSeen = d.creditSeen := (rfl)
@[simp] theorem setRegN_ports (a n : Nat) : (setRegN d a n).ports = d.ports := (rfl)
@[simp] theorem setRegN_sorters (a n : Nat) : (setRegN d a n).sorters = d.sorters := (rfl)
@[simp] theorem setRegN_mem (a n : Nat) : (setRegN d a n).mem = d.mem := (rfl)
@[simp] theorem setRegN_poison (a n : Nat) : (setRegN d a n).poison = d.poison := (rfl)
@[simp] theorem setRegN_filled (a n : Nat) : (setRegN d a n).filled = d.filled := (rfl)
@[simp] theorem setRegN_filling (a n : Nat) : (setRegN d a n).filling = d.filling := (rfl)
@[simp] theorem setRegN_fillDue (a n : Nat) : (setRegN d a n).fillDue = d.fillDue := (rfl)
@[simp] theorem setRegN_hbmErr (a n : Nat) : (setRegN d a n).hbmErr = d.hbmErr := (rfl)
@[simp] theorem setRegN_hbmTag (a n : Nat) : (setRegN d a n).hbmTag = d.hbmTag := (rfl)
@[simp] theorem setRegN_sramErr (a n : Nat) : (setRegN d a n).sramErr = d.sramErr := (rfl)
@[simp] theorem setRegN_scrubFull (a n : Nat) : (setRegN d a n).scrubFull = d.scrubFull := (rfl)
@[simp] theorem setRegN_trace (a n : Nat) : (setRegN d a n).trace = d.trace := (rfl)
@[simp] theorem setRegN_clock (a n : Nat) : (setRegN d a n).clock = d.clock := (rfl)
@[simp] theorem setRegN_free (a n : Nat) : (setRegN d a n).free = d.free := (rfl)
@[simp] theorem setRegN_baseLetter (a n : Nat) : (setRegN d a n).baseLetter = d.baseLetter := (rfl)
@[simp] theorem setRegN_baseNum (a n : Nat) : (setRegN d a n).baseNum = d.baseNum := (rfl)
@[simp] theorem setRegN_uds (a n : Nat) : (setRegN d a n).uds = d.uds := (rfl)
@[simp] theorem setRegN_rootDigest (a n : Nat) : (setRegN d a n).rootDigest = d.rootDigest := (rfl)
@[simp] theorem setRegN_caKey (a n : Nat) : (setRegN d a n).caKey = d.caKey := (rfl)
@[simp] theorem setRegN_fresh (a n : Nat) : (setRegN d a n).fresh = d.fresh := (rfl)
@[simp] theorem setRegN_fillWait (a n : Nat) : (setRegN d a n).fillWait = d.fillWait := (rfl)
@[simp] theorem setRegN_out (a n : Nat) : (setRegN d a n).out = d.out := (rfl)

/-! ### addSat -/

@[simp] theorem addSat_board (a n : Nat) : (addSat d a n).board = d.board := (rfl)
@[simp] theorem addSat_dies (a n : Nat) : (addSat d a n).dies = d.dies := (rfl)
@[simp] theorem addSat_baseLevel (a n : Nat) : (addSat d a n).baseLevel = d.baseLevel := (rfl)
@[simp] theorem addSat_flash (a n : Nat) : (addSat d a n).flash = d.flash := (rfl)
@[simp] theorem addSat_commits (a n : Nat) : (addSat d a n).commits = d.commits := (rfl)
@[simp] theorem addSat_hiHeld (a n : Nat) : (addSat d a n).hiHeld = d.hiHeld := (rfl)
@[simp] theorem addSat_loLatch (a n : Nat) : (addSat d a n).loLatch = d.loLatch := (rfl)
@[simp] theorem addSat_esc (a n : Nat) : (addSat d a n).esc = d.esc := (rfl)
@[simp] theorem addSat_recent (a n : Nat) : (addSat d a n).recent = d.recent := (rfl)
@[simp] theorem addSat_book (a n : Nat) : (addSat d a n).book = d.book := (rfl)
@[simp] theorem addSat_cfg (a n : Nat) : (addSat d a n).cfg = d.cfg := (rfl)
@[simp] theorem addSat_msixTable (a n : Nat) : (addSat d a n).msixTable = d.msixTable := (rfl)
@[simp] theorem addSat_pba (a n : Nat) : (addSat d a n).pba = d.pba := (rfl)
@[simp] theorem addSat_lines (a n : Nat) : (addSat d a n).lines = d.lines := (rfl)
@[simp] theorem addSat_hdma (a n : Nat) : (addSat d a n).hdma = d.hdma := (rfl)
@[simp] theorem addSat_resp (a n : Nat) : (addSat d a n).resp = d.resp := (rfl)
@[simp] theorem addSat_job (a n : Nat) : (addSat d a n).job = d.job := (rfl)
@[simp] theorem addSat_sealU (a n : Nat) : (addSat d a n).sealU = d.sealU := (rfl)
@[simp] theorem addSat_twin (a n : Nat) : (addSat d a n).twin = d.twin := (rfl)
@[simp] theorem addSat_ctxs (a n : Nat) : (addSat d a n).ctxs = d.ctxs := (rfl)
@[simp] theorem addSat_cores (a n : Nat) : (addSat d a n).cores = d.cores := (rfl)
@[simp] theorem addSat_arrived (a n : Nat) : (addSat d a n).arrived = d.arrived := (rfl)
@[simp] theorem addSat_mods (a n : Nat) : (addSat d a n).mods = d.mods := (rfl)
@[simp] theorem addSat_edges (a n : Nat) : (addSat d a n).edges = d.edges := (rfl)
@[simp] theorem addSat_relayHeld (a n : Nat) : (addSat d a n).relayHeld = d.relayHeld := (rfl)
@[simp] theorem addSat_creditSeen (a n : Nat) : (addSat d a n).creditSeen = d.creditSeen := (rfl)
@[simp] theorem addSat_ports (a n : Nat) : (addSat d a n).ports = d.ports := (rfl)
@[simp] theorem addSat_sorters (a n : Nat) : (addSat d a n).sorters = d.sorters := (rfl)
@[simp] theorem addSat_mem (a n : Nat) : (addSat d a n).mem = d.mem := (rfl)
@[simp] theorem addSat_poison (a n : Nat) : (addSat d a n).poison = d.poison := (rfl)
@[simp] theorem addSat_filled (a n : Nat) : (addSat d a n).filled = d.filled := (rfl)
@[simp] theorem addSat_filling (a n : Nat) : (addSat d a n).filling = d.filling := (rfl)
@[simp] theorem addSat_fillDue (a n : Nat) : (addSat d a n).fillDue = d.fillDue := (rfl)
@[simp] theorem addSat_hbmErr (a n : Nat) : (addSat d a n).hbmErr = d.hbmErr := (rfl)
@[simp] theorem addSat_hbmTag (a n : Nat) : (addSat d a n).hbmTag = d.hbmTag := (rfl)
@[simp] theorem addSat_sramErr (a n : Nat) : (addSat d a n).sramErr = d.sramErr := (rfl)
@[simp] theorem addSat_scrubFull (a n : Nat) : (addSat d a n).scrubFull = d.scrubFull := (rfl)
@[simp] theorem addSat_trace (a n : Nat) : (addSat d a n).trace = d.trace := (rfl)
@[simp] theorem addSat_clock (a n : Nat) : (addSat d a n).clock = d.clock := (rfl)
@[simp] theorem addSat_free (a n : Nat) : (addSat d a n).free = d.free := (rfl)
@[simp] theorem addSat_baseLetter (a n : Nat) : (addSat d a n).baseLetter = d.baseLetter := (rfl)
@[simp] theorem addSat_baseNum (a n : Nat) : (addSat d a n).baseNum = d.baseNum := (rfl)
@[simp] theorem addSat_uds (a n : Nat) : (addSat d a n).uds = d.uds := (rfl)
@[simp] theorem addSat_rootDigest (a n : Nat) : (addSat d a n).rootDigest = d.rootDigest := (rfl)
@[simp] theorem addSat_caKey (a n : Nat) : (addSat d a n).caKey = d.caKey := (rfl)
@[simp] theorem addSat_fresh (a n : Nat) : (addSat d a n).fresh = d.fresh := (rfl)
@[simp] theorem addSat_fillWait (a n : Nat) : (addSat d a n).fillWait = d.fillWait := (rfl)
@[simp] theorem addSat_out (a n : Nat) : (addSat d a n).out = d.out := (rfl)

/-! ### incSat -/

@[simp] theorem incSat_board (a : Nat) : (incSat d a).board = d.board := (rfl)
@[simp] theorem incSat_dies (a : Nat) : (incSat d a).dies = d.dies := (rfl)
@[simp] theorem incSat_baseLevel (a : Nat) : (incSat d a).baseLevel = d.baseLevel := (rfl)
@[simp] theorem incSat_flash (a : Nat) : (incSat d a).flash = d.flash := (rfl)
@[simp] theorem incSat_commits (a : Nat) : (incSat d a).commits = d.commits := (rfl)
@[simp] theorem incSat_hiHeld (a : Nat) : (incSat d a).hiHeld = d.hiHeld := (rfl)
@[simp] theorem incSat_loLatch (a : Nat) : (incSat d a).loLatch = d.loLatch := (rfl)
@[simp] theorem incSat_esc (a : Nat) : (incSat d a).esc = d.esc := (rfl)
@[simp] theorem incSat_recent (a : Nat) : (incSat d a).recent = d.recent := (rfl)
@[simp] theorem incSat_book (a : Nat) : (incSat d a).book = d.book := (rfl)
@[simp] theorem incSat_cfg (a : Nat) : (incSat d a).cfg = d.cfg := (rfl)
@[simp] theorem incSat_msixTable (a : Nat) : (incSat d a).msixTable = d.msixTable := (rfl)
@[simp] theorem incSat_pba (a : Nat) : (incSat d a).pba = d.pba := (rfl)
@[simp] theorem incSat_lines (a : Nat) : (incSat d a).lines = d.lines := (rfl)
@[simp] theorem incSat_hdma (a : Nat) : (incSat d a).hdma = d.hdma := (rfl)
@[simp] theorem incSat_resp (a : Nat) : (incSat d a).resp = d.resp := (rfl)
@[simp] theorem incSat_job (a : Nat) : (incSat d a).job = d.job := (rfl)
@[simp] theorem incSat_sealU (a : Nat) : (incSat d a).sealU = d.sealU := (rfl)
@[simp] theorem incSat_twin (a : Nat) : (incSat d a).twin = d.twin := (rfl)
@[simp] theorem incSat_ctxs (a : Nat) : (incSat d a).ctxs = d.ctxs := (rfl)
@[simp] theorem incSat_cores (a : Nat) : (incSat d a).cores = d.cores := (rfl)
@[simp] theorem incSat_arrived (a : Nat) : (incSat d a).arrived = d.arrived := (rfl)
@[simp] theorem incSat_mods (a : Nat) : (incSat d a).mods = d.mods := (rfl)
@[simp] theorem incSat_edges (a : Nat) : (incSat d a).edges = d.edges := (rfl)
@[simp] theorem incSat_relayHeld (a : Nat) : (incSat d a).relayHeld = d.relayHeld := (rfl)
@[simp] theorem incSat_creditSeen (a : Nat) : (incSat d a).creditSeen = d.creditSeen := (rfl)
@[simp] theorem incSat_ports (a : Nat) : (incSat d a).ports = d.ports := (rfl)
@[simp] theorem incSat_sorters (a : Nat) : (incSat d a).sorters = d.sorters := (rfl)
@[simp] theorem incSat_mem (a : Nat) : (incSat d a).mem = d.mem := (rfl)
@[simp] theorem incSat_poison (a : Nat) : (incSat d a).poison = d.poison := (rfl)
@[simp] theorem incSat_filled (a : Nat) : (incSat d a).filled = d.filled := (rfl)
@[simp] theorem incSat_filling (a : Nat) : (incSat d a).filling = d.filling := (rfl)
@[simp] theorem incSat_fillDue (a : Nat) : (incSat d a).fillDue = d.fillDue := (rfl)
@[simp] theorem incSat_hbmErr (a : Nat) : (incSat d a).hbmErr = d.hbmErr := (rfl)
@[simp] theorem incSat_hbmTag (a : Nat) : (incSat d a).hbmTag = d.hbmTag := (rfl)
@[simp] theorem incSat_sramErr (a : Nat) : (incSat d a).sramErr = d.sramErr := (rfl)
@[simp] theorem incSat_scrubFull (a : Nat) : (incSat d a).scrubFull = d.scrubFull := (rfl)
@[simp] theorem incSat_trace (a : Nat) : (incSat d a).trace = d.trace := (rfl)
@[simp] theorem incSat_clock (a : Nat) : (incSat d a).clock = d.clock := (rfl)
@[simp] theorem incSat_free (a : Nat) : (incSat d a).free = d.free := (rfl)
@[simp] theorem incSat_baseLetter (a : Nat) : (incSat d a).baseLetter = d.baseLetter := (rfl)
@[simp] theorem incSat_baseNum (a : Nat) : (incSat d a).baseNum = d.baseNum := (rfl)
@[simp] theorem incSat_uds (a : Nat) : (incSat d a).uds = d.uds := (rfl)
@[simp] theorem incSat_rootDigest (a : Nat) : (incSat d a).rootDigest = d.rootDigest := (rfl)
@[simp] theorem incSat_caKey (a : Nat) : (incSat d a).caKey = d.caKey := (rfl)
@[simp] theorem incSat_fresh (a : Nat) : (incSat d a).fresh = d.fresh := (rfl)
@[simp] theorem incSat_fillWait (a : Nat) : (incSat d a).fillWait = d.fillWait := (rfl)
@[simp] theorem incSat_out (a : Nat) : (incSat d a).out = d.out := (rfl)

/-! ### setReg64 -/

@[simp] theorem setReg64_board (a n : Nat) : (setReg64 d a n).board = d.board := (rfl)
@[simp] theorem setReg64_dies (a n : Nat) : (setReg64 d a n).dies = d.dies := (rfl)
@[simp] theorem setReg64_baseLevel (a n : Nat) : (setReg64 d a n).baseLevel = d.baseLevel := (rfl)
@[simp] theorem setReg64_flash (a n : Nat) : (setReg64 d a n).flash = d.flash := (rfl)
@[simp] theorem setReg64_commits (a n : Nat) : (setReg64 d a n).commits = d.commits := (rfl)
@[simp] theorem setReg64_hiHeld (a n : Nat) : (setReg64 d a n).hiHeld = d.hiHeld := (rfl)
@[simp] theorem setReg64_loLatch (a n : Nat) : (setReg64 d a n).loLatch = d.loLatch := (rfl)
@[simp] theorem setReg64_esc (a n : Nat) : (setReg64 d a n).esc = d.esc := (rfl)
@[simp] theorem setReg64_recent (a n : Nat) : (setReg64 d a n).recent = d.recent := (rfl)
@[simp] theorem setReg64_book (a n : Nat) : (setReg64 d a n).book = d.book := (rfl)
@[simp] theorem setReg64_cfg (a n : Nat) : (setReg64 d a n).cfg = d.cfg := (rfl)
@[simp] theorem setReg64_msixTable (a n : Nat) : (setReg64 d a n).msixTable = d.msixTable := (rfl)
@[simp] theorem setReg64_pba (a n : Nat) : (setReg64 d a n).pba = d.pba := (rfl)
@[simp] theorem setReg64_lines (a n : Nat) : (setReg64 d a n).lines = d.lines := (rfl)
@[simp] theorem setReg64_hdma (a n : Nat) : (setReg64 d a n).hdma = d.hdma := (rfl)
@[simp] theorem setReg64_resp (a n : Nat) : (setReg64 d a n).resp = d.resp := (rfl)
@[simp] theorem setReg64_job (a n : Nat) : (setReg64 d a n).job = d.job := (rfl)
@[simp] theorem setReg64_sealU (a n : Nat) : (setReg64 d a n).sealU = d.sealU := (rfl)
@[simp] theorem setReg64_twin (a n : Nat) : (setReg64 d a n).twin = d.twin := (rfl)
@[simp] theorem setReg64_ctxs (a n : Nat) : (setReg64 d a n).ctxs = d.ctxs := (rfl)
@[simp] theorem setReg64_cores (a n : Nat) : (setReg64 d a n).cores = d.cores := (rfl)
@[simp] theorem setReg64_arrived (a n : Nat) : (setReg64 d a n).arrived = d.arrived := (rfl)
@[simp] theorem setReg64_mods (a n : Nat) : (setReg64 d a n).mods = d.mods := (rfl)
@[simp] theorem setReg64_edges (a n : Nat) : (setReg64 d a n).edges = d.edges := (rfl)
@[simp] theorem setReg64_relayHeld (a n : Nat) : (setReg64 d a n).relayHeld = d.relayHeld := (rfl)
@[simp] theorem setReg64_creditSeen (a n : Nat) : (setReg64 d a n).creditSeen = d.creditSeen := (rfl)
@[simp] theorem setReg64_ports (a n : Nat) : (setReg64 d a n).ports = d.ports := (rfl)
@[simp] theorem setReg64_sorters (a n : Nat) : (setReg64 d a n).sorters = d.sorters := (rfl)
@[simp] theorem setReg64_mem (a n : Nat) : (setReg64 d a n).mem = d.mem := (rfl)
@[simp] theorem setReg64_poison (a n : Nat) : (setReg64 d a n).poison = d.poison := (rfl)
@[simp] theorem setReg64_filled (a n : Nat) : (setReg64 d a n).filled = d.filled := (rfl)
@[simp] theorem setReg64_filling (a n : Nat) : (setReg64 d a n).filling = d.filling := (rfl)
@[simp] theorem setReg64_fillDue (a n : Nat) : (setReg64 d a n).fillDue = d.fillDue := (rfl)
@[simp] theorem setReg64_hbmErr (a n : Nat) : (setReg64 d a n).hbmErr = d.hbmErr := (rfl)
@[simp] theorem setReg64_hbmTag (a n : Nat) : (setReg64 d a n).hbmTag = d.hbmTag := (rfl)
@[simp] theorem setReg64_sramErr (a n : Nat) : (setReg64 d a n).sramErr = d.sramErr := (rfl)
@[simp] theorem setReg64_scrubFull (a n : Nat) : (setReg64 d a n).scrubFull = d.scrubFull := (rfl)
@[simp] theorem setReg64_trace (a n : Nat) : (setReg64 d a n).trace = d.trace := (rfl)
@[simp] theorem setReg64_clock (a n : Nat) : (setReg64 d a n).clock = d.clock := (rfl)
@[simp] theorem setReg64_free (a n : Nat) : (setReg64 d a n).free = d.free := (rfl)
@[simp] theorem setReg64_baseLetter (a n : Nat) : (setReg64 d a n).baseLetter = d.baseLetter := (rfl)
@[simp] theorem setReg64_baseNum (a n : Nat) : (setReg64 d a n).baseNum = d.baseNum := (rfl)
@[simp] theorem setReg64_uds (a n : Nat) : (setReg64 d a n).uds = d.uds := (rfl)
@[simp] theorem setReg64_rootDigest (a n : Nat) : (setReg64 d a n).rootDigest = d.rootDigest := (rfl)
@[simp] theorem setReg64_caKey (a n : Nat) : (setReg64 d a n).caKey = d.caKey := (rfl)
@[simp] theorem setReg64_fresh (a n : Nat) : (setReg64 d a n).fresh = d.fresh := (rfl)
@[simp] theorem setReg64_fillWait (a n : Nat) : (setReg64 d a n).fillWait = d.fillWait := (rfl)
@[simp] theorem setReg64_out (a n : Nat) : (setReg64 d a n).out = d.out := (rfl)

/-! ### setRfld -/

@[simp] theorem setRfld_board (a lo w v : Nat) : (setRfld d a lo w v).board = d.board := (rfl)
@[simp] theorem setRfld_dies (a lo w v : Nat) : (setRfld d a lo w v).dies = d.dies := (rfl)
@[simp] theorem setRfld_baseLevel (a lo w v : Nat) : (setRfld d a lo w v).baseLevel = d.baseLevel := (rfl)
@[simp] theorem setRfld_flash (a lo w v : Nat) : (setRfld d a lo w v).flash = d.flash := (rfl)
@[simp] theorem setRfld_commits (a lo w v : Nat) : (setRfld d a lo w v).commits = d.commits := (rfl)
@[simp] theorem setRfld_hiHeld (a lo w v : Nat) : (setRfld d a lo w v).hiHeld = d.hiHeld := (rfl)
@[simp] theorem setRfld_loLatch (a lo w v : Nat) : (setRfld d a lo w v).loLatch = d.loLatch := (rfl)
@[simp] theorem setRfld_esc (a lo w v : Nat) : (setRfld d a lo w v).esc = d.esc := (rfl)
@[simp] theorem setRfld_recent (a lo w v : Nat) : (setRfld d a lo w v).recent = d.recent := (rfl)
@[simp] theorem setRfld_book (a lo w v : Nat) : (setRfld d a lo w v).book = d.book := (rfl)
@[simp] theorem setRfld_cfg (a lo w v : Nat) : (setRfld d a lo w v).cfg = d.cfg := (rfl)
@[simp] theorem setRfld_msixTable (a lo w v : Nat) : (setRfld d a lo w v).msixTable = d.msixTable := (rfl)
@[simp] theorem setRfld_pba (a lo w v : Nat) : (setRfld d a lo w v).pba = d.pba := (rfl)
@[simp] theorem setRfld_lines (a lo w v : Nat) : (setRfld d a lo w v).lines = d.lines := (rfl)
@[simp] theorem setRfld_hdma (a lo w v : Nat) : (setRfld d a lo w v).hdma = d.hdma := (rfl)
@[simp] theorem setRfld_resp (a lo w v : Nat) : (setRfld d a lo w v).resp = d.resp := (rfl)
@[simp] theorem setRfld_job (a lo w v : Nat) : (setRfld d a lo w v).job = d.job := (rfl)
@[simp] theorem setRfld_sealU (a lo w v : Nat) : (setRfld d a lo w v).sealU = d.sealU := (rfl)
@[simp] theorem setRfld_twin (a lo w v : Nat) : (setRfld d a lo w v).twin = d.twin := (rfl)
@[simp] theorem setRfld_ctxs (a lo w v : Nat) : (setRfld d a lo w v).ctxs = d.ctxs := (rfl)
@[simp] theorem setRfld_cores (a lo w v : Nat) : (setRfld d a lo w v).cores = d.cores := (rfl)
@[simp] theorem setRfld_arrived (a lo w v : Nat) : (setRfld d a lo w v).arrived = d.arrived := (rfl)
@[simp] theorem setRfld_mods (a lo w v : Nat) : (setRfld d a lo w v).mods = d.mods := (rfl)
@[simp] theorem setRfld_edges (a lo w v : Nat) : (setRfld d a lo w v).edges = d.edges := (rfl)
@[simp] theorem setRfld_relayHeld (a lo w v : Nat) : (setRfld d a lo w v).relayHeld = d.relayHeld := (rfl)
@[simp] theorem setRfld_creditSeen (a lo w v : Nat) : (setRfld d a lo w v).creditSeen = d.creditSeen := (rfl)
@[simp] theorem setRfld_ports (a lo w v : Nat) : (setRfld d a lo w v).ports = d.ports := (rfl)
@[simp] theorem setRfld_sorters (a lo w v : Nat) : (setRfld d a lo w v).sorters = d.sorters := (rfl)
@[simp] theorem setRfld_mem (a lo w v : Nat) : (setRfld d a lo w v).mem = d.mem := (rfl)
@[simp] theorem setRfld_poison (a lo w v : Nat) : (setRfld d a lo w v).poison = d.poison := (rfl)
@[simp] theorem setRfld_filled (a lo w v : Nat) : (setRfld d a lo w v).filled = d.filled := (rfl)
@[simp] theorem setRfld_filling (a lo w v : Nat) : (setRfld d a lo w v).filling = d.filling := (rfl)
@[simp] theorem setRfld_fillDue (a lo w v : Nat) : (setRfld d a lo w v).fillDue = d.fillDue := (rfl)
@[simp] theorem setRfld_hbmErr (a lo w v : Nat) : (setRfld d a lo w v).hbmErr = d.hbmErr := (rfl)
@[simp] theorem setRfld_hbmTag (a lo w v : Nat) : (setRfld d a lo w v).hbmTag = d.hbmTag := (rfl)
@[simp] theorem setRfld_sramErr (a lo w v : Nat) : (setRfld d a lo w v).sramErr = d.sramErr := (rfl)
@[simp] theorem setRfld_scrubFull (a lo w v : Nat) : (setRfld d a lo w v).scrubFull = d.scrubFull := (rfl)
@[simp] theorem setRfld_trace (a lo w v : Nat) : (setRfld d a lo w v).trace = d.trace := (rfl)
@[simp] theorem setRfld_clock (a lo w v : Nat) : (setRfld d a lo w v).clock = d.clock := (rfl)
@[simp] theorem setRfld_free (a lo w v : Nat) : (setRfld d a lo w v).free = d.free := (rfl)
@[simp] theorem setRfld_baseLetter (a lo w v : Nat) : (setRfld d a lo w v).baseLetter = d.baseLetter := (rfl)
@[simp] theorem setRfld_baseNum (a lo w v : Nat) : (setRfld d a lo w v).baseNum = d.baseNum := (rfl)
@[simp] theorem setRfld_uds (a lo w v : Nat) : (setRfld d a lo w v).uds = d.uds := (rfl)
@[simp] theorem setRfld_rootDigest (a lo w v : Nat) : (setRfld d a lo w v).rootDigest = d.rootDigest := (rfl)
@[simp] theorem setRfld_caKey (a lo w v : Nat) : (setRfld d a lo w v).caKey = d.caKey := (rfl)
@[simp] theorem setRfld_fresh (a lo w v : Nat) : (setRfld d a lo w v).fresh = d.fresh := (rfl)
@[simp] theorem setRfld_fillWait (a lo w v : Nat) : (setRfld d a lo w v).fillWait = d.fillWait := (rfl)
@[simp] theorem setRfld_out (a lo w v : Nat) : (setRfld d a lo w v).out = d.out := (rfl)

/-! ### setCtrl -/

@[simp] theorem setCtrl_board (a v : Nat) : (setCtrl d a v).board = d.board := (rfl)
@[simp] theorem setCtrl_dies (a v : Nat) : (setCtrl d a v).dies = d.dies := (rfl)
@[simp] theorem setCtrl_baseLevel (a v : Nat) : (setCtrl d a v).baseLevel = d.baseLevel := (rfl)
@[simp] theorem setCtrl_flash (a v : Nat) : (setCtrl d a v).flash = d.flash := (rfl)
@[simp] theorem setCtrl_commits (a v : Nat) : (setCtrl d a v).commits = d.commits := (rfl)
@[simp] theorem setCtrl_hiHeld (a v : Nat) : (setCtrl d a v).hiHeld = d.hiHeld := (rfl)
@[simp] theorem setCtrl_loLatch (a v : Nat) : (setCtrl d a v).loLatch = d.loLatch := (rfl)
@[simp] theorem setCtrl_esc (a v : Nat) : (setCtrl d a v).esc = d.esc := (rfl)
@[simp] theorem setCtrl_recent (a v : Nat) : (setCtrl d a v).recent = d.recent := (rfl)
@[simp] theorem setCtrl_book (a v : Nat) : (setCtrl d a v).book = d.book := (rfl)
@[simp] theorem setCtrl_cfg (a v : Nat) : (setCtrl d a v).cfg = d.cfg := (rfl)
@[simp] theorem setCtrl_msixTable (a v : Nat) : (setCtrl d a v).msixTable = d.msixTable := (rfl)
@[simp] theorem setCtrl_pba (a v : Nat) : (setCtrl d a v).pba = d.pba := (rfl)
@[simp] theorem setCtrl_lines (a v : Nat) : (setCtrl d a v).lines = d.lines := (rfl)
@[simp] theorem setCtrl_hdma (a v : Nat) : (setCtrl d a v).hdma = d.hdma := (rfl)
@[simp] theorem setCtrl_resp (a v : Nat) : (setCtrl d a v).resp = d.resp := (rfl)
@[simp] theorem setCtrl_job (a v : Nat) : (setCtrl d a v).job = d.job := (rfl)
@[simp] theorem setCtrl_sealU (a v : Nat) : (setCtrl d a v).sealU = d.sealU := (rfl)
@[simp] theorem setCtrl_twin (a v : Nat) : (setCtrl d a v).twin = d.twin := (rfl)
@[simp] theorem setCtrl_ctxs (a v : Nat) : (setCtrl d a v).ctxs = d.ctxs := (rfl)
@[simp] theorem setCtrl_cores (a v : Nat) : (setCtrl d a v).cores = d.cores := (rfl)
@[simp] theorem setCtrl_arrived (a v : Nat) : (setCtrl d a v).arrived = d.arrived := (rfl)
@[simp] theorem setCtrl_mods (a v : Nat) : (setCtrl d a v).mods = d.mods := (rfl)
@[simp] theorem setCtrl_edges (a v : Nat) : (setCtrl d a v).edges = d.edges := (rfl)
@[simp] theorem setCtrl_relayHeld (a v : Nat) : (setCtrl d a v).relayHeld = d.relayHeld := (rfl)
@[simp] theorem setCtrl_creditSeen (a v : Nat) : (setCtrl d a v).creditSeen = d.creditSeen := (rfl)
@[simp] theorem setCtrl_ports (a v : Nat) : (setCtrl d a v).ports = d.ports := (rfl)
@[simp] theorem setCtrl_sorters (a v : Nat) : (setCtrl d a v).sorters = d.sorters := (rfl)
@[simp] theorem setCtrl_mem (a v : Nat) : (setCtrl d a v).mem = d.mem := (rfl)
@[simp] theorem setCtrl_poison (a v : Nat) : (setCtrl d a v).poison = d.poison := (rfl)
@[simp] theorem setCtrl_filled (a v : Nat) : (setCtrl d a v).filled = d.filled := (rfl)
@[simp] theorem setCtrl_filling (a v : Nat) : (setCtrl d a v).filling = d.filling := (rfl)
@[simp] theorem setCtrl_fillDue (a v : Nat) : (setCtrl d a v).fillDue = d.fillDue := (rfl)
@[simp] theorem setCtrl_hbmErr (a v : Nat) : (setCtrl d a v).hbmErr = d.hbmErr := (rfl)
@[simp] theorem setCtrl_hbmTag (a v : Nat) : (setCtrl d a v).hbmTag = d.hbmTag := (rfl)
@[simp] theorem setCtrl_sramErr (a v : Nat) : (setCtrl d a v).sramErr = d.sramErr := (rfl)
@[simp] theorem setCtrl_scrubFull (a v : Nat) : (setCtrl d a v).scrubFull = d.scrubFull := (rfl)
@[simp] theorem setCtrl_trace (a v : Nat) : (setCtrl d a v).trace = d.trace := (rfl)
@[simp] theorem setCtrl_clock (a v : Nat) : (setCtrl d a v).clock = d.clock := (rfl)
@[simp] theorem setCtrl_free (a v : Nat) : (setCtrl d a v).free = d.free := (rfl)
@[simp] theorem setCtrl_baseLetter (a v : Nat) : (setCtrl d a v).baseLetter = d.baseLetter := (rfl)
@[simp] theorem setCtrl_baseNum (a v : Nat) : (setCtrl d a v).baseNum = d.baseNum := (rfl)
@[simp] theorem setCtrl_uds (a v : Nat) : (setCtrl d a v).uds = d.uds := (rfl)
@[simp] theorem setCtrl_rootDigest (a v : Nat) : (setCtrl d a v).rootDigest = d.rootDigest := (rfl)
@[simp] theorem setCtrl_caKey (a v : Nat) : (setCtrl d a v).caKey = d.caKey := (rfl)
@[simp] theorem setCtrl_fresh (a v : Nat) : (setCtrl d a v).fresh = d.fresh := (rfl)
@[simp] theorem setCtrl_fillWait (a v : Nat) : (setCtrl d a v).fillWait = d.fillWait := (rfl)
@[simp] theorem setCtrl_out (a v : Nat) : (setCtrl d a v).out = d.out := (rfl)

/-! ### putCore -/

@[simp] theorem putCore_board (k : Nat) (x : Core) : (putCore d k x).board = d.board := (rfl)
@[simp] theorem putCore_dies (k : Nat) (x : Core) : (putCore d k x).dies = d.dies := (rfl)
@[simp] theorem putCore_baseLevel (k : Nat) (x : Core) : (putCore d k x).baseLevel = d.baseLevel := (rfl)
@[simp] theorem putCore_flash (k : Nat) (x : Core) : (putCore d k x).flash = d.flash := (rfl)
@[simp] theorem putCore_regs (k : Nat) (x : Core) : (putCore d k x).regs = d.regs := (rfl)
@[simp] theorem putCore_commits (k : Nat) (x : Core) : (putCore d k x).commits = d.commits := (rfl)
@[simp] theorem putCore_hiHeld (k : Nat) (x : Core) : (putCore d k x).hiHeld = d.hiHeld := (rfl)
@[simp] theorem putCore_loLatch (k : Nat) (x : Core) : (putCore d k x).loLatch = d.loLatch := (rfl)
@[simp] theorem putCore_esc (k : Nat) (x : Core) : (putCore d k x).esc = d.esc := (rfl)
@[simp] theorem putCore_recent (k : Nat) (x : Core) : (putCore d k x).recent = d.recent := (rfl)
@[simp] theorem putCore_book (k : Nat) (x : Core) : (putCore d k x).book = d.book := (rfl)
@[simp] theorem putCore_cfg (k : Nat) (x : Core) : (putCore d k x).cfg = d.cfg := (rfl)
@[simp] theorem putCore_msixTable (k : Nat) (x : Core) : (putCore d k x).msixTable = d.msixTable := (rfl)
@[simp] theorem putCore_pba (k : Nat) (x : Core) : (putCore d k x).pba = d.pba := (rfl)
@[simp] theorem putCore_lines (k : Nat) (x : Core) : (putCore d k x).lines = d.lines := (rfl)
@[simp] theorem putCore_hdma (k : Nat) (x : Core) : (putCore d k x).hdma = d.hdma := (rfl)
@[simp] theorem putCore_resp (k : Nat) (x : Core) : (putCore d k x).resp = d.resp := (rfl)
@[simp] theorem putCore_job (k : Nat) (x : Core) : (putCore d k x).job = d.job := (rfl)
@[simp] theorem putCore_sealU (k : Nat) (x : Core) : (putCore d k x).sealU = d.sealU := (rfl)
@[simp] theorem putCore_twin (k : Nat) (x : Core) : (putCore d k x).twin = d.twin := (rfl)
@[simp] theorem putCore_ctxs (k : Nat) (x : Core) : (putCore d k x).ctxs = d.ctxs := (rfl)
@[simp] theorem putCore_arrived (k : Nat) (x : Core) : (putCore d k x).arrived = d.arrived := (rfl)
@[simp] theorem putCore_mods (k : Nat) (x : Core) : (putCore d k x).mods = d.mods := (rfl)
@[simp] theorem putCore_edges (k : Nat) (x : Core) : (putCore d k x).edges = d.edges := (rfl)
@[simp] theorem putCore_relayHeld (k : Nat) (x : Core) : (putCore d k x).relayHeld = d.relayHeld := (rfl)
@[simp] theorem putCore_creditSeen (k : Nat) (x : Core) : (putCore d k x).creditSeen = d.creditSeen := (rfl)
@[simp] theorem putCore_ports (k : Nat) (x : Core) : (putCore d k x).ports = d.ports := (rfl)
@[simp] theorem putCore_sorters (k : Nat) (x : Core) : (putCore d k x).sorters = d.sorters := (rfl)
@[simp] theorem putCore_mem (k : Nat) (x : Core) : (putCore d k x).mem = d.mem := (rfl)
@[simp] theorem putCore_poison (k : Nat) (x : Core) : (putCore d k x).poison = d.poison := (rfl)
@[simp] theorem putCore_filled (k : Nat) (x : Core) : (putCore d k x).filled = d.filled := (rfl)
@[simp] theorem putCore_filling (k : Nat) (x : Core) : (putCore d k x).filling = d.filling := (rfl)
@[simp] theorem putCore_fillDue (k : Nat) (x : Core) : (putCore d k x).fillDue = d.fillDue := (rfl)
@[simp] theorem putCore_hbmErr (k : Nat) (x : Core) : (putCore d k x).hbmErr = d.hbmErr := (rfl)
@[simp] theorem putCore_hbmTag (k : Nat) (x : Core) : (putCore d k x).hbmTag = d.hbmTag := (rfl)
@[simp] theorem putCore_sramErr (k : Nat) (x : Core) : (putCore d k x).sramErr = d.sramErr := (rfl)
@[simp] theorem putCore_scrubFull (k : Nat) (x : Core) : (putCore d k x).scrubFull = d.scrubFull := (rfl)
@[simp] theorem putCore_trace (k : Nat) (x : Core) : (putCore d k x).trace = d.trace := (rfl)
@[simp] theorem putCore_clock (k : Nat) (x : Core) : (putCore d k x).clock = d.clock := (rfl)
@[simp] theorem putCore_free (k : Nat) (x : Core) : (putCore d k x).free = d.free := (rfl)
@[simp] theorem putCore_baseLetter (k : Nat) (x : Core) : (putCore d k x).baseLetter = d.baseLetter := (rfl)
@[simp] theorem putCore_baseNum (k : Nat) (x : Core) : (putCore d k x).baseNum = d.baseNum := (rfl)
@[simp] theorem putCore_uds (k : Nat) (x : Core) : (putCore d k x).uds = d.uds := (rfl)
@[simp] theorem putCore_rootDigest (k : Nat) (x : Core) : (putCore d k x).rootDigest = d.rootDigest := (rfl)
@[simp] theorem putCore_caKey (k : Nat) (x : Core) : (putCore d k x).caKey = d.caKey := (rfl)
@[simp] theorem putCore_fresh (k : Nat) (x : Core) : (putCore d k x).fresh = d.fresh := (rfl)
@[simp] theorem putCore_fillWait (k : Nat) (x : Core) : (putCore d k x).fillWait = d.fillWait := (rfl)
@[simp] theorem putCore_out (k : Nat) (x : Core) : (putCore d k x).out = d.out := (rfl)

/-! ### putCtx -/

@[simp] theorem putCtx_board (k : Nat) (x : Ctx) : (putCtx d k x).board = d.board := (rfl)
@[simp] theorem putCtx_dies (k : Nat) (x : Ctx) : (putCtx d k x).dies = d.dies := (rfl)
@[simp] theorem putCtx_baseLevel (k : Nat) (x : Ctx) : (putCtx d k x).baseLevel = d.baseLevel := (rfl)
@[simp] theorem putCtx_flash (k : Nat) (x : Ctx) : (putCtx d k x).flash = d.flash := (rfl)
@[simp] theorem putCtx_regs (k : Nat) (x : Ctx) : (putCtx d k x).regs = d.regs := (rfl)
@[simp] theorem putCtx_commits (k : Nat) (x : Ctx) : (putCtx d k x).commits = d.commits := (rfl)
@[simp] theorem putCtx_hiHeld (k : Nat) (x : Ctx) : (putCtx d k x).hiHeld = d.hiHeld := (rfl)
@[simp] theorem putCtx_loLatch (k : Nat) (x : Ctx) : (putCtx d k x).loLatch = d.loLatch := (rfl)
@[simp] theorem putCtx_esc (k : Nat) (x : Ctx) : (putCtx d k x).esc = d.esc := (rfl)
@[simp] theorem putCtx_recent (k : Nat) (x : Ctx) : (putCtx d k x).recent = d.recent := (rfl)
@[simp] theorem putCtx_book (k : Nat) (x : Ctx) : (putCtx d k x).book = d.book := (rfl)
@[simp] theorem putCtx_cfg (k : Nat) (x : Ctx) : (putCtx d k x).cfg = d.cfg := (rfl)
@[simp] theorem putCtx_msixTable (k : Nat) (x : Ctx) : (putCtx d k x).msixTable = d.msixTable := (rfl)
@[simp] theorem putCtx_pba (k : Nat) (x : Ctx) : (putCtx d k x).pba = d.pba := (rfl)
@[simp] theorem putCtx_lines (k : Nat) (x : Ctx) : (putCtx d k x).lines = d.lines := (rfl)
@[simp] theorem putCtx_hdma (k : Nat) (x : Ctx) : (putCtx d k x).hdma = d.hdma := (rfl)
@[simp] theorem putCtx_resp (k : Nat) (x : Ctx) : (putCtx d k x).resp = d.resp := (rfl)
@[simp] theorem putCtx_job (k : Nat) (x : Ctx) : (putCtx d k x).job = d.job := (rfl)
@[simp] theorem putCtx_sealU (k : Nat) (x : Ctx) : (putCtx d k x).sealU = d.sealU := (rfl)
@[simp] theorem putCtx_twin (k : Nat) (x : Ctx) : (putCtx d k x).twin = d.twin := (rfl)
@[simp] theorem putCtx_cores (k : Nat) (x : Ctx) : (putCtx d k x).cores = d.cores := (rfl)
@[simp] theorem putCtx_arrived (k : Nat) (x : Ctx) : (putCtx d k x).arrived = d.arrived := (rfl)
@[simp] theorem putCtx_mods (k : Nat) (x : Ctx) : (putCtx d k x).mods = d.mods := (rfl)
@[simp] theorem putCtx_edges (k : Nat) (x : Ctx) : (putCtx d k x).edges = d.edges := (rfl)
@[simp] theorem putCtx_relayHeld (k : Nat) (x : Ctx) : (putCtx d k x).relayHeld = d.relayHeld := (rfl)
@[simp] theorem putCtx_creditSeen (k : Nat) (x : Ctx) : (putCtx d k x).creditSeen = d.creditSeen := (rfl)
@[simp] theorem putCtx_ports (k : Nat) (x : Ctx) : (putCtx d k x).ports = d.ports := (rfl)
@[simp] theorem putCtx_sorters (k : Nat) (x : Ctx) : (putCtx d k x).sorters = d.sorters := (rfl)
@[simp] theorem putCtx_mem (k : Nat) (x : Ctx) : (putCtx d k x).mem = d.mem := (rfl)
@[simp] theorem putCtx_poison (k : Nat) (x : Ctx) : (putCtx d k x).poison = d.poison := (rfl)
@[simp] theorem putCtx_filled (k : Nat) (x : Ctx) : (putCtx d k x).filled = d.filled := (rfl)
@[simp] theorem putCtx_filling (k : Nat) (x : Ctx) : (putCtx d k x).filling = d.filling := (rfl)
@[simp] theorem putCtx_fillDue (k : Nat) (x : Ctx) : (putCtx d k x).fillDue = d.fillDue := (rfl)
@[simp] theorem putCtx_hbmErr (k : Nat) (x : Ctx) : (putCtx d k x).hbmErr = d.hbmErr := (rfl)
@[simp] theorem putCtx_hbmTag (k : Nat) (x : Ctx) : (putCtx d k x).hbmTag = d.hbmTag := (rfl)
@[simp] theorem putCtx_sramErr (k : Nat) (x : Ctx) : (putCtx d k x).sramErr = d.sramErr := (rfl)
@[simp] theorem putCtx_scrubFull (k : Nat) (x : Ctx) : (putCtx d k x).scrubFull = d.scrubFull := (rfl)
@[simp] theorem putCtx_trace (k : Nat) (x : Ctx) : (putCtx d k x).trace = d.trace := (rfl)
@[simp] theorem putCtx_clock (k : Nat) (x : Ctx) : (putCtx d k x).clock = d.clock := (rfl)
@[simp] theorem putCtx_free (k : Nat) (x : Ctx) : (putCtx d k x).free = d.free := (rfl)
@[simp] theorem putCtx_baseLetter (k : Nat) (x : Ctx) : (putCtx d k x).baseLetter = d.baseLetter := (rfl)
@[simp] theorem putCtx_baseNum (k : Nat) (x : Ctx) : (putCtx d k x).baseNum = d.baseNum := (rfl)
@[simp] theorem putCtx_uds (k : Nat) (x : Ctx) : (putCtx d k x).uds = d.uds := (rfl)
@[simp] theorem putCtx_rootDigest (k : Nat) (x : Ctx) : (putCtx d k x).rootDigest = d.rootDigest := (rfl)
@[simp] theorem putCtx_caKey (k : Nat) (x : Ctx) : (putCtx d k x).caKey = d.caKey := (rfl)
@[simp] theorem putCtx_fresh (k : Nat) (x : Ctx) : (putCtx d k x).fresh = d.fresh := (rfl)
@[simp] theorem putCtx_fillWait (k : Nat) (x : Ctx) : (putCtx d k x).fillWait = d.fillWait := (rfl)
@[simp] theorem putCtx_out (k : Nat) (x : Ctx) : (putCtx d k x).out = d.out := (rfl)

/-! ### putMod -/

@[simp] theorem putMod_board (k : Nat) (x : Module) : (putMod d k x).board = d.board := (rfl)
@[simp] theorem putMod_dies (k : Nat) (x : Module) : (putMod d k x).dies = d.dies := (rfl)
@[simp] theorem putMod_baseLevel (k : Nat) (x : Module) : (putMod d k x).baseLevel = d.baseLevel := (rfl)
@[simp] theorem putMod_flash (k : Nat) (x : Module) : (putMod d k x).flash = d.flash := (rfl)
@[simp] theorem putMod_regs (k : Nat) (x : Module) : (putMod d k x).regs = d.regs := (rfl)
@[simp] theorem putMod_commits (k : Nat) (x : Module) : (putMod d k x).commits = d.commits := (rfl)
@[simp] theorem putMod_hiHeld (k : Nat) (x : Module) : (putMod d k x).hiHeld = d.hiHeld := (rfl)
@[simp] theorem putMod_loLatch (k : Nat) (x : Module) : (putMod d k x).loLatch = d.loLatch := (rfl)
@[simp] theorem putMod_esc (k : Nat) (x : Module) : (putMod d k x).esc = d.esc := (rfl)
@[simp] theorem putMod_recent (k : Nat) (x : Module) : (putMod d k x).recent = d.recent := (rfl)
@[simp] theorem putMod_book (k : Nat) (x : Module) : (putMod d k x).book = d.book := (rfl)
@[simp] theorem putMod_cfg (k : Nat) (x : Module) : (putMod d k x).cfg = d.cfg := (rfl)
@[simp] theorem putMod_msixTable (k : Nat) (x : Module) : (putMod d k x).msixTable = d.msixTable := (rfl)
@[simp] theorem putMod_pba (k : Nat) (x : Module) : (putMod d k x).pba = d.pba := (rfl)
@[simp] theorem putMod_lines (k : Nat) (x : Module) : (putMod d k x).lines = d.lines := (rfl)
@[simp] theorem putMod_hdma (k : Nat) (x : Module) : (putMod d k x).hdma = d.hdma := (rfl)
@[simp] theorem putMod_resp (k : Nat) (x : Module) : (putMod d k x).resp = d.resp := (rfl)
@[simp] theorem putMod_job (k : Nat) (x : Module) : (putMod d k x).job = d.job := (rfl)
@[simp] theorem putMod_sealU (k : Nat) (x : Module) : (putMod d k x).sealU = d.sealU := (rfl)
@[simp] theorem putMod_twin (k : Nat) (x : Module) : (putMod d k x).twin = d.twin := (rfl)
@[simp] theorem putMod_ctxs (k : Nat) (x : Module) : (putMod d k x).ctxs = d.ctxs := (rfl)
@[simp] theorem putMod_cores (k : Nat) (x : Module) : (putMod d k x).cores = d.cores := (rfl)
@[simp] theorem putMod_arrived (k : Nat) (x : Module) : (putMod d k x).arrived = d.arrived := (rfl)
@[simp] theorem putMod_edges (k : Nat) (x : Module) : (putMod d k x).edges = d.edges := (rfl)
@[simp] theorem putMod_relayHeld (k : Nat) (x : Module) : (putMod d k x).relayHeld = d.relayHeld := (rfl)
@[simp] theorem putMod_creditSeen (k : Nat) (x : Module) : (putMod d k x).creditSeen = d.creditSeen := (rfl)
@[simp] theorem putMod_ports (k : Nat) (x : Module) : (putMod d k x).ports = d.ports := (rfl)
@[simp] theorem putMod_sorters (k : Nat) (x : Module) : (putMod d k x).sorters = d.sorters := (rfl)
@[simp] theorem putMod_mem (k : Nat) (x : Module) : (putMod d k x).mem = d.mem := (rfl)
@[simp] theorem putMod_poison (k : Nat) (x : Module) : (putMod d k x).poison = d.poison := (rfl)
@[simp] theorem putMod_filled (k : Nat) (x : Module) : (putMod d k x).filled = d.filled := (rfl)
@[simp] theorem putMod_filling (k : Nat) (x : Module) : (putMod d k x).filling = d.filling := (rfl)
@[simp] theorem putMod_fillDue (k : Nat) (x : Module) : (putMod d k x).fillDue = d.fillDue := (rfl)
@[simp] theorem putMod_hbmErr (k : Nat) (x : Module) : (putMod d k x).hbmErr = d.hbmErr := (rfl)
@[simp] theorem putMod_hbmTag (k : Nat) (x : Module) : (putMod d k x).hbmTag = d.hbmTag := (rfl)
@[simp] theorem putMod_sramErr (k : Nat) (x : Module) : (putMod d k x).sramErr = d.sramErr := (rfl)
@[simp] theorem putMod_scrubFull (k : Nat) (x : Module) : (putMod d k x).scrubFull = d.scrubFull := (rfl)
@[simp] theorem putMod_trace (k : Nat) (x : Module) : (putMod d k x).trace = d.trace := (rfl)
@[simp] theorem putMod_clock (k : Nat) (x : Module) : (putMod d k x).clock = d.clock := (rfl)
@[simp] theorem putMod_free (k : Nat) (x : Module) : (putMod d k x).free = d.free := (rfl)
@[simp] theorem putMod_baseLetter (k : Nat) (x : Module) : (putMod d k x).baseLetter = d.baseLetter := (rfl)
@[simp] theorem putMod_baseNum (k : Nat) (x : Module) : (putMod d k x).baseNum = d.baseNum := (rfl)
@[simp] theorem putMod_uds (k : Nat) (x : Module) : (putMod d k x).uds = d.uds := (rfl)
@[simp] theorem putMod_rootDigest (k : Nat) (x : Module) : (putMod d k x).rootDigest = d.rootDigest := (rfl)
@[simp] theorem putMod_caKey (k : Nat) (x : Module) : (putMod d k x).caKey = d.caKey := (rfl)
@[simp] theorem putMod_fresh (k : Nat) (x : Module) : (putMod d k x).fresh = d.fresh := (rfl)
@[simp] theorem putMod_fillWait (k : Nat) (x : Module) : (putMod d k x).fillWait = d.fillWait := (rfl)
@[simp] theorem putMod_out (k : Nat) (x : Module) : (putMod d k x).out = d.out := (rfl)

/-! ### putEdge -/

@[simp] theorem putEdge_board (k : Nat) (x : Edge) : (putEdge d k x).board = d.board := (rfl)
@[simp] theorem putEdge_dies (k : Nat) (x : Edge) : (putEdge d k x).dies = d.dies := (rfl)
@[simp] theorem putEdge_baseLevel (k : Nat) (x : Edge) : (putEdge d k x).baseLevel = d.baseLevel := (rfl)
@[simp] theorem putEdge_flash (k : Nat) (x : Edge) : (putEdge d k x).flash = d.flash := (rfl)
@[simp] theorem putEdge_regs (k : Nat) (x : Edge) : (putEdge d k x).regs = d.regs := (rfl)
@[simp] theorem putEdge_commits (k : Nat) (x : Edge) : (putEdge d k x).commits = d.commits := (rfl)
@[simp] theorem putEdge_hiHeld (k : Nat) (x : Edge) : (putEdge d k x).hiHeld = d.hiHeld := (rfl)
@[simp] theorem putEdge_loLatch (k : Nat) (x : Edge) : (putEdge d k x).loLatch = d.loLatch := (rfl)
@[simp] theorem putEdge_esc (k : Nat) (x : Edge) : (putEdge d k x).esc = d.esc := (rfl)
@[simp] theorem putEdge_recent (k : Nat) (x : Edge) : (putEdge d k x).recent = d.recent := (rfl)
@[simp] theorem putEdge_book (k : Nat) (x : Edge) : (putEdge d k x).book = d.book := (rfl)
@[simp] theorem putEdge_cfg (k : Nat) (x : Edge) : (putEdge d k x).cfg = d.cfg := (rfl)
@[simp] theorem putEdge_msixTable (k : Nat) (x : Edge) : (putEdge d k x).msixTable = d.msixTable := (rfl)
@[simp] theorem putEdge_pba (k : Nat) (x : Edge) : (putEdge d k x).pba = d.pba := (rfl)
@[simp] theorem putEdge_lines (k : Nat) (x : Edge) : (putEdge d k x).lines = d.lines := (rfl)
@[simp] theorem putEdge_hdma (k : Nat) (x : Edge) : (putEdge d k x).hdma = d.hdma := (rfl)
@[simp] theorem putEdge_resp (k : Nat) (x : Edge) : (putEdge d k x).resp = d.resp := (rfl)
@[simp] theorem putEdge_job (k : Nat) (x : Edge) : (putEdge d k x).job = d.job := (rfl)
@[simp] theorem putEdge_sealU (k : Nat) (x : Edge) : (putEdge d k x).sealU = d.sealU := (rfl)
@[simp] theorem putEdge_twin (k : Nat) (x : Edge) : (putEdge d k x).twin = d.twin := (rfl)
@[simp] theorem putEdge_ctxs (k : Nat) (x : Edge) : (putEdge d k x).ctxs = d.ctxs := (rfl)
@[simp] theorem putEdge_cores (k : Nat) (x : Edge) : (putEdge d k x).cores = d.cores := (rfl)
@[simp] theorem putEdge_arrived (k : Nat) (x : Edge) : (putEdge d k x).arrived = d.arrived := (rfl)
@[simp] theorem putEdge_mods (k : Nat) (x : Edge) : (putEdge d k x).mods = d.mods := (rfl)
@[simp] theorem putEdge_relayHeld (k : Nat) (x : Edge) : (putEdge d k x).relayHeld = d.relayHeld := (rfl)
@[simp] theorem putEdge_creditSeen (k : Nat) (x : Edge) : (putEdge d k x).creditSeen = d.creditSeen := (rfl)
@[simp] theorem putEdge_ports (k : Nat) (x : Edge) : (putEdge d k x).ports = d.ports := (rfl)
@[simp] theorem putEdge_sorters (k : Nat) (x : Edge) : (putEdge d k x).sorters = d.sorters := (rfl)
@[simp] theorem putEdge_mem (k : Nat) (x : Edge) : (putEdge d k x).mem = d.mem := (rfl)
@[simp] theorem putEdge_poison (k : Nat) (x : Edge) : (putEdge d k x).poison = d.poison := (rfl)
@[simp] theorem putEdge_filled (k : Nat) (x : Edge) : (putEdge d k x).filled = d.filled := (rfl)
@[simp] theorem putEdge_filling (k : Nat) (x : Edge) : (putEdge d k x).filling = d.filling := (rfl)
@[simp] theorem putEdge_fillDue (k : Nat) (x : Edge) : (putEdge d k x).fillDue = d.fillDue := (rfl)
@[simp] theorem putEdge_hbmErr (k : Nat) (x : Edge) : (putEdge d k x).hbmErr = d.hbmErr := (rfl)
@[simp] theorem putEdge_hbmTag (k : Nat) (x : Edge) : (putEdge d k x).hbmTag = d.hbmTag := (rfl)
@[simp] theorem putEdge_sramErr (k : Nat) (x : Edge) : (putEdge d k x).sramErr = d.sramErr := (rfl)
@[simp] theorem putEdge_scrubFull (k : Nat) (x : Edge) : (putEdge d k x).scrubFull = d.scrubFull := (rfl)
@[simp] theorem putEdge_trace (k : Nat) (x : Edge) : (putEdge d k x).trace = d.trace := (rfl)
@[simp] theorem putEdge_clock (k : Nat) (x : Edge) : (putEdge d k x).clock = d.clock := (rfl)
@[simp] theorem putEdge_free (k : Nat) (x : Edge) : (putEdge d k x).free = d.free := (rfl)
@[simp] theorem putEdge_baseLetter (k : Nat) (x : Edge) : (putEdge d k x).baseLetter = d.baseLetter := (rfl)
@[simp] theorem putEdge_baseNum (k : Nat) (x : Edge) : (putEdge d k x).baseNum = d.baseNum := (rfl)
@[simp] theorem putEdge_uds (k : Nat) (x : Edge) : (putEdge d k x).uds = d.uds := (rfl)
@[simp] theorem putEdge_rootDigest (k : Nat) (x : Edge) : (putEdge d k x).rootDigest = d.rootDigest := (rfl)
@[simp] theorem putEdge_caKey (k : Nat) (x : Edge) : (putEdge d k x).caKey = d.caKey := (rfl)
@[simp] theorem putEdge_fresh (k : Nat) (x : Edge) : (putEdge d k x).fresh = d.fresh := (rfl)
@[simp] theorem putEdge_fillWait (k : Nat) (x : Edge) : (putEdge d k x).fillWait = d.fillWait := (rfl)
@[simp] theorem putEdge_out (k : Nat) (x : Edge) : (putEdge d k x).out = d.out := (rfl)

/-! ### putPort -/

@[simp] theorem putPort_board (k : Nat) (x : Port) : (putPort d k x).board = d.board := (rfl)
@[simp] theorem putPort_dies (k : Nat) (x : Port) : (putPort d k x).dies = d.dies := (rfl)
@[simp] theorem putPort_baseLevel (k : Nat) (x : Port) : (putPort d k x).baseLevel = d.baseLevel := (rfl)
@[simp] theorem putPort_flash (k : Nat) (x : Port) : (putPort d k x).flash = d.flash := (rfl)
@[simp] theorem putPort_regs (k : Nat) (x : Port) : (putPort d k x).regs = d.regs := (rfl)
@[simp] theorem putPort_commits (k : Nat) (x : Port) : (putPort d k x).commits = d.commits := (rfl)
@[simp] theorem putPort_hiHeld (k : Nat) (x : Port) : (putPort d k x).hiHeld = d.hiHeld := (rfl)
@[simp] theorem putPort_loLatch (k : Nat) (x : Port) : (putPort d k x).loLatch = d.loLatch := (rfl)
@[simp] theorem putPort_esc (k : Nat) (x : Port) : (putPort d k x).esc = d.esc := (rfl)
@[simp] theorem putPort_recent (k : Nat) (x : Port) : (putPort d k x).recent = d.recent := (rfl)
@[simp] theorem putPort_book (k : Nat) (x : Port) : (putPort d k x).book = d.book := (rfl)
@[simp] theorem putPort_cfg (k : Nat) (x : Port) : (putPort d k x).cfg = d.cfg := (rfl)
@[simp] theorem putPort_msixTable (k : Nat) (x : Port) : (putPort d k x).msixTable = d.msixTable := (rfl)
@[simp] theorem putPort_pba (k : Nat) (x : Port) : (putPort d k x).pba = d.pba := (rfl)
@[simp] theorem putPort_lines (k : Nat) (x : Port) : (putPort d k x).lines = d.lines := (rfl)
@[simp] theorem putPort_hdma (k : Nat) (x : Port) : (putPort d k x).hdma = d.hdma := (rfl)
@[simp] theorem putPort_resp (k : Nat) (x : Port) : (putPort d k x).resp = d.resp := (rfl)
@[simp] theorem putPort_job (k : Nat) (x : Port) : (putPort d k x).job = d.job := (rfl)
@[simp] theorem putPort_sealU (k : Nat) (x : Port) : (putPort d k x).sealU = d.sealU := (rfl)
@[simp] theorem putPort_twin (k : Nat) (x : Port) : (putPort d k x).twin = d.twin := (rfl)
@[simp] theorem putPort_ctxs (k : Nat) (x : Port) : (putPort d k x).ctxs = d.ctxs := (rfl)
@[simp] theorem putPort_cores (k : Nat) (x : Port) : (putPort d k x).cores = d.cores := (rfl)
@[simp] theorem putPort_arrived (k : Nat) (x : Port) : (putPort d k x).arrived = d.arrived := (rfl)
@[simp] theorem putPort_mods (k : Nat) (x : Port) : (putPort d k x).mods = d.mods := (rfl)
@[simp] theorem putPort_edges (k : Nat) (x : Port) : (putPort d k x).edges = d.edges := (rfl)
@[simp] theorem putPort_relayHeld (k : Nat) (x : Port) : (putPort d k x).relayHeld = d.relayHeld := (rfl)
@[simp] theorem putPort_creditSeen (k : Nat) (x : Port) : (putPort d k x).creditSeen = d.creditSeen := (rfl)
@[simp] theorem putPort_sorters (k : Nat) (x : Port) : (putPort d k x).sorters = d.sorters := (rfl)
@[simp] theorem putPort_mem (k : Nat) (x : Port) : (putPort d k x).mem = d.mem := (rfl)
@[simp] theorem putPort_poison (k : Nat) (x : Port) : (putPort d k x).poison = d.poison := (rfl)
@[simp] theorem putPort_filled (k : Nat) (x : Port) : (putPort d k x).filled = d.filled := (rfl)
@[simp] theorem putPort_filling (k : Nat) (x : Port) : (putPort d k x).filling = d.filling := (rfl)
@[simp] theorem putPort_fillDue (k : Nat) (x : Port) : (putPort d k x).fillDue = d.fillDue := (rfl)
@[simp] theorem putPort_hbmErr (k : Nat) (x : Port) : (putPort d k x).hbmErr = d.hbmErr := (rfl)
@[simp] theorem putPort_hbmTag (k : Nat) (x : Port) : (putPort d k x).hbmTag = d.hbmTag := (rfl)
@[simp] theorem putPort_sramErr (k : Nat) (x : Port) : (putPort d k x).sramErr = d.sramErr := (rfl)
@[simp] theorem putPort_scrubFull (k : Nat) (x : Port) : (putPort d k x).scrubFull = d.scrubFull := (rfl)
@[simp] theorem putPort_trace (k : Nat) (x : Port) : (putPort d k x).trace = d.trace := (rfl)
@[simp] theorem putPort_clock (k : Nat) (x : Port) : (putPort d k x).clock = d.clock := (rfl)
@[simp] theorem putPort_free (k : Nat) (x : Port) : (putPort d k x).free = d.free := (rfl)
@[simp] theorem putPort_baseLetter (k : Nat) (x : Port) : (putPort d k x).baseLetter = d.baseLetter := (rfl)
@[simp] theorem putPort_baseNum (k : Nat) (x : Port) : (putPort d k x).baseNum = d.baseNum := (rfl)
@[simp] theorem putPort_uds (k : Nat) (x : Port) : (putPort d k x).uds = d.uds := (rfl)
@[simp] theorem putPort_rootDigest (k : Nat) (x : Port) : (putPort d k x).rootDigest = d.rootDigest := (rfl)
@[simp] theorem putPort_caKey (k : Nat) (x : Port) : (putPort d k x).caKey = d.caKey := (rfl)
@[simp] theorem putPort_fresh (k : Nat) (x : Port) : (putPort d k x).fresh = d.fresh := (rfl)
@[simp] theorem putPort_fillWait (k : Nat) (x : Port) : (putPort d k x).fillWait = d.fillWait := (rfl)
@[simp] theorem putPort_out (k : Nat) (x : Port) : (putPort d k x).out = d.out := (rfl)

/-! ### putSorter -/

@[simp] theorem putSorter_board (k : Nat) (x : Sorter) : (putSorter d k x).board = d.board := (rfl)
@[simp] theorem putSorter_dies (k : Nat) (x : Sorter) : (putSorter d k x).dies = d.dies := (rfl)
@[simp] theorem putSorter_baseLevel (k : Nat) (x : Sorter) : (putSorter d k x).baseLevel = d.baseLevel := (rfl)
@[simp] theorem putSorter_flash (k : Nat) (x : Sorter) : (putSorter d k x).flash = d.flash := (rfl)
@[simp] theorem putSorter_regs (k : Nat) (x : Sorter) : (putSorter d k x).regs = d.regs := (rfl)
@[simp] theorem putSorter_commits (k : Nat) (x : Sorter) : (putSorter d k x).commits = d.commits := (rfl)
@[simp] theorem putSorter_hiHeld (k : Nat) (x : Sorter) : (putSorter d k x).hiHeld = d.hiHeld := (rfl)
@[simp] theorem putSorter_loLatch (k : Nat) (x : Sorter) : (putSorter d k x).loLatch = d.loLatch := (rfl)
@[simp] theorem putSorter_esc (k : Nat) (x : Sorter) : (putSorter d k x).esc = d.esc := (rfl)
@[simp] theorem putSorter_recent (k : Nat) (x : Sorter) : (putSorter d k x).recent = d.recent := (rfl)
@[simp] theorem putSorter_book (k : Nat) (x : Sorter) : (putSorter d k x).book = d.book := (rfl)
@[simp] theorem putSorter_cfg (k : Nat) (x : Sorter) : (putSorter d k x).cfg = d.cfg := (rfl)
@[simp] theorem putSorter_msixTable (k : Nat) (x : Sorter) : (putSorter d k x).msixTable = d.msixTable := (rfl)
@[simp] theorem putSorter_pba (k : Nat) (x : Sorter) : (putSorter d k x).pba = d.pba := (rfl)
@[simp] theorem putSorter_lines (k : Nat) (x : Sorter) : (putSorter d k x).lines = d.lines := (rfl)
@[simp] theorem putSorter_hdma (k : Nat) (x : Sorter) : (putSorter d k x).hdma = d.hdma := (rfl)
@[simp] theorem putSorter_resp (k : Nat) (x : Sorter) : (putSorter d k x).resp = d.resp := (rfl)
@[simp] theorem putSorter_job (k : Nat) (x : Sorter) : (putSorter d k x).job = d.job := (rfl)
@[simp] theorem putSorter_sealU (k : Nat) (x : Sorter) : (putSorter d k x).sealU = d.sealU := (rfl)
@[simp] theorem putSorter_twin (k : Nat) (x : Sorter) : (putSorter d k x).twin = d.twin := (rfl)
@[simp] theorem putSorter_ctxs (k : Nat) (x : Sorter) : (putSorter d k x).ctxs = d.ctxs := (rfl)
@[simp] theorem putSorter_cores (k : Nat) (x : Sorter) : (putSorter d k x).cores = d.cores := (rfl)
@[simp] theorem putSorter_arrived (k : Nat) (x : Sorter) : (putSorter d k x).arrived = d.arrived := (rfl)
@[simp] theorem putSorter_mods (k : Nat) (x : Sorter) : (putSorter d k x).mods = d.mods := (rfl)
@[simp] theorem putSorter_edges (k : Nat) (x : Sorter) : (putSorter d k x).edges = d.edges := (rfl)
@[simp] theorem putSorter_relayHeld (k : Nat) (x : Sorter) : (putSorter d k x).relayHeld = d.relayHeld := (rfl)
@[simp] theorem putSorter_creditSeen (k : Nat) (x : Sorter) : (putSorter d k x).creditSeen = d.creditSeen := (rfl)
@[simp] theorem putSorter_ports (k : Nat) (x : Sorter) : (putSorter d k x).ports = d.ports := (rfl)
@[simp] theorem putSorter_mem (k : Nat) (x : Sorter) : (putSorter d k x).mem = d.mem := (rfl)
@[simp] theorem putSorter_poison (k : Nat) (x : Sorter) : (putSorter d k x).poison = d.poison := (rfl)
@[simp] theorem putSorter_filled (k : Nat) (x : Sorter) : (putSorter d k x).filled = d.filled := (rfl)
@[simp] theorem putSorter_filling (k : Nat) (x : Sorter) : (putSorter d k x).filling = d.filling := (rfl)
@[simp] theorem putSorter_fillDue (k : Nat) (x : Sorter) : (putSorter d k x).fillDue = d.fillDue := (rfl)
@[simp] theorem putSorter_hbmErr (k : Nat) (x : Sorter) : (putSorter d k x).hbmErr = d.hbmErr := (rfl)
@[simp] theorem putSorter_hbmTag (k : Nat) (x : Sorter) : (putSorter d k x).hbmTag = d.hbmTag := (rfl)
@[simp] theorem putSorter_sramErr (k : Nat) (x : Sorter) : (putSorter d k x).sramErr = d.sramErr := (rfl)
@[simp] theorem putSorter_scrubFull (k : Nat) (x : Sorter) : (putSorter d k x).scrubFull = d.scrubFull := (rfl)
@[simp] theorem putSorter_trace (k : Nat) (x : Sorter) : (putSorter d k x).trace = d.trace := (rfl)
@[simp] theorem putSorter_clock (k : Nat) (x : Sorter) : (putSorter d k x).clock = d.clock := (rfl)
@[simp] theorem putSorter_free (k : Nat) (x : Sorter) : (putSorter d k x).free = d.free := (rfl)
@[simp] theorem putSorter_baseLetter (k : Nat) (x : Sorter) : (putSorter d k x).baseLetter = d.baseLetter := (rfl)
@[simp] theorem putSorter_baseNum (k : Nat) (x : Sorter) : (putSorter d k x).baseNum = d.baseNum := (rfl)
@[simp] theorem putSorter_uds (k : Nat) (x : Sorter) : (putSorter d k x).uds = d.uds := (rfl)
@[simp] theorem putSorter_rootDigest (k : Nat) (x : Sorter) : (putSorter d k x).rootDigest = d.rootDigest := (rfl)
@[simp] theorem putSorter_caKey (k : Nat) (x : Sorter) : (putSorter d k x).caKey = d.caKey := (rfl)
@[simp] theorem putSorter_fresh (k : Nat) (x : Sorter) : (putSorter d k x).fresh = d.fresh := (rfl)
@[simp] theorem putSorter_fillWait (k : Nat) (x : Sorter) : (putSorter d k x).fillWait = d.fillWait := (rfl)
@[simp] theorem putSorter_out (k : Nat) (x : Sorter) : (putSorter d k x).out = d.out := (rfl)

/-! ### putHdma -/

@[simp] theorem putHdma_board (k : Nat) (x : Hdma) : (putHdma d k x).board = d.board := (rfl)
@[simp] theorem putHdma_dies (k : Nat) (x : Hdma) : (putHdma d k x).dies = d.dies := (rfl)
@[simp] theorem putHdma_baseLevel (k : Nat) (x : Hdma) : (putHdma d k x).baseLevel = d.baseLevel := (rfl)
@[simp] theorem putHdma_flash (k : Nat) (x : Hdma) : (putHdma d k x).flash = d.flash := (rfl)
@[simp] theorem putHdma_regs (k : Nat) (x : Hdma) : (putHdma d k x).regs = d.regs := (rfl)
@[simp] theorem putHdma_commits (k : Nat) (x : Hdma) : (putHdma d k x).commits = d.commits := (rfl)
@[simp] theorem putHdma_hiHeld (k : Nat) (x : Hdma) : (putHdma d k x).hiHeld = d.hiHeld := (rfl)
@[simp] theorem putHdma_loLatch (k : Nat) (x : Hdma) : (putHdma d k x).loLatch = d.loLatch := (rfl)
@[simp] theorem putHdma_esc (k : Nat) (x : Hdma) : (putHdma d k x).esc = d.esc := (rfl)
@[simp] theorem putHdma_recent (k : Nat) (x : Hdma) : (putHdma d k x).recent = d.recent := (rfl)
@[simp] theorem putHdma_book (k : Nat) (x : Hdma) : (putHdma d k x).book = d.book := (rfl)
@[simp] theorem putHdma_cfg (k : Nat) (x : Hdma) : (putHdma d k x).cfg = d.cfg := (rfl)
@[simp] theorem putHdma_msixTable (k : Nat) (x : Hdma) : (putHdma d k x).msixTable = d.msixTable := (rfl)
@[simp] theorem putHdma_pba (k : Nat) (x : Hdma) : (putHdma d k x).pba = d.pba := (rfl)
@[simp] theorem putHdma_lines (k : Nat) (x : Hdma) : (putHdma d k x).lines = d.lines := (rfl)
@[simp] theorem putHdma_resp (k : Nat) (x : Hdma) : (putHdma d k x).resp = d.resp := (rfl)
@[simp] theorem putHdma_job (k : Nat) (x : Hdma) : (putHdma d k x).job = d.job := (rfl)
@[simp] theorem putHdma_sealU (k : Nat) (x : Hdma) : (putHdma d k x).sealU = d.sealU := (rfl)
@[simp] theorem putHdma_twin (k : Nat) (x : Hdma) : (putHdma d k x).twin = d.twin := (rfl)
@[simp] theorem putHdma_ctxs (k : Nat) (x : Hdma) : (putHdma d k x).ctxs = d.ctxs := (rfl)
@[simp] theorem putHdma_cores (k : Nat) (x : Hdma) : (putHdma d k x).cores = d.cores := (rfl)
@[simp] theorem putHdma_arrived (k : Nat) (x : Hdma) : (putHdma d k x).arrived = d.arrived := (rfl)
@[simp] theorem putHdma_mods (k : Nat) (x : Hdma) : (putHdma d k x).mods = d.mods := (rfl)
@[simp] theorem putHdma_edges (k : Nat) (x : Hdma) : (putHdma d k x).edges = d.edges := (rfl)
@[simp] theorem putHdma_relayHeld (k : Nat) (x : Hdma) : (putHdma d k x).relayHeld = d.relayHeld := (rfl)
@[simp] theorem putHdma_creditSeen (k : Nat) (x : Hdma) : (putHdma d k x).creditSeen = d.creditSeen := (rfl)
@[simp] theorem putHdma_ports (k : Nat) (x : Hdma) : (putHdma d k x).ports = d.ports := (rfl)
@[simp] theorem putHdma_sorters (k : Nat) (x : Hdma) : (putHdma d k x).sorters = d.sorters := (rfl)
@[simp] theorem putHdma_mem (k : Nat) (x : Hdma) : (putHdma d k x).mem = d.mem := (rfl)
@[simp] theorem putHdma_poison (k : Nat) (x : Hdma) : (putHdma d k x).poison = d.poison := (rfl)
@[simp] theorem putHdma_filled (k : Nat) (x : Hdma) : (putHdma d k x).filled = d.filled := (rfl)
@[simp] theorem putHdma_filling (k : Nat) (x : Hdma) : (putHdma d k x).filling = d.filling := (rfl)
@[simp] theorem putHdma_fillDue (k : Nat) (x : Hdma) : (putHdma d k x).fillDue = d.fillDue := (rfl)
@[simp] theorem putHdma_hbmErr (k : Nat) (x : Hdma) : (putHdma d k x).hbmErr = d.hbmErr := (rfl)
@[simp] theorem putHdma_hbmTag (k : Nat) (x : Hdma) : (putHdma d k x).hbmTag = d.hbmTag := (rfl)
@[simp] theorem putHdma_sramErr (k : Nat) (x : Hdma) : (putHdma d k x).sramErr = d.sramErr := (rfl)
@[simp] theorem putHdma_scrubFull (k : Nat) (x : Hdma) : (putHdma d k x).scrubFull = d.scrubFull := (rfl)
@[simp] theorem putHdma_trace (k : Nat) (x : Hdma) : (putHdma d k x).trace = d.trace := (rfl)
@[simp] theorem putHdma_clock (k : Nat) (x : Hdma) : (putHdma d k x).clock = d.clock := (rfl)
@[simp] theorem putHdma_free (k : Nat) (x : Hdma) : (putHdma d k x).free = d.free := (rfl)
@[simp] theorem putHdma_baseLetter (k : Nat) (x : Hdma) : (putHdma d k x).baseLetter = d.baseLetter := (rfl)
@[simp] theorem putHdma_baseNum (k : Nat) (x : Hdma) : (putHdma d k x).baseNum = d.baseNum := (rfl)
@[simp] theorem putHdma_uds (k : Nat) (x : Hdma) : (putHdma d k x).uds = d.uds := (rfl)
@[simp] theorem putHdma_rootDigest (k : Nat) (x : Hdma) : (putHdma d k x).rootDigest = d.rootDigest := (rfl)
@[simp] theorem putHdma_caKey (k : Nat) (x : Hdma) : (putHdma d k x).caKey = d.caKey := (rfl)
@[simp] theorem putHdma_fresh (k : Nat) (x : Hdma) : (putHdma d k x).fresh = d.fresh := (rfl)
@[simp] theorem putHdma_fillWait (k : Nat) (x : Hdma) : (putHdma d k x).fillWait = d.fillWait := (rfl)
@[simp] theorem putHdma_out (k : Nat) (x : Hdma) : (putHdma d k x).out = d.out := (rfl)

/-! ### emit -/

@[simp] theorem emit_board (o : Out) : (emit d o).board = d.board := (rfl)
@[simp] theorem emit_dies (o : Out) : (emit d o).dies = d.dies := (rfl)
@[simp] theorem emit_baseLevel (o : Out) : (emit d o).baseLevel = d.baseLevel := (rfl)
@[simp] theorem emit_flash (o : Out) : (emit d o).flash = d.flash := (rfl)
@[simp] theorem emit_regs (o : Out) : (emit d o).regs = d.regs := (rfl)
@[simp] theorem emit_commits (o : Out) : (emit d o).commits = d.commits := (rfl)
@[simp] theorem emit_hiHeld (o : Out) : (emit d o).hiHeld = d.hiHeld := (rfl)
@[simp] theorem emit_loLatch (o : Out) : (emit d o).loLatch = d.loLatch := (rfl)
@[simp] theorem emit_esc (o : Out) : (emit d o).esc = d.esc := (rfl)
@[simp] theorem emit_recent (o : Out) : (emit d o).recent = d.recent := (rfl)
@[simp] theorem emit_book (o : Out) : (emit d o).book = d.book := (rfl)
@[simp] theorem emit_cfg (o : Out) : (emit d o).cfg = d.cfg := (rfl)
@[simp] theorem emit_msixTable (o : Out) : (emit d o).msixTable = d.msixTable := (rfl)
@[simp] theorem emit_pba (o : Out) : (emit d o).pba = d.pba := (rfl)
@[simp] theorem emit_lines (o : Out) : (emit d o).lines = d.lines := (rfl)
@[simp] theorem emit_hdma (o : Out) : (emit d o).hdma = d.hdma := (rfl)
@[simp] theorem emit_resp (o : Out) : (emit d o).resp = d.resp := (rfl)
@[simp] theorem emit_job (o : Out) : (emit d o).job = d.job := (rfl)
@[simp] theorem emit_sealU (o : Out) : (emit d o).sealU = d.sealU := (rfl)
@[simp] theorem emit_twin (o : Out) : (emit d o).twin = d.twin := (rfl)
@[simp] theorem emit_ctxs (o : Out) : (emit d o).ctxs = d.ctxs := (rfl)
@[simp] theorem emit_cores (o : Out) : (emit d o).cores = d.cores := (rfl)
@[simp] theorem emit_arrived (o : Out) : (emit d o).arrived = d.arrived := (rfl)
@[simp] theorem emit_mods (o : Out) : (emit d o).mods = d.mods := (rfl)
@[simp] theorem emit_edges (o : Out) : (emit d o).edges = d.edges := (rfl)
@[simp] theorem emit_relayHeld (o : Out) : (emit d o).relayHeld = d.relayHeld := (rfl)
@[simp] theorem emit_creditSeen (o : Out) : (emit d o).creditSeen = d.creditSeen := (rfl)
@[simp] theorem emit_ports (o : Out) : (emit d o).ports = d.ports := (rfl)
@[simp] theorem emit_sorters (o : Out) : (emit d o).sorters = d.sorters := (rfl)
@[simp] theorem emit_mem (o : Out) : (emit d o).mem = d.mem := (rfl)
@[simp] theorem emit_poison (o : Out) : (emit d o).poison = d.poison := (rfl)
@[simp] theorem emit_filled (o : Out) : (emit d o).filled = d.filled := (rfl)
@[simp] theorem emit_filling (o : Out) : (emit d o).filling = d.filling := (rfl)
@[simp] theorem emit_fillDue (o : Out) : (emit d o).fillDue = d.fillDue := (rfl)
@[simp] theorem emit_hbmErr (o : Out) : (emit d o).hbmErr = d.hbmErr := (rfl)
@[simp] theorem emit_hbmTag (o : Out) : (emit d o).hbmTag = d.hbmTag := (rfl)
@[simp] theorem emit_sramErr (o : Out) : (emit d o).sramErr = d.sramErr := (rfl)
@[simp] theorem emit_scrubFull (o : Out) : (emit d o).scrubFull = d.scrubFull := (rfl)
@[simp] theorem emit_trace (o : Out) : (emit d o).trace = d.trace := (rfl)
@[simp] theorem emit_clock (o : Out) : (emit d o).clock = d.clock := (rfl)
@[simp] theorem emit_free (o : Out) : (emit d o).free = d.free := (rfl)

/-! ### What a unit holds after a write -/

@[simp] theorem getCore_putCore (k : Nat) (x : Core) : getCore (putCore d k x) k = x := sget_sput_same _ _ _ _
theorem getCore_putCore_other {k j : Nat} (x : Core) (h : j ≠ k) : getCore (putCore d k x) j = getCore d j := sget_sput_other _ _ _ h
@[simp] theorem getCore_setReg (j : Nat) (a : Nat) (v : W32) : getCore (setReg d a v) j = getCore d j := (rfl)
@[simp] theorem getCore_setRegN (j : Nat) (a n : Nat) : getCore (setRegN d a n) j = getCore d j := (rfl)
@[simp] theorem getCore_addSat (j : Nat) (a n : Nat) : getCore (addSat d a n) j = getCore d j := (rfl)
@[simp] theorem getCore_incSat (j : Nat) (a : Nat) : getCore (incSat d a) j = getCore d j := (rfl)
@[simp] theorem getCore_setReg64 (j : Nat) (a n : Nat) : getCore (setReg64 d a n) j = getCore d j := (rfl)
@[simp] theorem getCore_setRfld (j : Nat) (a lo w v : Nat) : getCore (setRfld d a lo w v) j = getCore d j := (rfl)
@[simp] theorem getCore_setCtrl (j : Nat) (a v : Nat) : getCore (setCtrl d a v) j = getCore d j := (rfl)
@[simp] theorem getCore_putCtx (j : Nat) (k : Nat) (x : Ctx) : getCore (putCtx d k x) j = getCore d j := (rfl)
@[simp] theorem getCore_putMod (j : Nat) (k : Nat) (x : Module) : getCore (putMod d k x) j = getCore d j := (rfl)
@[simp] theorem getCore_putEdge (j : Nat) (k : Nat) (x : Edge) : getCore (putEdge d k x) j = getCore d j := (rfl)
@[simp] theorem getCore_putPort (j : Nat) (k : Nat) (x : Port) : getCore (putPort d k x) j = getCore d j := (rfl)
@[simp] theorem getCore_putSorter (j : Nat) (k : Nat) (x : Sorter) : getCore (putSorter d k x) j = getCore d j := (rfl)
@[simp] theorem getCore_putHdma (j : Nat) (k : Nat) (x : Hdma) : getCore (putHdma d k x) j = getCore d j := (rfl)
@[simp] theorem getCore_emit (j : Nat) (o : Out) : getCore (emit d o) j = getCore d j := (rfl)
@[simp] theorem getCtx_putCtx (k : Nat) (x : Ctx) : getCtx (putCtx d k x) k = x := sget_sput_same _ _ _ _
theorem getCtx_putCtx_other {k j : Nat} (x : Ctx) (h : j ≠ k) : getCtx (putCtx d k x) j = getCtx d j := sget_sput_other _ _ _ h
@[simp] theorem getCtx_setReg (j : Nat) (a : Nat) (v : W32) : getCtx (setReg d a v) j = getCtx d j := (rfl)
@[simp] theorem getCtx_setRegN (j : Nat) (a n : Nat) : getCtx (setRegN d a n) j = getCtx d j := (rfl)
@[simp] theorem getCtx_addSat (j : Nat) (a n : Nat) : getCtx (addSat d a n) j = getCtx d j := (rfl)
@[simp] theorem getCtx_incSat (j : Nat) (a : Nat) : getCtx (incSat d a) j = getCtx d j := (rfl)
@[simp] theorem getCtx_setReg64 (j : Nat) (a n : Nat) : getCtx (setReg64 d a n) j = getCtx d j := (rfl)
@[simp] theorem getCtx_setRfld (j : Nat) (a lo w v : Nat) : getCtx (setRfld d a lo w v) j = getCtx d j := (rfl)
@[simp] theorem getCtx_setCtrl (j : Nat) (a v : Nat) : getCtx (setCtrl d a v) j = getCtx d j := (rfl)
@[simp] theorem getCtx_putCore (j : Nat) (k : Nat) (x : Core) : getCtx (putCore d k x) j = getCtx d j := (rfl)
@[simp] theorem getCtx_putMod (j : Nat) (k : Nat) (x : Module) : getCtx (putMod d k x) j = getCtx d j := (rfl)
@[simp] theorem getCtx_putEdge (j : Nat) (k : Nat) (x : Edge) : getCtx (putEdge d k x) j = getCtx d j := (rfl)
@[simp] theorem getCtx_putPort (j : Nat) (k : Nat) (x : Port) : getCtx (putPort d k x) j = getCtx d j := (rfl)
@[simp] theorem getCtx_putSorter (j : Nat) (k : Nat) (x : Sorter) : getCtx (putSorter d k x) j = getCtx d j := (rfl)
@[simp] theorem getCtx_putHdma (j : Nat) (k : Nat) (x : Hdma) : getCtx (putHdma d k x) j = getCtx d j := (rfl)
@[simp] theorem getCtx_emit (j : Nat) (o : Out) : getCtx (emit d o) j = getCtx d j := (rfl)
@[simp] theorem getMod_putMod (k : Nat) (x : Module) : getMod (putMod d k x) k = x := sget_sput_same _ _ _ _
theorem getMod_putMod_other {k j : Nat} (x : Module) (h : j ≠ k) : getMod (putMod d k x) j = getMod d j := sget_sput_other _ _ _ h
@[simp] theorem getEdge_putEdge (k : Nat) (x : Edge) : getEdge (putEdge d k x) k = x := sget_sput_same _ _ _ _
theorem getEdge_putEdge_other {k j : Nat} (x : Edge) (h : j ≠ k) : getEdge (putEdge d k x) j = getEdge d j := sget_sput_other _ _ _ h
@[simp] theorem getPort_putPort (k : Nat) (x : Port) : getPort (putPort d k x) k = x := sget_sput_same _ _ _ _
theorem getPort_putPort_other {k j : Nat} (x : Port) (h : j ≠ k) : getPort (putPort d k x) j = getPort d j := sget_sput_other _ _ _ h
@[simp] theorem getPort_setReg (j : Nat) (a : Nat) (v : W32) : getPort (setReg d a v) j = getPort d j := (rfl)
@[simp] theorem getPort_setRegN (j : Nat) (a n : Nat) : getPort (setRegN d a n) j = getPort d j := (rfl)
@[simp] theorem getPort_addSat (j : Nat) (a n : Nat) : getPort (addSat d a n) j = getPort d j := (rfl)
@[simp] theorem getPort_incSat (j : Nat) (a : Nat) : getPort (incSat d a) j = getPort d j := (rfl)
@[simp] theorem getPort_setReg64 (j : Nat) (a n : Nat) : getPort (setReg64 d a n) j = getPort d j := (rfl)
@[simp] theorem getPort_setRfld (j : Nat) (a lo w v : Nat) : getPort (setRfld d a lo w v) j = getPort d j := (rfl)
@[simp] theorem getPort_setCtrl (j : Nat) (a v : Nat) : getPort (setCtrl d a v) j = getPort d j := (rfl)
@[simp] theorem getPort_putCore (j : Nat) (k : Nat) (x : Core) : getPort (putCore d k x) j = getPort d j := (rfl)
@[simp] theorem getPort_putCtx (j : Nat) (k : Nat) (x : Ctx) : getPort (putCtx d k x) j = getPort d j := (rfl)
@[simp] theorem getPort_putMod (j : Nat) (k : Nat) (x : Module) : getPort (putMod d k x) j = getPort d j := (rfl)
@[simp] theorem getPort_putEdge (j : Nat) (k : Nat) (x : Edge) : getPort (putEdge d k x) j = getPort d j := (rfl)
@[simp] theorem getPort_putSorter (j : Nat) (k : Nat) (x : Sorter) : getPort (putSorter d k x) j = getPort d j := (rfl)
@[simp] theorem getPort_putHdma (j : Nat) (k : Nat) (x : Hdma) : getPort (putHdma d k x) j = getPort d j := (rfl)
@[simp] theorem getPort_emit (j : Nat) (o : Out) : getPort (emit d o) j = getPort d j := (rfl)
@[simp] theorem getSorter_putSorter (k : Nat) (x : Sorter) : getSorter (putSorter d k x) k = x := sget_sput_same _ _ _ _
theorem getSorter_putSorter_other {k j : Nat} (x : Sorter) (h : j ≠ k) : getSorter (putSorter d k x) j = getSorter d j := sget_sput_other _ _ _ h
@[simp] theorem getSorter_setReg (j : Nat) (a : Nat) (v : W32) : getSorter (setReg d a v) j = getSorter d j := (rfl)
@[simp] theorem getSorter_setRegN (j : Nat) (a n : Nat) : getSorter (setRegN d a n) j = getSorter d j := (rfl)
@[simp] theorem getSorter_addSat (j : Nat) (a n : Nat) : getSorter (addSat d a n) j = getSorter d j := (rfl)
@[simp] theorem getSorter_incSat (j : Nat) (a : Nat) : getSorter (incSat d a) j = getSorter d j := (rfl)
@[simp] theorem getSorter_setReg64 (j : Nat) (a n : Nat) : getSorter (setReg64 d a n) j = getSorter d j := (rfl)
@[simp] theorem getSorter_setRfld (j : Nat) (a lo w v : Nat) : getSorter (setRfld d a lo w v) j = getSorter d j := (rfl)
@[simp] theorem getSorter_setCtrl (j : Nat) (a v : Nat) : getSorter (setCtrl d a v) j = getSorter d j := (rfl)
@[simp] theorem getSorter_putCore (j : Nat) (k : Nat) (x : Core) : getSorter (putCore d k x) j = getSorter d j := (rfl)
@[simp] theorem getSorter_putCtx (j : Nat) (k : Nat) (x : Ctx) : getSorter (putCtx d k x) j = getSorter d j := (rfl)
@[simp] theorem getSorter_putMod (j : Nat) (k : Nat) (x : Module) : getSorter (putMod d k x) j = getSorter d j := (rfl)
@[simp] theorem getSorter_putEdge (j : Nat) (k : Nat) (x : Edge) : getSorter (putEdge d k x) j = getSorter d j := (rfl)
@[simp] theorem getSorter_putPort (j : Nat) (k : Nat) (x : Port) : getSorter (putPort d k x) j = getSorter d j := (rfl)
@[simp] theorem getSorter_putHdma (j : Nat) (k : Nat) (x : Hdma) : getSorter (putHdma d k x) j = getSorter d j := (rfl)
@[simp] theorem getSorter_emit (j : Nat) (o : Out) : getSorter (emit d o) j = getSorter d j := (rfl)
@[simp] theorem getHdma_putHdma (k : Nat) (x : Hdma) : getHdma (putHdma d k x) k = x := sget_sput_same _ _ _ _
theorem getHdma_putHdma_other {k j : Nat} (x : Hdma) (h : j ≠ k) : getHdma (putHdma d k x) j = getHdma d j := sget_sput_other _ _ _ h
@[simp] theorem reg_setReg (a : Nat) (v : W32) : reg (setReg d a v) a = v := sget_sput_same _ _ _ _
theorem reg_setReg_other {a b : Nat} (v : W32) (h : b ≠ a) : reg (setReg d a v) b = reg d b := sget_sput_other _ _ _ h
theorem reg_setReg_ite (a b : Nat) (v : W32) : reg (setReg d a v) b = if b = a then v else reg d b := sget_sput _ _ _ _ _
theorem regN_setRegN_ite (a b n : Nat) : regN (setRegN d a n) b = if b = a then n % 2 ^ 32 else regN d b := by
  unfold regN setRegN
  rw [reg_setReg_ite]
  split <;> simp
@[simp] theorem regN_setRegN (a n : Nat) : regN (setRegN d a n) a = n % 2 ^ 32 := by simp [regN_setRegN_ite]
theorem regN_setRegN_other {a b : Nat} (n : Nat) (h : b ≠ a) : regN (setRegN d a n) b = regN d b := by simp [regN_setRegN_ite, h]
@[simp] theorem reg_putCore (j : Nat) (k : Nat) (x : Core) : reg (putCore d k x) j = reg d j := (rfl)
@[simp] theorem regN_putCore (j : Nat) (k : Nat) (x : Core) : regN (putCore d k x) j = regN d j := (rfl)
@[simp] theorem reg_putCtx (j : Nat) (k : Nat) (x : Ctx) : reg (putCtx d k x) j = reg d j := (rfl)
@[simp] theorem regN_putCtx (j : Nat) (k : Nat) (x : Ctx) : regN (putCtx d k x) j = regN d j := (rfl)
@[simp] theorem reg_putMod (j : Nat) (k : Nat) (x : Module) : reg (putMod d k x) j = reg d j := (rfl)
@[simp] theorem regN_putMod (j : Nat) (k : Nat) (x : Module) : regN (putMod d k x) j = regN d j := (rfl)
@[simp] theorem reg_putEdge (j : Nat) (k : Nat) (x : Edge) : reg (putEdge d k x) j = reg d j := (rfl)
@[simp] theorem regN_putEdge (j : Nat) (k : Nat) (x : Edge) : regN (putEdge d k x) j = regN d j := (rfl)
@[simp] theorem reg_putPort (j : Nat) (k : Nat) (x : Port) : reg (putPort d k x) j = reg d j := (rfl)
@[simp] theorem regN_putPort (j : Nat) (k : Nat) (x : Port) : regN (putPort d k x) j = regN d j := (rfl)
@[simp] theorem reg_putSorter (j : Nat) (k : Nat) (x : Sorter) : reg (putSorter d k x) j = reg d j := (rfl)
@[simp] theorem regN_putSorter (j : Nat) (k : Nat) (x : Sorter) : regN (putSorter d k x) j = regN d j := (rfl)
@[simp] theorem reg_putHdma (j : Nat) (k : Nat) (x : Hdma) : reg (putHdma d k x) j = reg d j := (rfl)
@[simp] theorem regN_putHdma (j : Nat) (k : Nat) (x : Hdma) : regN (putHdma d k x) j = regN d j := (rfl)
@[simp] theorem reg_emit (j : Nat) (o : Out) : reg (emit d o) j = reg d j := (rfl)
@[simp] theorem regN_emit (j : Nat) (o : Out) : regN (emit d o) j = regN d j := (rfl)

end Sys2Proof.Machine
end

