-- ==== Sys2Proof/Laws/Reports.lean ====
section
/-!
SUPPORT. What counting, tracing and recording an error may touch: registers, trace entries, interrupt lines, pending vectors and what
leaves the package, and (an error of class C or D) the twin unit's counts. Everything else stays.
-/
namespace Sys2Proof.Machine

/-- `d'` differs from `d` in registers, trace, lines, pending vectors and output only. -/
def Reports (d d' : Dev) : Prop :=
  ∃ r t l p o f, d' = { d with regs := r, trace := t, lines := l, pba := p, out := o, fresh := f }

theorem Reports.refl (d : Dev) : Reports d d := ⟨_, _, _, _, _, _, rfl⟩
theorem Reports.trans {a b c : Dev} (h : Reports a b) (k : Reports b c) : Reports a c := by
  obtain ⟨_, _, _, _, _, _, rfl⟩ := h
  obtain ⟨_, _, _, _, _, _, rfl⟩ := k
  exact ⟨_, _, _, _, _, _, rfl⟩
theorem Reports.foldl {α : Type} {f : Dev → α → Dev} (hf : ∀ d x, Reports d (f d x)) (l : List α) (d : Dev) :
    Reports d (l.foldl f d) := by
  induction l generalizing d with
  | nil => exact Reports.refl d
  | cons x l ih => exact (hf d x).trans (ih _)

theorem ite_reports {p : Prop} [Decidable p] {d x y : Dev} (hx : Reports d x) (hy : Reports d y) : Reports d (if p then x else y) := by
  split <;> assumption

theorem setReg_reports (d : Dev) (a : Nat) (v : W32) : Reports d (setReg d a v) := ⟨_, _, _, _, _, _, rfl⟩
theorem setRegN_reports (d : Dev) (a n : Nat) : Reports d (setRegN d a n) := ⟨_, _, _, _, _, _, rfl⟩
theorem incSat_reports (d : Dev) (a : Nat) : Reports d (incSat d a) := ⟨_, _, _, _, _, _, rfl⟩
theorem addSat_reports (d : Dev) (a n : Nat) : Reports d (addSat d a n) := ⟨_, _, _, _, _, _, rfl⟩
theorem setReg64_reports (d : Dev) (a n : Nat) : Reports d (setReg64 d a n) := ⟨_, _, _, _, _, _, rfl⟩
theorem setRfld_reports (d : Dev) (a lo w v : Nat) : Reports d (setRfld d a lo w v) := ⟨_, _, _, _, _, _, rfl⟩
theorem setCtrl_reports (d : Dev) (a v : Nat) : Reports d (setCtrl d a v) := ⟨_, _, _, _, _, _, rfl⟩
theorem emit_reports (d : Dev) (o : Out) : Reports d (emit d o) := ⟨_, _, _, _, _, _, rfl⟩

theorem msixSend_reports (d : Dev) (v : Nat) : Reports d (msixSend d v) := by
  unfold msixSend
  split
  · exact emit_reports _ _
  · exact ⟨_, _, _, _, _, _, rfl⟩
theorem msixFlush_reports (d : Dev) : Reports d (msixFlush d) := by
  unfold msixFlush
  refine Reports.foldl (fun d e => ?_) _ _
  split
  · exact ⟨_, _, _, _, _, _, rfl⟩
  · exact Reports.refl d
theorem sendIrq_reports (d : Dev) (a : Nat) : Reports d (sendIrq d a) := by
  unfold sendIrq
  split
  · exact Reports.refl d
  · split
    · exact (emit_reports _ _).trans (msixSend_reports _ _)
    · exact (ite_reports ((emit_reports _ _).trans (incSat_reports _ _)) (Reports.refl _)).trans
        (ite_reports ((msixSend_reports _ _).trans (incSat_reports _ _)) (Reports.refl _))
theorem irqUpdate_reports (d : Dev) (a : Nat) : Reports d (irqUpdate d a) := by
  unfold irqUpdate
  split
  · exact Reports.refl d
  · exact ⟨_, _, _, _, _, _, rfl⟩
theorem irqAgain_reports (d : Dev) (a : Nat) : Reports d (irqAgain d a) := by
  have h : ∀ b, Reports d { d with lines := sput noFlag d.lines a b } := fun _ => ⟨_, _, _, _, _, _, rfl⟩
  unfold irqAgain
  dsimp only
  split
  · exact (h _).trans (sendIrq_reports _ _)
  · exact h _
theorem irqRise_reports (d : Dev) (a : Nat) : Reports d (irqRise d a) := by
  unfold irqRise
  split
  · exact (show Reports d { d with lines := sput noFlag d.lines a true } from ⟨_, _, _, _, _, _, rfl⟩).trans (sendIrq_reports _ _)
  · exact Reports.refl d
theorem trace_reports (d : Dev) (t : Sparse TraceEntry) : Reports d { d with trace := t } := ⟨d.regs, t, d.lines, d.pba, d.out, d.fresh, rfl⟩
theorem traceWrite_reports (d : Dev) (s kind typ inst code seq data : Nat) : Reports d (traceWrite d s kind typ inst code seq data) := by
  unfold traceWrite
  generalize (if kind = 6 then 5 else kind) = b
  extract_lets a cfg wr full e d1 d2
  split
  · exact Reports.refl d
  split
  · exact incSat_reports _ _
  refine Reports.trans ?_ (setRegN_reports _ _ _)
  show Reports d (if full then _ else _)
  split
  · exact (trace_reports _ _).trans (setRegN_reports _ _ _)
  · exact trace_reports _ _
theorem tracePage_reports (d : Dev) (a kind code seq data : Nat) : Reports d (tracePage d a kind code seq data) := by
  unfold tracePage
  split
  · exact Reports.refl d
  · split
    · exact Reports.refl d
    · exact traceWrite_reports _ _ _ _ _ _ _ _
theorem counterWrapped_reports (d : Dev) (a n : Nat) : Reports d (counterWrapped d a n) :=
  ((setRegN_reports _ _ _).trans (tracePage_reports _ _ _ _ _ _)).trans (irqUpdate_reports _ _)
theorem counterAdd_reports (d : Dev) (a n k : Nat) : Reports d (counterAdd d a n k) := by
  unfold counterAdd
  dsimp only
  split
  · exact setReg64_reports _ _ _
  · exact (setReg64_reports _ _ _).trans (counterWrapped_reports _ _ _)
theorem countEvt_reports (d : Dev) (a src inst k : Nat) : Reports d (countEvt d a src inst k) := by
  unfold countEvt
  split
  · exact Reports.refl d
  · refine Reports.foldl (fun d n => ?_) _ _
    split
    · exact counterAdd_reports _ _ _ _
    · exact Reports.refl d

theorem noteFresh_reports (d : Dev) (l : List Nat) : Reports d { d with fresh := l } := ⟨d.regs, d.trace, d.lines, d.pba, d.out, l, rfl⟩
theorem errRegs_reports (d : Dev) (l : PageLoc) (a cls code i0 i1 : Nat) : Reports d (errRegs d l a cls code i0 i1) := by
  unfold errRegs
  extract_lets st st1 held st2 takes d1 d2
  have h1 : Reports d d1 := setRegN_reports _ _ _
  have h2 : Reports d1 d2 := ite_reports ((((noteFresh_reports d1 (a :: d1.fresh)).trans (setRegN_reports _ _ _)).trans
    (setRegN_reports _ _ _)).trans (setRegN_reports _ _ _)) (Reports.refl _)
  exact (h1.trans h2).trans (ite_reports (incSat_reports _ _) (Reports.refl _))
theorem twinCount_eq (d : Dev) (l : PageLoc) (cls : Nat) : twinCount d l cls = { d with twin := (twinCount d l cls).twin } := by
  unfold twinCount
  dsimp only
  split <;> rfl
theorem Reports.setTwin {d d' : Dev} (h : Reports d d') (t : Twin) : Reports { d with twin := t } { d' with twin := t } := by
  obtain ⟨_, _, _, _, _, _, rfl⟩ := h
  exact ⟨_, _, _, _, _, _, rfl⟩
/-- Recording an error reports, and may count for the twin unit. -/
theorem recordErr_reports (d : Dev) (a cls code i0 i1 : Nat) : ∃ t, Reports { d with twin := t } (recordErr d a cls code i0 i1) := by
  unfold recordErr
  split
  · exact ⟨d.twin, Reports.refl d⟩
  · rename_i l _
    refine ⟨(twinCount (errRegs d l a cls code i0 i1) l cls).twin, Reports.trans ?_
      (((ite_reports (countEvt_reports _ _ _ _ _) (Reports.refl _)).trans (tracePage_reports _ _ _ _ _ _)).trans (irqUpdate_reports _ _))⟩
    rw [twinCount_eq]
    exact (errRegs_reports d l a cls code i0 i1).setTwin _

theorem Reports.board {d d' : Dev} (h : Reports d d') : d'.board = d.board := by obtain ⟨_, _, _, _, _, _, rfl⟩ := h; rfl
theorem Reports.dies {d d' : Dev} (h : Reports d d') : d'.dies = d.dies := by obtain ⟨_, _, _, _, _, _, rfl⟩ := h; rfl
theorem Reports.baseLevel {d d' : Dev} (h : Reports d d') : d'.baseLevel = d.baseLevel := by obtain ⟨_, _, _, _, _, _, rfl⟩ := h; rfl
theorem Reports.baseLetter {d d' : Dev} (h : Reports d d') : d'.baseLetter = d.baseLetter := by obtain ⟨_, _, _, _, _, _, rfl⟩ := h; rfl
theorem Reports.baseNum {d d' : Dev} (h : Reports d d') : d'.baseNum = d.baseNum := by obtain ⟨_, _, _, _, _, _, rfl⟩ := h; rfl
theorem Reports.uds {d d' : Dev} (h : Reports d d') : d'.uds = d.uds := by obtain ⟨_, _, _, _, _, _, rfl⟩ := h; rfl
theorem Reports.rootDigest {d d' : Dev} (h : Reports d d') : d'.rootDigest = d.rootDigest := by obtain ⟨_, _, _, _, _, _, rfl⟩ := h; rfl
theorem Reports.caKey {d d' : Dev} (h : Reports d d') : d'.caKey = d.caKey := by obtain ⟨_, _, _, _, _, _, rfl⟩ := h; rfl
theorem Reports.fillWait {d d' : Dev} (h : Reports d d') : d'.fillWait = d.fillWait := by obtain ⟨_, _, _, _, _, _, rfl⟩ := h; rfl
theorem Reports.flash {d d' : Dev} (h : Reports d d') : d'.flash = d.flash := by obtain ⟨_, _, _, _, _, _, rfl⟩ := h; rfl
theorem Reports.commits {d d' : Dev} (h : Reports d d') : d'.commits = d.commits := by obtain ⟨_, _, _, _, _, _, rfl⟩ := h; rfl
theorem Reports.hiHeld {d d' : Dev} (h : Reports d d') : d'.hiHeld = d.hiHeld := by obtain ⟨_, _, _, _, _, _, rfl⟩ := h; rfl
theorem Reports.loLatch {d d' : Dev} (h : Reports d d') : d'.loLatch = d.loLatch := by obtain ⟨_, _, _, _, _, _, rfl⟩ := h; rfl
theorem Reports.esc {d d' : Dev} (h : Reports d d') : d'.esc = d.esc := by obtain ⟨_, _, _, _, _, _, rfl⟩ := h; rfl
theorem Reports.recent {d d' : Dev} (h : Reports d d') : d'.recent = d.recent := by obtain ⟨_, _, _, _, _, _, rfl⟩ := h; rfl
theorem Reports.book {d d' : Dev} (h : Reports d d') : d'.book = d.book := by obtain ⟨_, _, _, _, _, _, rfl⟩ := h; rfl
theorem Reports.cfg {d d' : Dev} (h : Reports d d') : d'.cfg = d.cfg := by obtain ⟨_, _, _, _, _, _, rfl⟩ := h; rfl
theorem Reports.msixTable {d d' : Dev} (h : Reports d d') : d'.msixTable = d.msixTable := by obtain ⟨_, _, _, _, _, _, rfl⟩ := h; rfl
theorem Reports.hdma {d d' : Dev} (h : Reports d d') : d'.hdma = d.hdma := by obtain ⟨_, _, _, _, _, _, rfl⟩ := h; rfl
theorem Reports.resp {d d' : Dev} (h : Reports d d') : d'.resp = d.resp := by obtain ⟨_, _, _, _, _, _, rfl⟩ := h; rfl
theorem Reports.job {d d' : Dev} (h : Reports d d') : d'.job = d.job := by obtain ⟨_, _, _, _, _, _, rfl⟩ := h; rfl
theorem Reports.sealU {d d' : Dev} (h : Reports d d') : d'.sealU = d.sealU := by obtain ⟨_, _, _, _, _, _, rfl⟩ := h; rfl
theorem Reports.twin {d d' : Dev} (h : Reports d d') : d'.twin = d.twin := by obtain ⟨_, _, _, _, _, _, rfl⟩ := h; rfl
theorem Reports.ctxs {d d' : Dev} (h : Reports d d') : d'.ctxs = d.ctxs := by obtain ⟨_, _, _, _, _, _, rfl⟩ := h; rfl
theorem Reports.cores {d d' : Dev} (h : Reports d d') : d'.cores = d.cores := by obtain ⟨_, _, _, _, _, _, rfl⟩ := h; rfl
theorem Reports.arrived {d d' : Dev} (h : Reports d d') : d'.arrived = d.arrived := by obtain ⟨_, _, _, _, _, _, rfl⟩ := h; rfl
theorem Reports.mods {d d' : Dev} (h : Reports d d') : d'.mods = d.mods := by obtain ⟨_, _, _, _, _, _, rfl⟩ := h; rfl
theorem Reports.edges {d d' : Dev} (h : Reports d d') : d'.edges = d.edges := by obtain ⟨_, _, _, _, _, _, rfl⟩ := h; rfl
theorem Reports.relayHeld {d d' : Dev} (h : Reports d d') : d'.relayHeld = d.relayHeld := by obtain ⟨_, _, _, _, _, _, rfl⟩ := h; rfl
theorem Reports.creditSeen {d d' : Dev} (h : Reports d d') : d'.creditSeen = d.creditSeen := by obtain ⟨_, _, _, _, _, _, rfl⟩ := h; rfl
theorem Reports.ports {d d' : Dev} (h : Reports d d') : d'.ports = d.ports := by obtain ⟨_, _, _, _, _, _, rfl⟩ := h; rfl
theorem Reports.sorters {d d' : Dev} (h : Reports d d') : d'.sorters = d.sorters := by obtain ⟨_, _, _, _, _, _, rfl⟩ := h; rfl
theorem Reports.mem {d d' : Dev} (h : Reports d d') : d'.mem = d.mem := by obtain ⟨_, _, _, _, _, _, rfl⟩ := h; rfl
theorem Reports.poison {d d' : Dev} (h : Reports d d') : d'.poison = d.poison := by obtain ⟨_, _, _, _, _, _, rfl⟩ := h; rfl
theorem Reports.filled {d d' : Dev} (h : Reports d d') : d'.filled = d.filled := by obtain ⟨_, _, _, _, _, _, rfl⟩ := h; rfl
theorem Reports.filling {d d' : Dev} (h : Reports d d') : d'.filling = d.filling := by obtain ⟨_, _, _, _, _, _, rfl⟩ := h; rfl
theorem Reports.fillDue {d d' : Dev} (h : Reports d d') : d'.fillDue = d.fillDue := by obtain ⟨_, _, _, _, _, _, rfl⟩ := h; rfl
theorem Reports.hbmErr {d d' : Dev} (h : Reports d d') : d'.hbmErr = d.hbmErr := by obtain ⟨_, _, _, _, _, _, rfl⟩ := h; rfl
theorem Reports.hbmTag {d d' : Dev} (h : Reports d d') : d'.hbmTag = d.hbmTag := by obtain ⟨_, _, _, _, _, _, rfl⟩ := h; rfl
theorem Reports.sramErr {d d' : Dev} (h : Reports d d') : d'.sramErr = d.sramErr := by obtain ⟨_, _, _, _, _, _, rfl⟩ := h; rfl
theorem Reports.scrubFull {d d' : Dev} (h : Reports d d') : d'.scrubFull = d.scrubFull := by obtain ⟨_, _, _, _, _, _, rfl⟩ := h; rfl
theorem Reports.clock {d d' : Dev} (h : Reports d d') : d'.clock = d.clock := by obtain ⟨_, _, _, _, _, _, rfl⟩ := h; rfl
theorem Reports.free {d d' : Dev} (h : Reports d d') : d'.free = d.free := by obtain ⟨_, _, _, _, _, _, rfl⟩ := h; rfl

/-! ### msixSend -/

@[simp] theorem msixSend_board (d : Dev) (v : Nat) : (msixSend d v).board = d.board := (msixSend_reports _ _).board
@[simp] theorem msixSend_flash (d : Dev) (v : Nat) : (msixSend d v).flash = d.flash := (msixSend_reports _ _).flash
@[simp] theorem msixSend_book (d : Dev) (v : Nat) : (msixSend d v).book = d.book := (msixSend_reports _ _).book
@[simp] theorem msixSend_cfg (d : Dev) (v : Nat) : (msixSend d v).cfg = d.cfg := (msixSend_reports _ _).cfg
@[simp] theorem msixSend_hdma (d : Dev) (v : Nat) : (msixSend d v).hdma = d.hdma := (msixSend_reports _ _).hdma
@[simp] theorem msixSend_resp (d : Dev) (v : Nat) : (msixSend d v).resp = d.resp := (msixSend_reports _ _).resp
@[simp] theorem msixSend_job (d : Dev) (v : Nat) : (msixSend d v).job = d.job := (msixSend_reports _ _).job
@[simp] theorem msixSend_sealU (d : Dev) (v : Nat) : (msixSend d v).sealU = d.sealU := (msixSend_reports _ _).sealU
@[simp] theorem msixSend_twin (d : Dev) (v : Nat) : (msixSend d v).twin = d.twin := (msixSend_reports _ _).twin
@[simp] theorem msixSend_ctxs (d : Dev) (v : Nat) : (msixSend d v).ctxs = d.ctxs := (msixSend_reports _ _).ctxs
@[simp] theorem msixSend_cores (d : Dev) (v : Nat) : (msixSend d v).cores = d.cores := (msixSend_reports _ _).cores
@[simp] theorem msixSend_mods (d : Dev) (v : Nat) : (msixSend d v).mods = d.mods := (msixSend_reports _ _).mods
@[simp] theorem msixSend_edges (d : Dev) (v : Nat) : (msixSend d v).edges = d.edges := (msixSend_reports _ _).edges
@[simp] theorem msixSend_ports (d : Dev) (v : Nat) : (msixSend d v).ports = d.ports := (msixSend_reports _ _).ports
@[simp] theorem msixSend_sorters (d : Dev) (v : Nat) : (msixSend d v).sorters = d.sorters := (msixSend_reports _ _).sorters
@[simp] theorem msixSend_mem (d : Dev) (v : Nat) : (msixSend d v).mem = d.mem := (msixSend_reports _ _).mem
@[simp] theorem msixSend_poison (d : Dev) (v : Nat) : (msixSend d v).poison = d.poison := (msixSend_reports _ _).poison
@[simp] theorem msixSend_commits (d : Dev) (v : Nat) : (msixSend d v).commits = d.commits := (msixSend_reports _ _).commits
@[simp] theorem msixSend_esc (d : Dev) (v : Nat) : (msixSend d v).esc = d.esc := (msixSend_reports _ _).esc
@[simp] theorem msixSend_recent (d : Dev) (v : Nat) : (msixSend d v).recent = d.recent := (msixSend_reports _ _).recent
@[simp] theorem msixSend_clock (d : Dev) (v : Nat) : (msixSend d v).clock = d.clock := (msixSend_reports _ _).clock
@[simp] theorem msixSend_free (d : Dev) (v : Nat) : (msixSend d v).free = d.free := (msixSend_reports _ _).free
@[simp] theorem msixSend_dies (d : Dev) (v : Nat) : (msixSend d v).dies = d.dies := (msixSend_reports _ _).dies
@[simp] theorem getCore_msixSend (d : Dev) (j : Nat) (v : Nat) : getCore (msixSend d v) j = getCore d j := by simp [getCore]
@[simp] theorem getCtx_msixSend (d : Dev) (j : Nat) (v : Nat) : getCtx (msixSend d v) j = getCtx d j := by simp [getCtx]
@[simp] theorem getSorter_msixSend (d : Dev) (j : Nat) (v : Nat) : getSorter (msixSend d v) j = getSorter d j := by simp [getSorter]
@[simp] theorem getPort_msixSend (d : Dev) (j : Nat) (v : Nat) : getPort (msixSend d v) j = getPort d j := by simp [getPort]
@[simp] theorem getHdma_msixSend (d : Dev) (j : Nat) (v : Nat) : getHdma (msixSend d v) j = getHdma d j := by simp [getHdma]
@[simp] theorem getMod_msixSend (d : Dev) (j : Nat) (v : Nat) : getMod (msixSend d v) j = getMod d j := by simp [getMod]
@[simp] theorem getEdge_msixSend (d : Dev) (j : Nat) (v : Nat) : getEdge (msixSend d v) j = getEdge d j := by simp [getEdge]

/-! ### sendIrq -/

@[simp] theorem sendIrq_board (d : Dev) (a : Nat) : (sendIrq d a).board = d.board := (sendIrq_reports _ _).board
@[simp] theorem sendIrq_flash (d : Dev) (a : Nat) : (sendIrq d a).flash = d.flash := (sendIrq_reports _ _).flash
@[simp] theorem sendIrq_book (d : Dev) (a : Nat) : (sendIrq d a).book = d.book := (sendIrq_reports _ _).book
@[simp] theorem sendIrq_cfg (d : Dev) (a : Nat) : (sendIrq d a).cfg = d.cfg := (sendIrq_reports _ _).cfg
@[simp] theorem sendIrq_hdma (d : Dev) (a : Nat) : (sendIrq d a).hdma = d.hdma := (sendIrq_reports _ _).hdma
@[simp] theorem sendIrq_resp (d : Dev) (a : Nat) : (sendIrq d a).resp = d.resp := (sendIrq_reports _ _).resp
@[simp] theorem sendIrq_job (d : Dev) (a : Nat) : (sendIrq d a).job = d.job := (sendIrq_reports _ _).job
@[simp] theorem sendIrq_sealU (d : Dev) (a : Nat) : (sendIrq d a).sealU = d.sealU := (sendIrq_reports _ _).sealU
@[simp] theorem sendIrq_twin (d : Dev) (a : Nat) : (sendIrq d a).twin = d.twin := (sendIrq_reports _ _).twin
@[simp] theorem sendIrq_ctxs (d : Dev) (a : Nat) : (sendIrq d a).ctxs = d.ctxs := (sendIrq_reports _ _).ctxs
@[simp] theorem sendIrq_cores (d : Dev) (a : Nat) : (sendIrq d a).cores = d.cores := (sendIrq_reports _ _).cores
@[simp] theorem sendIrq_mods (d : Dev) (a : Nat) : (sendIrq d a).mods = d.mods := (sendIrq_reports _ _).mods
@[simp] theorem sendIrq_edges (d : Dev) (a : Nat) : (sendIrq d a).edges = d.edges := (sendIrq_reports _ _).edges
@[simp] theorem sendIrq_ports (d : Dev) (a : Nat) : (sendIrq d a).ports = d.ports := (sendIrq_reports _ _).ports
@[simp] theorem sendIrq_sorters (d : Dev) (a : Nat) : (sendIrq d a).sorters = d.sorters := (sendIrq_reports _ _).sorters
@[simp] theorem sendIrq_mem (d : Dev) (a : Nat) : (sendIrq d a).mem = d.mem := (sendIrq_reports _ _).mem
@[simp] theorem sendIrq_poison (d : Dev) (a : Nat) : (sendIrq d a).poison = d.poison := (sendIrq_reports _ _).poison
@[simp] theorem sendIrq_commits (d : Dev) (a : Nat) : (sendIrq d a).commits = d.commits := (sendIrq_reports _ _).commits
@[simp] theorem sendIrq_esc (d : Dev) (a : Nat) : (sendIrq d a).esc = d.esc := (sendIrq_reports _ _).esc
@[simp] theorem sendIrq_recent (d : Dev) (a : Nat) : (sendIrq d a).recent = d.recent := (sendIrq_reports _ _).recent
@[simp] theorem sendIrq_clock (d : Dev) (a : Nat) : (sendIrq d a).clock = d.clock := (sendIrq_reports _ _).clock
@[simp] theorem sendIrq_free (d : Dev) (a : Nat) : (sendIrq d a).free = d.free := (sendIrq_reports _ _).free
@[simp] theorem sendIrq_dies (d : Dev) (a : Nat) : (sendIrq d a).dies = d.dies := (sendIrq_reports _ _).dies
@[simp] theorem getCore_sendIrq (d : Dev) (j : Nat) (a : Nat) : getCore (sendIrq d a) j = getCore d j := by simp [getCore]
@[simp] theorem getCtx_sendIrq (d : Dev) (j : Nat) (a : Nat) : getCtx (sendIrq d a) j = getCtx d j := by simp [getCtx]
@[simp] theorem getSorter_sendIrq (d : Dev) (j : Nat) (a : Nat) : getSorter (sendIrq d a) j = getSorter d j := by simp [getSorter]
@[simp] theorem getPort_sendIrq (d : Dev) (j : Nat) (a : Nat) : getPort (sendIrq d a) j = getPort d j := by simp [getPort]
@[simp] theorem getHdma_sendIrq (d : Dev) (j : Nat) (a : Nat) : getHdma (sendIrq d a) j = getHdma d j := by simp [getHdma]
@[simp] theorem getMod_sendIrq (d : Dev) (j : Nat) (a : Nat) : getMod (sendIrq d a) j = getMod d j := by simp [getMod]
@[simp] theorem getEdge_sendIrq (d : Dev) (j : Nat) (a : Nat) : getEdge (sendIrq d a) j = getEdge d j := by simp [getEdge]

/-! ### irqUpdate -/

@[simp] theorem irqUpdate_board (d : Dev) (a : Nat) : (irqUpdate d a).board = d.board := (irqUpdate_reports _ _).board
@[simp] theorem irqUpdate_flash (d : Dev) (a : Nat) : (irqUpdate d a).flash = d.flash := (irqUpdate_reports _ _).flash
@[simp] theorem irqUpdate_book (d : Dev) (a : Nat) : (irqUpdate d a).book = d.book := (irqUpdate_reports _ _).book
@[simp] theorem irqUpdate_cfg (d : Dev) (a : Nat) : (irqUpdate d a).cfg = d.cfg := (irqUpdate_reports _ _).cfg
@[simp] theorem irqUpdate_hdma (d : Dev) (a : Nat) : (irqUpdate d a).hdma = d.hdma := (irqUpdate_reports _ _).hdma
@[simp] theorem irqUpdate_resp (d : Dev) (a : Nat) : (irqUpdate d a).resp = d.resp := (irqUpdate_reports _ _).resp
@[simp] theorem irqUpdate_job (d : Dev) (a : Nat) : (irqUpdate d a).job = d.job := (irqUpdate_reports _ _).job
@[simp] theorem irqUpdate_sealU (d : Dev) (a : Nat) : (irqUpdate d a).sealU = d.sealU := (irqUpdate_reports _ _).sealU
@[simp] theorem irqUpdate_twin (d : Dev) (a : Nat) : (irqUpdate d a).twin = d.twin := (irqUpdate_reports _ _).twin
@[simp] theorem irqUpdate_ctxs (d : Dev) (a : Nat) : (irqUpdate d a).ctxs = d.ctxs := (irqUpdate_reports _ _).ctxs
@[simp] theorem irqUpdate_cores (d : Dev) (a : Nat) : (irqUpdate d a).cores = d.cores := (irqUpdate_reports _ _).cores
@[simp] theorem irqUpdate_mods (d : Dev) (a : Nat) : (irqUpdate d a).mods = d.mods := (irqUpdate_reports _ _).mods
@[simp] theorem irqUpdate_edges (d : Dev) (a : Nat) : (irqUpdate d a).edges = d.edges := (irqUpdate_reports _ _).edges
@[simp] theorem irqUpdate_ports (d : Dev) (a : Nat) : (irqUpdate d a).ports = d.ports := (irqUpdate_reports _ _).ports
@[simp] theorem irqUpdate_sorters (d : Dev) (a : Nat) : (irqUpdate d a).sorters = d.sorters := (irqUpdate_reports _ _).sorters
@[simp] theorem irqUpdate_mem (d : Dev) (a : Nat) : (irqUpdate d a).mem = d.mem := (irqUpdate_reports _ _).mem
@[simp] theorem irqUpdate_poison (d : Dev) (a : Nat) : (irqUpdate d a).poison = d.poison := (irqUpdate_reports _ _).poison
@[simp] theorem irqUpdate_commits (d : Dev) (a : Nat) : (irqUpdate d a).commits = d.commits := (irqUpdate_reports _ _).commits
@[simp] theorem irqUpdate_esc (d : Dev) (a : Nat) : (irqUpdate d a).esc = d.esc := (irqUpdate_reports _ _).esc
@[simp] theorem irqUpdate_recent (d : Dev) (a : Nat) : (irqUpdate d a).recent = d.recent := (irqUpdate_reports _ _).recent
@[simp] theorem irqUpdate_clock (d : Dev) (a : Nat) : (irqUpdate d a).clock = d.clock := (irqUpdate_reports _ _).clock
@[simp] theorem irqUpdate_free (d : Dev) (a : Nat) : (irqUpdate d a).free = d.free := (irqUpdate_reports _ _).free
@[simp] theorem irqUpdate_dies (d : Dev) (a : Nat) : (irqUpdate d a).dies = d.dies := (irqUpdate_reports _ _).dies
@[simp] theorem getCore_irqUpdate (d : Dev) (j : Nat) (a : Nat) : getCore (irqUpdate d a) j = getCore d j := by simp [getCore]
@[simp] theorem getCtx_irqUpdate (d : Dev) (j : Nat) (a : Nat) : getCtx (irqUpdate d a) j = getCtx d j := by simp [getCtx]
@[simp] theorem getSorter_irqUpdate (d : Dev) (j : Nat) (a : Nat) : getSorter (irqUpdate d a) j = getSorter d j := by simp [getSorter]
@[simp] theorem getPort_irqUpdate (d : Dev) (j : Nat) (a : Nat) : getPort (irqUpdate d a) j = getPort d j := by simp [getPort]
@[simp] theorem getHdma_irqUpdate (d : Dev) (j : Nat) (a : Nat) : getHdma (irqUpdate d a) j = getHdma d j := by simp [getHdma]
@[simp] theorem getMod_irqUpdate (d : Dev) (j : Nat) (a : Nat) : getMod (irqUpdate d a) j = getMod d j := by simp [getMod]
@[simp] theorem getEdge_irqUpdate (d : Dev) (j : Nat) (a : Nat) : getEdge (irqUpdate d a) j = getEdge d j := by simp [getEdge]

/-! ### irqAgain -/

@[simp] theorem irqAgain_board (d : Dev) (a : Nat) : (irqAgain d a).board = d.board := (irqAgain_reports _ _).board
@[simp] theorem irqAgain_flash (d : Dev) (a : Nat) : (irqAgain d a).flash = d.flash := (irqAgain_reports _ _).flash
@[simp] theorem irqAgain_book (d : Dev) (a : Nat) : (irqAgain d a).book = d.book := (irqAgain_reports _ _).book
@[simp] theorem irqAgain_cfg (d : Dev) (a : Nat) : (irqAgain d a).cfg = d.cfg := (irqAgain_reports _ _).cfg
@[simp] theorem irqAgain_hdma (d : Dev) (a : Nat) : (irqAgain d a).hdma = d.hdma := (irqAgain_reports _ _).hdma
@[simp] theorem irqAgain_resp (d : Dev) (a : Nat) : (irqAgain d a).resp = d.resp := (irqAgain_reports _ _).resp
@[simp] theorem irqAgain_job (d : Dev) (a : Nat) : (irqAgain d a).job = d.job := (irqAgain_reports _ _).job
@[simp] theorem irqAgain_sealU (d : Dev) (a : Nat) : (irqAgain d a).sealU = d.sealU := (irqAgain_reports _ _).sealU
@[simp] theorem irqAgain_twin (d : Dev) (a : Nat) : (irqAgain d a).twin = d.twin := (irqAgain_reports _ _).twin
@[simp] theorem irqAgain_ctxs (d : Dev) (a : Nat) : (irqAgain d a).ctxs = d.ctxs := (irqAgain_reports _ _).ctxs
@[simp] theorem irqAgain_cores (d : Dev) (a : Nat) : (irqAgain d a).cores = d.cores := (irqAgain_reports _ _).cores
@[simp] theorem irqAgain_mods (d : Dev) (a : Nat) : (irqAgain d a).mods = d.mods := (irqAgain_reports _ _).mods
@[simp] theorem irqAgain_edges (d : Dev) (a : Nat) : (irqAgain d a).edges = d.edges := (irqAgain_reports _ _).edges
@[simp] theorem irqAgain_ports (d : Dev) (a : Nat) : (irqAgain d a).ports = d.ports := (irqAgain_reports _ _).ports
@[simp] theorem irqAgain_sorters (d : Dev) (a : Nat) : (irqAgain d a).sorters = d.sorters := (irqAgain_reports _ _).sorters
@[simp] theorem irqAgain_mem (d : Dev) (a : Nat) : (irqAgain d a).mem = d.mem := (irqAgain_reports _ _).mem
@[simp] theorem irqAgain_poison (d : Dev) (a : Nat) : (irqAgain d a).poison = d.poison := (irqAgain_reports _ _).poison
@[simp] theorem irqAgain_commits (d : Dev) (a : Nat) : (irqAgain d a).commits = d.commits := (irqAgain_reports _ _).commits
@[simp] theorem irqAgain_esc (d : Dev) (a : Nat) : (irqAgain d a).esc = d.esc := (irqAgain_reports _ _).esc
@[simp] theorem irqAgain_recent (d : Dev) (a : Nat) : (irqAgain d a).recent = d.recent := (irqAgain_reports _ _).recent
@[simp] theorem irqAgain_clock (d : Dev) (a : Nat) : (irqAgain d a).clock = d.clock := (irqAgain_reports _ _).clock
@[simp] theorem irqAgain_free (d : Dev) (a : Nat) : (irqAgain d a).free = d.free := (irqAgain_reports _ _).free
@[simp] theorem irqAgain_dies (d : Dev) (a : Nat) : (irqAgain d a).dies = d.dies := (irqAgain_reports _ _).dies
@[simp] theorem getCore_irqAgain (d : Dev) (j : Nat) (a : Nat) : getCore (irqAgain d a) j = getCore d j := by simp [getCore]
@[simp] theorem getCtx_irqAgain (d : Dev) (j : Nat) (a : Nat) : getCtx (irqAgain d a) j = getCtx d j := by simp [getCtx]
@[simp] theorem getSorter_irqAgain (d : Dev) (j : Nat) (a : Nat) : getSorter (irqAgain d a) j = getSorter d j := by simp [getSorter]
@[simp] theorem getPort_irqAgain (d : Dev) (j : Nat) (a : Nat) : getPort (irqAgain d a) j = getPort d j := by simp [getPort]
@[simp] theorem getHdma_irqAgain (d : Dev) (j : Nat) (a : Nat) : getHdma (irqAgain d a) j = getHdma d j := by simp [getHdma]
@[simp] theorem getMod_irqAgain (d : Dev) (j : Nat) (a : Nat) : getMod (irqAgain d a) j = getMod d j := by simp [getMod]
@[simp] theorem getEdge_irqAgain (d : Dev) (j : Nat) (a : Nat) : getEdge (irqAgain d a) j = getEdge d j := by simp [getEdge]

/-! ### irqRise -/

@[simp] theorem irqRise_board (d : Dev) (a : Nat) : (irqRise d a).board = d.board := (irqRise_reports _ _).board
@[simp] theorem irqRise_flash (d : Dev) (a : Nat) : (irqRise d a).flash = d.flash := (irqRise_reports _ _).flash
@[simp] theorem irqRise_book (d : Dev) (a : Nat) : (irqRise d a).book = d.book := (irqRise_reports _ _).book
@[simp] theorem irqRise_cfg (d : Dev) (a : Nat) : (irqRise d a).cfg = d.cfg := (irqRise_reports _ _).cfg
@[simp] theorem irqRise_hdma (d : Dev) (a : Nat) : (irqRise d a).hdma = d.hdma := (irqRise_reports _ _).hdma
@[simp] theorem irqRise_resp (d : Dev) (a : Nat) : (irqRise d a).resp = d.resp := (irqRise_reports _ _).resp
@[simp] theorem irqRise_job (d : Dev) (a : Nat) : (irqRise d a).job = d.job := (irqRise_reports _ _).job
@[simp] theorem irqRise_sealU (d : Dev) (a : Nat) : (irqRise d a).sealU = d.sealU := (irqRise_reports _ _).sealU
@[simp] theorem irqRise_twin (d : Dev) (a : Nat) : (irqRise d a).twin = d.twin := (irqRise_reports _ _).twin
@[simp] theorem irqRise_ctxs (d : Dev) (a : Nat) : (irqRise d a).ctxs = d.ctxs := (irqRise_reports _ _).ctxs
@[simp] theorem irqRise_cores (d : Dev) (a : Nat) : (irqRise d a).cores = d.cores := (irqRise_reports _ _).cores
@[simp] theorem irqRise_mods (d : Dev) (a : Nat) : (irqRise d a).mods = d.mods := (irqRise_reports _ _).mods
@[simp] theorem irqRise_edges (d : Dev) (a : Nat) : (irqRise d a).edges = d.edges := (irqRise_reports _ _).edges
@[simp] theorem irqRise_ports (d : Dev) (a : Nat) : (irqRise d a).ports = d.ports := (irqRise_reports _ _).ports
@[simp] theorem irqRise_sorters (d : Dev) (a : Nat) : (irqRise d a).sorters = d.sorters := (irqRise_reports _ _).sorters
@[simp] theorem irqRise_mem (d : Dev) (a : Nat) : (irqRise d a).mem = d.mem := (irqRise_reports _ _).mem
@[simp] theorem irqRise_poison (d : Dev) (a : Nat) : (irqRise d a).poison = d.poison := (irqRise_reports _ _).poison
@[simp] theorem irqRise_commits (d : Dev) (a : Nat) : (irqRise d a).commits = d.commits := (irqRise_reports _ _).commits
@[simp] theorem irqRise_esc (d : Dev) (a : Nat) : (irqRise d a).esc = d.esc := (irqRise_reports _ _).esc
@[simp] theorem irqRise_recent (d : Dev) (a : Nat) : (irqRise d a).recent = d.recent := (irqRise_reports _ _).recent
@[simp] theorem irqRise_clock (d : Dev) (a : Nat) : (irqRise d a).clock = d.clock := (irqRise_reports _ _).clock
@[simp] theorem irqRise_free (d : Dev) (a : Nat) : (irqRise d a).free = d.free := (irqRise_reports _ _).free
@[simp] theorem irqRise_dies (d : Dev) (a : Nat) : (irqRise d a).dies = d.dies := (irqRise_reports _ _).dies
@[simp] theorem getCore_irqRise (d : Dev) (j : Nat) (a : Nat) : getCore (irqRise d a) j = getCore d j := by simp [getCore]
@[simp] theorem getCtx_irqRise (d : Dev) (j : Nat) (a : Nat) : getCtx (irqRise d a) j = getCtx d j := by simp [getCtx]
@[simp] theorem getSorter_irqRise (d : Dev) (j : Nat) (a : Nat) : getSorter (irqRise d a) j = getSorter d j := by simp [getSorter]
@[simp] theorem getPort_irqRise (d : Dev) (j : Nat) (a : Nat) : getPort (irqRise d a) j = getPort d j := by simp [getPort]
@[simp] theorem getHdma_irqRise (d : Dev) (j : Nat) (a : Nat) : getHdma (irqRise d a) j = getHdma d j := by simp [getHdma]
@[simp] theorem getMod_irqRise (d : Dev) (j : Nat) (a : Nat) : getMod (irqRise d a) j = getMod d j := by simp [getMod]
@[simp] theorem getEdge_irqRise (d : Dev) (j : Nat) (a : Nat) : getEdge (irqRise d a) j = getEdge d j := by simp [getEdge]

/-! ### traceWrite -/

@[simp] theorem traceWrite_board (d : Dev) (s kind typ inst code seq data : Nat) : (traceWrite d s kind typ inst code seq data).board = d.board := (traceWrite_reports _ _ _ _ _ _ _ _).board
@[simp] theorem traceWrite_flash (d : Dev) (s kind typ inst code seq data : Nat) : (traceWrite d s kind typ inst code seq data).flash = d.flash := (traceWrite_reports _ _ _ _ _ _ _ _).flash
@[simp] theorem traceWrite_book (d : Dev) (s kind typ inst code seq data : Nat) : (traceWrite d s kind typ inst code seq data).book = d.book := (traceWrite_reports _ _ _ _ _ _ _ _).book
@[simp] theorem traceWrite_cfg (d : Dev) (s kind typ inst code seq data : Nat) : (traceWrite d s kind typ inst code seq data).cfg = d.cfg := (traceWrite_reports _ _ _ _ _ _ _ _).cfg
@[simp] theorem traceWrite_hdma (d : Dev) (s kind typ inst code seq data : Nat) : (traceWrite d s kind typ inst code seq data).hdma = d.hdma := (traceWrite_reports _ _ _ _ _ _ _ _).hdma
@[simp] theorem traceWrite_resp (d : Dev) (s kind typ inst code seq data : Nat) : (traceWrite d s kind typ inst code seq data).resp = d.resp := (traceWrite_reports _ _ _ _ _ _ _ _).resp
@[simp] theorem traceWrite_job (d : Dev) (s kind typ inst code seq data : Nat) : (traceWrite d s kind typ inst code seq data).job = d.job := (traceWrite_reports _ _ _ _ _ _ _ _).job
@[simp] theorem traceWrite_sealU (d : Dev) (s kind typ inst code seq data : Nat) : (traceWrite d s kind typ inst code seq data).sealU = d.sealU := (traceWrite_reports _ _ _ _ _ _ _ _).sealU
@[simp] theorem traceWrite_twin (d : Dev) (s kind typ inst code seq data : Nat) : (traceWrite d s kind typ inst code seq data).twin = d.twin := (traceWrite_reports _ _ _ _ _ _ _ _).twin
@[simp] theorem traceWrite_ctxs (d : Dev) (s kind typ inst code seq data : Nat) : (traceWrite d s kind typ inst code seq data).ctxs = d.ctxs := (traceWrite_reports _ _ _ _ _ _ _ _).ctxs
@[simp] theorem traceWrite_cores (d : Dev) (s kind typ inst code seq data : Nat) : (traceWrite d s kind typ inst code seq data).cores = d.cores := (traceWrite_reports _ _ _ _ _ _ _ _).cores
@[simp] theorem traceWrite_mods (d : Dev) (s kind typ inst code seq data : Nat) : (traceWrite d s kind typ inst code seq data).mods = d.mods := (traceWrite_reports _ _ _ _ _ _ _ _).mods
@[simp] theorem traceWrite_edges (d : Dev) (s kind typ inst code seq data : Nat) : (traceWrite d s kind typ inst code seq data).edges = d.edges := (traceWrite_reports _ _ _ _ _ _ _ _).edges
@[simp] theorem traceWrite_ports (d : Dev) (s kind typ inst code seq data : Nat) : (traceWrite d s kind typ inst code seq data).ports = d.ports := (traceWrite_reports _ _ _ _ _ _ _ _).ports
@[simp] theorem traceWrite_sorters (d : Dev) (s kind typ inst code seq data : Nat) : (traceWrite d s kind typ inst code seq data).sorters = d.sorters := (traceWrite_reports _ _ _ _ _ _ _ _).sorters
@[simp] theorem traceWrite_mem (d : Dev) (s kind typ inst code seq data : Nat) : (traceWrite d s kind typ inst code seq data).mem = d.mem := (traceWrite_reports _ _ _ _ _ _ _ _).mem
@[simp] theorem traceWrite_poison (d : Dev) (s kind typ inst code seq data : Nat) : (traceWrite d s kind typ inst code seq data).poison = d.poison := (traceWrite_reports _ _ _ _ _ _ _ _).poison
@[simp] theorem traceWrite_commits (d : Dev) (s kind typ inst code seq data : Nat) : (traceWrite d s kind typ inst code seq data).commits = d.commits := (traceWrite_reports _ _ _ _ _ _ _ _).commits
@[simp] theorem traceWrite_esc (d : Dev) (s kind typ inst code seq data : Nat) : (traceWrite d s kind typ inst code seq data).esc = d.esc := (traceWrite_reports _ _ _ _ _ _ _ _).esc
@[simp] theorem traceWrite_recent (d : Dev) (s kind typ inst code seq data : Nat) : (traceWrite d s kind typ inst code seq data).recent = d.recent := (traceWrite_reports _ _ _ _ _ _ _ _).recent
@[simp] theorem traceWrite_clock (d : Dev) (s kind typ inst code seq data : Nat) : (traceWrite d s kind typ inst code seq data).clock = d.clock := (traceWrite_reports _ _ _ _ _ _ _ _).clock
@[simp] theorem traceWrite_free (d : Dev) (s kind typ inst code seq data : Nat) : (traceWrite d s kind typ inst code seq data).free = d.free := (traceWrite_reports _ _ _ _ _ _ _ _).free
@[simp] theorem traceWrite_dies (d : Dev) (s kind typ inst code seq data : Nat) : (traceWrite d s kind typ inst code seq data).dies = d.dies := (traceWrite_reports _ _ _ _ _ _ _ _).dies
@[simp] theorem getCore_traceWrite (d : Dev) (j : Nat) (s kind typ inst code seq data : Nat) : getCore (traceWrite d s kind typ inst code seq data) j = getCore d j := by simp [getCore]
@[simp] theorem getCtx_traceWrite (d : Dev) (j : Nat) (s kind typ inst code seq data : Nat) : getCtx (traceWrite d s kind typ inst code seq data) j = getCtx d j := by simp [getCtx]
@[simp] theorem getSorter_traceWrite (d : Dev) (j : Nat) (s kind typ inst code seq data : Nat) : getSorter (traceWrite d s kind typ inst code seq data) j = getSorter d j := by simp [getSorter]
@[simp] theorem getPort_traceWrite (d : Dev) (j : Nat) (s kind typ inst code seq data : Nat) : getPort (traceWrite d s kind typ inst code seq data) j = getPort d j := by simp [getPort]
@[simp] theorem getHdma_traceWrite (d : Dev) (j : Nat) (s kind typ inst code seq data : Nat) : getHdma (traceWrite d s kind typ inst code seq data) j = getHdma d j := by simp [getHdma]
@[simp] theorem getMod_traceWrite (d : Dev) (j : Nat) (s kind typ inst code seq data : Nat) : getMod (traceWrite d s kind typ inst code seq data) j = getMod d j := by simp [getMod]
@[simp] theorem getEdge_traceWrite (d : Dev) (j : Nat) (s kind typ inst code seq data : Nat) : getEdge (traceWrite d s kind typ inst code seq data) j = getEdge d j := by simp [getEdge]

/-! ### tracePage -/

@[simp] theorem tracePage_board (d : Dev) (a kind code seq data : Nat) : (tracePage d a kind code seq data).board = d.board := (tracePage_reports _ _ _ _ _ _).board
@[simp] theorem tracePage_flash (d : Dev) (a kind code seq data : Nat) : (tracePage d a kind code seq data).flash = d.flash := (tracePage_reports _ _ _ _ _ _).flash
@[simp] theorem tracePage_book (d : Dev) (a kind code seq data : Nat) : (tracePage d a kind code seq data).book = d.book := (tracePage_reports _ _ _ _ _ _).book
@[simp] theorem tracePage_cfg (d : Dev) (a kind code seq data : Nat) : (tracePage d a kind code seq data).cfg = d.cfg := (tracePage_reports _ _ _ _ _ _).cfg
@[simp] theorem tracePage_hdma (d : Dev) (a kind code seq data : Nat) : (tracePage d a kind code seq data).hdma = d.hdma := (tracePage_reports _ _ _ _ _ _).hdma
@[simp] theorem tracePage_resp (d : Dev) (a kind code seq data : Nat) : (tracePage d a kind code seq data).resp = d.resp := (tracePage_reports _ _ _ _ _ _).resp
@[simp] theorem tracePage_job (d : Dev) (a kind code seq data : Nat) : (tracePage d a kind code seq data).job = d.job := (tracePage_reports _ _ _ _ _ _).job
@[simp] theorem tracePage_sealU (d : Dev) (a kind code seq data : Nat) : (tracePage d a kind code seq data).sealU = d.sealU := (tracePage_reports _ _ _ _ _ _).sealU
@[simp] theorem tracePage_twin (d : Dev) (a kind code seq data : Nat) : (tracePage d a kind code seq data).twin = d.twin := (tracePage_reports _ _ _ _ _ _).twin
@[simp] theorem tracePage_ctxs (d : Dev) (a kind code seq data : Nat) : (tracePage d a kind code seq data).ctxs = d.ctxs := (tracePage_reports _ _ _ _ _ _).ctxs
@[simp] theorem tracePage_cores (d : Dev) (a kind code seq data : Nat) : (tracePage d a kind code seq data).cores = d.cores := (tracePage_reports _ _ _ _ _ _).cores
@[simp] theorem tracePage_mods (d : Dev) (a kind code seq data : Nat) : (tracePage d a kind code seq data).mods = d.mods := (tracePage_reports _ _ _ _ _ _).mods
@[simp] theorem tracePage_edges (d : Dev) (a kind code seq data : Nat) : (tracePage d a kind code seq data).edges = d.edges := (tracePage_reports _ _ _ _ _ _).edges
@[simp] theorem tracePage_ports (d : Dev) (a kind code seq data : Nat) : (tracePage d a kind code seq data).ports = d.ports := (tracePage_reports _ _ _ _ _ _).ports
@[simp] theorem tracePage_sorters (d : Dev) (a kind code seq data : Nat) : (tracePage d a kind code seq data).sorters = d.sorters := (tracePage_reports _ _ _ _ _ _).sorters
@[simp] theorem tracePage_mem (d : Dev) (a kind code seq data : Nat) : (tracePage d a kind code seq data).mem = d.mem := (tracePage_reports _ _ _ _ _ _).mem
@[simp] theorem tracePage_poison (d : Dev) (a kind code seq data : Nat) : (tracePage d a kind code seq data).poison = d.poison := (tracePage_reports _ _ _ _ _ _).poison
@[simp] theorem tracePage_commits (d : Dev) (a kind code seq data : Nat) : (tracePage d a kind code seq data).commits = d.commits := (tracePage_reports _ _ _ _ _ _).commits
@[simp] theorem tracePage_esc (d : Dev) (a kind code seq data : Nat) : (tracePage d a kind code seq data).esc = d.esc := (tracePage_reports _ _ _ _ _ _).esc
@[simp] theorem tracePage_recent (d : Dev) (a kind code seq data : Nat) : (tracePage d a kind code seq data).recent = d.recent := (tracePage_reports _ _ _ _ _ _).recent
@[simp] theorem tracePage_clock (d : Dev) (a kind code seq data : Nat) : (tracePage d a kind code seq data).clock = d.clock := (tracePage_reports _ _ _ _ _ _).clock
@[simp] theorem tracePage_free (d : Dev) (a kind code seq data : Nat) : (tracePage d a kind code seq data).free = d.free := (tracePage_reports _ _ _ _ _ _).free
@[simp] theorem tracePage_dies (d : Dev) (a kind code seq data : Nat) : (tracePage d a kind code seq data).dies = d.dies := (tracePage_reports _ _ _ _ _ _).dies
@[simp] theorem getCore_tracePage (d : Dev) (j : Nat) (a kind code seq data : Nat) : getCore (tracePage d a kind code seq data) j = getCore d j := by simp [getCore]
@[simp] theorem getCtx_tracePage (d : Dev) (j : Nat) (a kind code seq data : Nat) : getCtx (tracePage d a kind code seq data) j = getCtx d j := by simp [getCtx]
@[simp] theorem getSorter_tracePage (d : Dev) (j : Nat) (a kind code seq data : Nat) : getSorter (tracePage d a kind code seq data) j = getSorter d j := by simp [getSorter]
@[simp] theorem getPort_tracePage (d : Dev) (j : Nat) (a kind code seq data : Nat) : getPort (tracePage d a kind code seq data) j = getPort d j := by simp [getPort]
@[simp] theorem getHdma_tracePage (d : Dev) (j : Nat) (a kind code seq data : Nat) : getHdma (tracePage d a kind code seq data) j = getHdma d j := by simp [getHdma]
@[simp] theorem getMod_tracePage (d : Dev) (j : Nat) (a kind code seq data : Nat) : getMod (tracePage d a kind code seq data) j = getMod d j := by simp [getMod]
@[simp] theorem getEdge_tracePage (d : Dev) (j : Nat) (a kind code seq data : Nat) : getEdge (tracePage d a kind code seq data) j = getEdge d j := by simp [getEdge]

/-! ### countEvt -/

@[simp] theorem countEvt_board (d : Dev) (a src inst k : Nat) : (countEvt d a src inst k).board = d.board := (countEvt_reports _ _ _ _ _).board
@[simp] theorem countEvt_flash (d : Dev) (a src inst k : Nat) : (countEvt d a src inst k).flash = d.flash := (countEvt_reports _ _ _ _ _).flash
@[simp] theorem countEvt_book (d : Dev) (a src inst k : Nat) : (countEvt d a src inst k).book = d.book := (countEvt_reports _ _ _ _ _).book
@[simp] theorem countEvt_cfg (d : Dev) (a src inst k : Nat) : (countEvt d a src inst k).cfg = d.cfg := (countEvt_reports _ _ _ _ _).cfg
@[simp] theorem countEvt_hdma (d : Dev) (a src inst k : Nat) : (countEvt d a src inst k).hdma = d.hdma := (countEvt_reports _ _ _ _ _).hdma
@[simp] theorem countEvt_resp (d : Dev) (a src inst k : Nat) : (countEvt d a src inst k).resp = d.resp := (countEvt_reports _ _ _ _ _).resp
@[simp] theorem countEvt_job (d : Dev) (a src inst k : Nat) : (countEvt d a src inst k).job = d.job := (countEvt_reports _ _ _ _ _).job
@[simp] theorem countEvt_sealU (d : Dev) (a src inst k : Nat) : (countEvt d a src inst k).sealU = d.sealU := (countEvt_reports _ _ _ _ _).sealU
@[simp] theorem countEvt_twin (d : Dev) (a src inst k : Nat) : (countEvt d a src inst k).twin = d.twin := (countEvt_reports _ _ _ _ _).twin
@[simp] theorem countEvt_ctxs (d : Dev) (a src inst k : Nat) : (countEvt d a src inst k).ctxs = d.ctxs := (countEvt_reports _ _ _ _ _).ctxs
@[simp] theorem countEvt_cores (d : Dev) (a src inst k : Nat) : (countEvt d a src inst k).cores = d.cores := (countEvt_reports _ _ _ _ _).cores
@[simp] theorem countEvt_mods (d : Dev) (a src inst k : Nat) : (countEvt d a src inst k).mods = d.mods := (countEvt_reports _ _ _ _ _).mods
@[simp] theorem countEvt_edges (d : Dev) (a src inst k : Nat) : (countEvt d a src inst k).edges = d.edges := (countEvt_reports _ _ _ _ _).edges
@[simp] theorem countEvt_ports (d : Dev) (a src inst k : Nat) : (countEvt d a src inst k).ports = d.ports := (countEvt_reports _ _ _ _ _).ports
@[simp] theorem countEvt_sorters (d : Dev) (a src inst k : Nat) : (countEvt d a src inst k).sorters = d.sorters := (countEvt_reports _ _ _ _ _).sorters
@[simp] theorem countEvt_mem (d : Dev) (a src inst k : Nat) : (countEvt d a src inst k).mem = d.mem := (countEvt_reports _ _ _ _ _).mem
@[simp] theorem countEvt_poison (d : Dev) (a src inst k : Nat) : (countEvt d a src inst k).poison = d.poison := (countEvt_reports _ _ _ _ _).poison
@[simp] theorem countEvt_commits (d : Dev) (a src inst k : Nat) : (countEvt d a src inst k).commits = d.commits := (countEvt_reports _ _ _ _ _).commits
@[simp] theorem countEvt_esc (d : Dev) (a src inst k : Nat) : (countEvt d a src inst k).esc = d.esc := (countEvt_reports _ _ _ _ _).esc
@[simp] theorem countEvt_recent (d : Dev) (a src inst k : Nat) : (countEvt d a src inst k).recent = d.recent := (countEvt_reports _ _ _ _ _).recent
@[simp] theorem countEvt_clock (d : Dev) (a src inst k : Nat) : (countEvt d a src inst k).clock = d.clock := (countEvt_reports _ _ _ _ _).clock
@[simp] theorem countEvt_free (d : Dev) (a src inst k : Nat) : (countEvt d a src inst k).free = d.free := (countEvt_reports _ _ _ _ _).free
@[simp] theorem countEvt_dies (d : Dev) (a src inst k : Nat) : (countEvt d a src inst k).dies = d.dies := (countEvt_reports _ _ _ _ _).dies
@[simp] theorem getCore_countEvt (d : Dev) (j : Nat) (a src inst k : Nat) : getCore (countEvt d a src inst k) j = getCore d j := by simp [getCore]
@[simp] theorem getCtx_countEvt (d : Dev) (j : Nat) (a src inst k : Nat) : getCtx (countEvt d a src inst k) j = getCtx d j := by simp [getCtx]
@[simp] theorem getSorter_countEvt (d : Dev) (j : Nat) (a src inst k : Nat) : getSorter (countEvt d a src inst k) j = getSorter d j := by simp [getSorter]
@[simp] theorem getPort_countEvt (d : Dev) (j : Nat) (a src inst k : Nat) : getPort (countEvt d a src inst k) j = getPort d j := by simp [getPort]
@[simp] theorem getHdma_countEvt (d : Dev) (j : Nat) (a src inst k : Nat) : getHdma (countEvt d a src inst k) j = getHdma d j := by simp [getHdma]
@[simp] theorem getMod_countEvt (d : Dev) (j : Nat) (a src inst k : Nat) : getMod (countEvt d a src inst k) j = getMod d j := by simp [getMod]
@[simp] theorem getEdge_countEvt (d : Dev) (j : Nat) (a src inst k : Nat) : getEdge (countEvt d a src inst k) j = getEdge d j := by simp [getEdge]

/-! ### recordErr -/

@[simp] theorem recordErr_board (d : Dev) (a cls code i0 i1 : Nat) : (recordErr d a cls code i0 i1).board = d.board := by
  obtain ⟨_, h⟩ := recordErr_reports d a cls code i0 i1; exact h.board
@[simp] theorem recordErr_flash (d : Dev) (a cls code i0 i1 : Nat) : (recordErr d a cls code i0 i1).flash = d.flash := by
  obtain ⟨_, h⟩ := recordErr_reports d a cls code i0 i1; exact h.flash
@[simp] theorem recordErr_book (d : Dev) (a cls code i0 i1 : Nat) : (recordErr d a cls code i0 i1).book = d.book := by
  obtain ⟨_, h⟩ := recordErr_reports d a cls code i0 i1; exact h.book
@[simp] theorem recordErr_cfg (d : Dev) (a cls code i0 i1 : Nat) : (recordErr d a cls code i0 i1).cfg = d.cfg := by
  obtain ⟨_, h⟩ := recordErr_reports d a cls code i0 i1; exact h.cfg
@[simp] theorem recordErr_hdma (d : Dev) (a cls code i0 i1 : Nat) : (recordErr d a cls code i0 i1).hdma = d.hdma := by
  obtain ⟨_, h⟩ := recordErr_reports d a cls code i0 i1; exact h.hdma
@[simp] theorem recordErr_resp (d : Dev) (a cls code i0 i1 : Nat) : (recordErr d a cls code i0 i1).resp = d.resp := by
  obtain ⟨_, h⟩ := recordErr_reports d a cls code i0 i1; exact h.resp
@[simp] theorem recordErr_job (d : Dev) (a cls code i0 i1 : Nat) : (recordErr d a cls code i0 i1).job = d.job := by
  obtain ⟨_, h⟩ := recordErr_reports d a cls code i0 i1; exact h.job
@[simp] theorem recordErr_sealU (d : Dev) (a cls code i0 i1 : Nat) : (recordErr d a cls code i0 i1).sealU = d.sealU := by
  obtain ⟨_, h⟩ := recordErr_reports d a cls code i0 i1; exact h.sealU
@[simp] theorem recordErr_ctxs (d : Dev) (a cls code i0 i1 : Nat) : (recordErr d a cls code i0 i1).ctxs = d.ctxs := by
  obtain ⟨_, h⟩ := recordErr_reports d a cls code i0 i1; exact h.ctxs
@[simp] theorem recordErr_cores (d : Dev) (a cls code i0 i1 : Nat) : (recordErr d a cls code i0 i1).cores = d.cores := by
  obtain ⟨_, h⟩ := recordErr_reports d a cls code i0 i1; exact h.cores
@[simp] theorem recordErr_mods (d : Dev) (a cls code i0 i1 : Nat) : (recordErr d a cls code i0 i1).mods = d.mods := by
  obtain ⟨_, h⟩ := recordErr_reports d a cls code i0 i1; exact h.mods
@[simp] theorem recordErr_edges (d : Dev) (a cls code i0 i1 : Nat) : (recordErr d a cls code i0 i1).edges = d.edges := by
  obtain ⟨_, h⟩ := recordErr_reports d a cls code i0 i1; exact h.edges
@[simp] theorem recordErr_ports (d : Dev) (a cls code i0 i1 : Nat) : (recordErr d a cls code i0 i1).ports = d.ports := by
  obtain ⟨_, h⟩ := recordErr_reports d a cls code i0 i1; exact h.ports
@[simp] theorem recordErr_sorters (d : Dev) (a cls code i0 i1 : Nat) : (recordErr d a cls code i0 i1).sorters = d.sorters := by
  obtain ⟨_, h⟩ := recordErr_reports d a cls code i0 i1; exact h.sorters
@[simp] theorem recordErr_mem (d : Dev) (a cls code i0 i1 : Nat) : (recordErr d a cls code i0 i1).mem = d.mem := by
  obtain ⟨_, h⟩ := recordErr_reports d a cls code i0 i1; exact h.mem
@[simp] theorem recordErr_poison (d : Dev) (a cls code i0 i1 : Nat) : (recordErr d a cls code i0 i1).poison = d.poison := by
  obtain ⟨_, h⟩ := recordErr_reports d a cls code i0 i1; exact h.poison
@[simp] theorem recordErr_commits (d : Dev) (a cls code i0 i1 : Nat) : (recordErr d a cls code i0 i1).commits = d.commits := by
  obtain ⟨_, h⟩ := recordErr_reports d a cls code i0 i1; exact h.commits
@[simp] theorem recordErr_esc (d : Dev) (a cls code i0 i1 : Nat) : (recordErr d a cls code i0 i1).esc = d.esc := by
  obtain ⟨_, h⟩ := recordErr_reports d a cls code i0 i1; exact h.esc
@[simp] theorem recordErr_recent (d : Dev) (a cls code i0 i1 : Nat) : (recordErr d a cls code i0 i1).recent = d.recent := by
  obtain ⟨_, h⟩ := recordErr_reports d a cls code i0 i1; exact h.recent
@[simp] theorem recordErr_clock (d : Dev) (a cls code i0 i1 : Nat) : (recordErr d a cls code i0 i1).clock = d.clock := by
  obtain ⟨_, h⟩ := recordErr_reports d a cls code i0 i1; exact h.clock
@[simp] theorem recordErr_free (d : Dev) (a cls code i0 i1 : Nat) : (recordErr d a cls code i0 i1).free = d.free := by
  obtain ⟨_, h⟩ := recordErr_reports d a cls code i0 i1; exact h.free
@[simp] theorem recordErr_dies (d : Dev) (a cls code i0 i1 : Nat) : (recordErr d a cls code i0 i1).dies = d.dies := by
  obtain ⟨_, h⟩ := recordErr_reports d a cls code i0 i1; exact h.dies

end Sys2Proof.Machine
end

