-- ==== Sys2Proof/Laws/Settle.lean ====
section
/-!
SUPPORT. What a command leaves for its end: nothing, where it asks for no fence and no halt and the start-up waits for nothing.
-/
namespace Sys2Proof.Machine

theorem runFences_none {n : Nat} {d : Dev} (h : d.board.fences = []) : runFences n d = d := by
  cases n with
  | zero => rfl
  | succ n => unfold runFences; simp [h]

theorem levelStep_other {d : Dev} (h : d.board.bootStep ≠ 3) : levelStep d = d := by unfold levelStep; simp [h]
theorem edgesStep_other {d : Dev} (h : d.board.bootStep ≠ 5 ∨ d.board.service = true) : edgesStep d = d := by
  unfold edgesStep
  rcases h with h | h <;> simp [h]

theorem Steady.live {d : Dev} (h : Steady d) : Live d := h.1
theorem Steady.powered {d : Dev} (h : Steady d) : d.board.pwrOk = true := h.1.1
theorem Steady.moving {d : Dev} (h : Steady d) : d.board.halted = false := h.1.2
theorem Steady.quiet {d : Dev} (h : Steady d) : d.fresh = [] := h.2.2.2.2
theorem Steady.ofBoard {d d' : Dev} (h : Steady d) (e : d'.board = d.board) (f : d'.fresh = []) : Steady d' := by
  unfold Steady Live at *; rw [e, f]; exact ⟨h.1, h.2.1, h.2.2.1, h.2.2.2.1, rfl⟩

theorem bootProgress_steady {d : Dev} (h : Steady d) : bootProgress d = d := by
  have h4 : d.board.bootStep ≠ 3 := by have := h.2.2.2.1; omega
  have h6 : d.board.bootStep ≠ 6 := by have := h.2.2.2.1; omega
  have h5 : d.board.bootStep ≠ 5 ∨ d.board.service = true := by
    rcases h.2.2.2.1 with h | h | h
    · left; omega
    · left; omega
    · exact .inr h.2
  unfold bootProgress
  simp [levelStep_other h4, edgesStep_other h5, h6]

theorem settle_steady {d : Dev} (h : Steady d) : settle d = d := by
  have e : { d with fresh := [] } = d := by rw [← h.quiet]
  unfold settle
  simp [h.moving, e, runFences_none h.2.1, bootProgress_steady h, h.2.2.1]

/-- A command that leaves the board of a steady device alone ends in what it did, its errors no longer of the present cycle. -/
theorem settle_board {d d' : Dev} (h : Steady d) (e : d'.board = d.board) : settle d' = { d' with fresh := [] } := by
  have k : Steady { d' with fresh := [] } := h.ofBoard e rfl
  unfold settle
  simp [show d'.board.halted = false from k.moving, runFences_none k.2.1, bootProgress_steady k,
    show d'.board.haltReq = none from k.2.2.1]
theorem settle_ofBoard {d d' : Dev} (h : Steady d) (e : d'.board = d.board) (f : d'.fresh = []) : settle d' = d' :=
  settle_steady (h.ofBoard e f)

/-- A command that leaves the board alone ends in what it did. -/
theorem gated_board {f : Dev → Dev} {s : State} (h : Steady s.dev) (e : (f s.dev).board = s.dev.board) :
    gated f s = .next { s with dev := { f s.dev with fresh := [] } } := by
  unfold gated
  simp [h.powered, h.moving, settle_board h e]
theorem gated_steady {f : Dev → Dev} {s : State} (h : Steady s.dev) (e : (f s.dev).board = s.dev.board) (r : (f s.dev).fresh = []) :
    gated f s = .next { s with dev := f s.dev } := by
  unfold gated
  simp [h.powered, h.moving, settle_ofBoard h e r]
theorem powered_steady {f : Dev → Dev} {s : State} (h : Steady s.dev) (e : (f s.dev).board = s.dev.board) (r : (f s.dev).fresh = []) :
    powered f s = .next { s with dev := f s.dev } := by
  unfold powered
  simp [h.powered, settle_ofBoard h e r]
/-- A command whose result is steady ends in it. -/
theorem gated_result {f : Dev → Dev} {s : State} (h : Live s.dev) (e : Steady (f s.dev)) : gated f s = .next { s with dev := f s.dev } := by
  unfold gated
  simp [h.1, h.2, settle_steady e]
theorem powered_result {f : Dev → Dev} {s : State} (h : Live s.dev) (e : Steady (f s.dev)) :
    powered f s = .next { s with dev := f s.dev } := by
  unfold powered
  simp [h.1, settle_steady e]

/-- On a halted package, and without power, a command that is not of the few that act then changes nothing (R482). -/
theorem gated_halted {f : Dev → Dev} {s : State} (h : s.dev.board.halted = true) : gated f s = .next s := by
  unfold gated; simp [h]
theorem gated_unpowered {f : Dev → Dev} {s : State} (h : s.dev.board.pwrOk = false) : gated f s = .next s := by
  unfold gated; simp [h]
theorem powered_unpowered {f : Dev → Dev} {s : State} (h : s.dev.board.pwrOk = false) : powered f s = .next s := by
  unfold powered; simp [h]

theorem access_reaches {d : Dev} {who : Requester} {addr : Nat} (h : Reaches d who addr) (f : Dev → Dev) :
    access d who addr f = f (dropHeld d who addr) := by
  have h1 : ¬ (who = .host ∧ (!barsOpen d) = true) := by
    rintro ⟨e, hb⟩; simp [h.1 e] at hb
  unfold access
  rw [if_neg h1, if_neg (by simp [h.2.1]), if_neg (by simp [h.2.2])]

/-- Whatever the command, it answers a next state with the queue as it was. -/
theorem gated_next (f : Dev → Dev) (s : State) : ∃ d, gated f s = .next { s with dev := d } := ⟨_, rfl⟩
theorem powered_next (f : Dev → Dev) (s : State) : ∃ d, powered f s = .next { s with dev := d } := ⟨_, rfl⟩

end Sys2Proof.Machine
end

