-- ==== Sys2Proof/Laws/Issue.lean ====
section
/-!
SUPPORT. The issue of one slot by name: what counting leaves as it was, and what remains of an issue once a bundle's verdict and reads
are known.
-/
namespace Sys2Proof.Machine

/-! ## Counting -/

theorem OnlyMeters.refl (P : Nat → Prop) (d : Dev) : OnlyMeters P d d := ⟨rfl, fun _ _ => rfl⟩
theorem OnlyMeters.trans {P : Nat → Prop} {a b c : Dev} (h : OnlyMeters P a b) (k : OnlyMeters P b c) : OnlyMeters P a c := by
  refine ⟨?_, fun x hx => (k.2 x hx).trans (h.2 x hx)⟩
  rw [k.1, h.1]
theorem OnlyMeters.mono {P Q : Nat → Prop} {a b : Dev} (h : OnlyMeters P a b) (pq : ∀ x, P x → Q x) : OnlyMeters Q a b :=
  ⟨h.1, fun x hx => h.2 x (fun p => hx (pq x p))⟩
theorem OnlyMeters.foldl {α : Type} {P : Nat → Prop} {f : Dev → α → Dev} (hf : ∀ d x, OnlyMeters P d (f d x)) (l : List α) (d : Dev) :
    OnlyMeters P d (l.foldl f d) := by
  induction l generalizing d with
  | nil => exact OnlyMeters.refl P d
  | cons x l ih => exact (hf d x).trans (ih _)
theorem OnlyMeters.ite {P : Nat → Prop} {p : Prop} [Decidable p] {d x y : Dev} (hx : OnlyMeters P d x) (hy : OnlyMeters P d y) :
    OnlyMeters P d (if p then x else y) := by
  split <;> assumption

theorem setReg_meters {P : Nat → Prop} (d : Dev) {a : Nat} (v : W32) (h : P a) : OnlyMeters P d (setReg d a v) :=
  ⟨rfl, fun _ hb => reg_setReg_other d v (fun e => hb (e ▸ h))⟩
theorem setRegN_meters {P : Nat → Prop} (d : Dev) {a : Nat} (n : Nat) (h : P a) : OnlyMeters P d (setRegN d a n) := setReg_meters d _ h
theorem setReg64_meters {P : Nat → Prop} (d : Dev) {a : Nat} (n : Nat) (h : P a) (h4 : P (a + 4)) : OnlyMeters P d (setReg64 d a n) :=
  (setRegN_meters d _ h).trans (setRegN_meters _ _ h4)
theorem irqUpdate_meters {P : Nat → Prop} (d : Dev) (a : Nat) : OnlyMeters P d (irqUpdate d a) := by
  unfold irqUpdate
  exact OnlyMeters.ite (OnlyMeters.refl _ _) ⟨rfl, fun _ _ => rfl⟩
theorem trace_meters {P : Nat → Prop} (d : Dev) (t : Sparse TraceEntry) : OnlyMeters P d { d with trace := t } := ⟨rfl, fun _ _ => rfl⟩
theorem meter_trace (a s : Nat) {b : Nat} (lo : 0x820 ≤ b) (hi : b ≤ 0x828) : Meter a (pgTrace s + b) :=
  .inr (.inr ⟨s, by omega, by omega⟩)
theorem traceWrite_meters (a : Nat) (d : Dev) (s kind typ inst code seq data : Nat) :
    OnlyMeters (Meter a) d (traceWrite d s kind typ inst code seq data) := by
  unfold traceWrite
  generalize (if kind = 6 then 5 else kind) = b
  extract_lets p cfg wr full e d1 d2
  split
  · exact OnlyMeters.refl _ d
  split
  · exact setReg_meters _ _ (meter_trace a s (by omega) (by omega))
  refine OnlyMeters.trans ?_ (setRegN_meters _ _ (meter_trace a s (by omega) (by omega)))
  show OnlyMeters _ d (if full then _ else _)
  split
  · exact (trace_meters _ _).trans (setRegN_meters _ _ (meter_trace a s (by omega) (by omega)))
  · exact trace_meters _ _
theorem tracePage_meters (p : Nat) (d : Dev) (a kind code seq data : Nat) : OnlyMeters (Meter p) d (tracePage d a kind code seq data) := by
  unfold tracePage
  split
  · exact OnlyMeters.refl _ d
  · exact OnlyMeters.ite (OnlyMeters.refl _ d) (traceWrite_meters p _ _ _ _ _ _ _ _)
theorem counterAdd_meters (d : Dev) (a k : Nat) {n : Nat} (hn : n < 8) : OnlyMeters (Meter a) d (counterAdd d a n k) := by
  have h0 : Meter a (a + oEvcnt + 8 * n) := .inr (.inl ⟨by omega, by unfold oEvcnt; omega⟩)
  have h4 : Meter a (a + oEvcnt + 8 * n + 4) := .inr (.inl ⟨by omega, by unfold oEvcnt; omega⟩)
  unfold counterAdd
  dsimp only
  split
  · exact setReg64_meters _ _ h0 h4
  · exact (setReg64_meters _ _ h0 h4).trans
      (((setRegN_meters _ _ (.inl rfl)).trans (tracePage_meters a _ _ _ _ _ _)).trans (irqUpdate_meters _ _))
theorem countEvt_meters (d : Dev) (a src inst k : Nat) : OnlyMeters (Meter a) d (countEvt d a src inst k) := by
  have key : ∀ (l : List Nat) (d : Dev), (∀ n ∈ l, n < 8) →
      OnlyMeters (Meter a) d (l.foldl (fun d n => if counts d a n src inst then counterAdd d a n k else d) d) := by
    intro l
    induction l with
    | nil => exact fun d _ => OnlyMeters.refl _ d
    | cons n l ih =>
      intro d h
      exact (OnlyMeters.ite (counterAdd_meters d a k (h n List.mem_cons_self)) (OnlyMeters.refl _ d)).trans
        (ih _ (fun m hm => h m (List.mem_cons_of_mem _ hm)))
  unfold countEvt
  exact OnlyMeters.ite (OnlyMeters.refl _ d) (key _ d (fun n h => List.mem_range.mp h))

theorem OnlyMeters.ctxs {P : Nat → Prop} {d d' : Dev} (h : OnlyMeters P d d') : d'.ctxs = d.ctxs := by rw [h.1]
theorem OnlyMeters.cores {P : Nat → Prop} {d d' : Dev} (h : OnlyMeters P d d') : d'.cores = d.cores := by rw [h.1]

/-! ## Counting the cycles of a core -/

/-- What counting a core's cycles may change: idle causes and totals, counters, the core's cycle count. -/
def CycleFrame (d d' : Dev) (site k : Nat) : Prop :=
  d' = { d with regs := d'.regs, trace := d'.trace, lines := d'.lines, ctxs := d'.ctxs, cores := d'.cores }
  ∧ (∀ b, ¬ Meter (pgCore site k) b → ¬ IdleTotal (pgCore site k) b → reg d' b = reg d b)
  ∧ (∀ j, ∃ x, getCtx d' j = { getCtx d j with cause := x })

theorem CycleFrame.refl (d : Dev) (site k : Nat) : CycleFrame d d site k := ⟨rfl, fun _ _ _ => rfl, fun _ => ⟨_, rfl⟩⟩
theorem CycleFrame.trans {a b c : Dev} {site k : Nat} (h : CycleFrame a b site k) (g : CycleFrame b c site k) : CycleFrame a c site k := by
  refine ⟨by rw [g.1, h.1], fun x h1 h2 => (g.2.1 x h1 h2).trans (h.2.1 x h1 h2), fun j => ?_⟩
  obtain ⟨x, hx⟩ := h.2.2 j
  obtain ⟨y, hy⟩ := g.2.2 j
  exact ⟨y, by rw [hy, hx]⟩
theorem OnlyMeters.cycle {d d' : Dev} {site k : Nat}
    (h : OnlyMeters (fun b => Meter (pgCore site k) b ∨ IdleTotal (pgCore site k) b) d d') : CycleFrame d d' site k := by
  refine ⟨?_, fun b h1 h2 => h.2 b (fun o => o.elim h1 h2), fun j => ⟨(getCtx d j).cause, ?_⟩⟩
  · rw [h.1]
  · unfold getCtx; rw [h.ctxs]
theorem countEvt_cycle (d : Dev) (site k src inst m : Nat) : CycleFrame d (countEvt d (pgCore site k) src inst m) site k :=
  ((countEvt_meters d _ src inst m).mono (fun _ h => .inl h)).cycle

/-- A cause is at most 12, so its total lies among the page's totals. -/
theorem idleTotal_mem (a : Nat) {c : Nat} (h : c ≤ 12) : IdleTotal a (a + 0xB00 + 8 * c) ∧ IdleTotal a (a + 0xB00 + 8 * c + 4) := by
  unfold IdleTotal; omega
theorem putCtx_cause (d : Dev) (site k key cause : Nat) : CycleFrame d (putCtx d key { getCtx d key with cause := cause }) site k := by
  refine ⟨rfl, fun _ _ _ => rfl, fun j => ?_⟩
  by_cases h : j = key
  · subst h; exact ⟨cause, by simp⟩
  · exact ⟨_, by rw [getCtx_putCtx_other _ _ h]⟩
theorem setTotal_cycle (d : Dev) (site k n : Nat) {cause : Nat} (h : cause ≤ 12) :
    CycleFrame d (setReg64 d (pgCore site k + 0xB00 + 8 * cause) n) site k := by
  have hm := idleTotal_mem (pgCore site k) h
  have h1 : OnlyMeters (fun b => Meter (pgCore site k) b ∨ IdleTotal (pgCore site k) b) d (setReg64 d (pgCore site k + 0xB00 + 8 * cause) n) :=
    setReg64_meters d n (Or.inr hm.1) (Or.inr hm.2)
  exact h1.cycle
theorem idleAdd_cycle (d : Dev) (site k n m : Nat) {cause : Nat} (h : cause ≤ 12) : CycleFrame d (idleAdd d site k n cause m) site k := by
  unfold idleAdd
  dsimp only
  exact ((setTotal_cycle d site k _ h).trans (putCtx_cause _ site k _ cause)).trans (countEvt_cycle _ site k _ _ _)
theorem countCause_cycle (d : Dev) (site k m : Nat) (who : Option Nat) (n : Nat) : CycleFrame d (countCause d site k m who n) site k := by
  unfold countCause
  dsimp only
  split
  · exact idleAdd_cycle d site k n m (by split <;> omega)
  · exact CycleFrame.refl d site k
@[simp] theorem countCause_cores (d : Dev) (site k m : Nat) (who : Option Nat) (n : Nat) : (countCause d site k m who n).cores = d.cores := by
  unfold countCause idleAdd
  dsimp only
  split <;> simp
theorem countCauses (d : Dev) (site k m : Nat) (who : Option Nat) (l : List Nat) :
    CycleFrame d (l.foldl (fun d n => countCause d site k m who n) d) site k
    ∧ (l.foldl (fun d n => countCause d site k m who n) d).cores = d.cores := by
  induction l generalizing d with
  | nil => exact ⟨CycleFrame.refl d site k, rfl⟩
  | cons n l ih =>
    obtain ⟨h1, h2⟩ := ih (countCause d site k m who n)
    exact ⟨(countCause_cycle d site k m who n).trans h1, h2.trans (by simp)⟩

theorem putCore_cycle (d : Dev) (site k j : Nat) (c : Core) : CycleFrame d (putCore d j c) site k := ⟨rfl, fun _ _ _ => rfl, fun _ => ⟨_, rfl⟩⟩
theorem passCycles_cycle (d : Dev) (site k m : Nat) : CycleFrame d (passCycles d site k m) site k := by
  unfold passCycles
  dsimp only
  have h := ((putCore_cycle d site k (coreKey site k)
    { getCore d (coreKey site k) with cycle := (getCore d (coreKey site k)).cycle + m }).trans (countEvt_cycle _ site k 0 0 m)).trans
    (countEvt_cycle _ site k 2 0 m)
  split
  · exact h.trans (countEvt_cycle _ site k 1 0 m)
  · exact h
theorem passCycles_cores (d : Dev) (site k m : Nat) : (passCycles d site k m).cores =
    (putCore d (coreKey site k) { getCore d (coreKey site k) with cycle := (getCore d (coreKey site k)).cycle + m }).cores := by
  unfold passCycles
  dsimp only
  split <;> simp

/-- Counting `m` cycles of a core: causes, totals and counters, and the core's cycle count, nothing else. -/
theorem account_frame (d : Dev) (site k m : Nat) (who : Option Nat) :
    CycleFrame d (account d site k m who) site k
    ∧ (∀ j, j ≠ coreKey site k → getCore (account d site k m who) j = getCore d j)
    ∧ getCore (account d site k m who) (coreKey site k) =
        { getCore d (coreKey site k) with cycle := (getCore d (coreKey site k)).cycle + m } := by
  obtain ⟨h1, h2⟩ := countCauses d site k m who (List.range 16)
  have hc := passCycles_cores ((List.range 16).foldl (fun d n => countCause d site k m who n) d) site k m
  unfold account
  refine ⟨h1.trans (passCycles_cycle _ site k m), fun j hj => ?_, ?_⟩
  · have := getCore_putCore_other ((List.range 16).foldl (fun d n => countCause d site k m who n) d)
      { getCore ((List.range 16).foldl (fun d n => countCause d site k m who n) d) (coreKey site k) with
        cycle := (getCore ((List.range 16).foldl (fun d n => countCause d site k m who n) d) (coreKey site k)).cycle + m } hj
    unfold getCore at *
    rw [hc, this, h2]
  · unfold getCore at *
    rw [hc, ← h2]
    exact getCore_putCore _ _ _

/-! ## A slot that issues -/

theorem noteIssue_cycle (d : Dev) (site k n : Nat) : CycleFrame d (noteIssue d site k n) site k := by
  unfold noteIssue
  exact (putCore_cycle d site k _ _).trans (countEvt_cycle _ site k _ _ _)
theorem noteIssue_core (d : Dev) (site k n : Nat) :
    (∀ j, j ≠ coreKey site k → getCore (noteIssue d site k n) j = getCore d j)
    ∧ getCore (noteIssue d site k n) (coreKey site k) = { getCore d (coreKey site k) with last := n } := by
  unfold noteIssue
  refine ⟨fun j hj => ?_, ?_⟩
  · simp [getCore_putCore_other _ _ hj]
  · simp

/-- The count of an issue: the core's cycle and pointer, causes and counters. -/
theorem account_issue (d : Dev) (r : CtxRef) :
    let e := account (noteIssue d r.site.val r.core.val r.ctx.val) r.site.val r.core.val 1 (some r.ctx.val)
    (e = { d with regs := e.regs, trace := e.trace, lines := e.lines, ctxs := e.ctxs, cores := e.cores }
      ∧ (∀ b, ¬ Meter (pgCore r.site.val r.core.val) b → ¬ IdleTotal (pgCore r.site.val r.core.val) b → reg e b = reg d b))
    ∧ (∀ j, ∃ x, getCtx e j = { getCtx d j with cause := x })
    ∧ (∀ j, j ≠ coreKey r.site.val r.core.val → getCore e j = getCore d j)
    ∧ getCore e (coreKey r.site.val r.core.val) = { getCore d (coreKey r.site.val r.core.val) with
        cycle := (getCore d (coreKey r.site.val r.core.val)).cycle + 1, last := r.ctx.val } := by
  obtain ⟨h1, h2, h3⟩ := account_frame (noteIssue d r.site.val r.core.val r.ctx.val) r.site.val r.core.val 1 (some r.ctx.val)
  obtain ⟨g1, g2⟩ := noteIssue_core d r.site.val r.core.val r.ctx.val
  have h := (noteIssue_cycle d r.site.val r.core.val r.ctx.val).trans h1
  exact ⟨⟨h.1, h.2.1⟩, h.2.2, fun j hj => (h2 j hj).trans (g1 j hj), by rw [h3, g2]⟩

theorem wakeCtx_running {d : Dev} {site k n : Nat} (h : (getCtx d (ctxKey site k n)).cstate = .running) : wakeCtx d site k n = d := by
  unfold wakeCtx
  simp [h]

/-- A context that can issue issues in this cycle: what its bundle does, then the count of the issue. -/
theorem slotIssue_can {d : Dev} {r : CtxRef} {b : Bundle} (h : CanIssue d r b) {x : Dev}
    (hx : issueBundle d r.site.val r.core.val r.ctx b = (true, x)) :
    slotIssue d r b = account (noteIssue x r.site.val r.core.val r.ctx.val) r.site.val r.core.val 1 (some r.ctx.val) := by
  obtain ⟨hl, hr, hh, hs, ht, hb, hg, hm⟩ := h
  have hk : ctxRefKey r = ctxKey r.site.val r.core.val r.ctx.val := rfl
  rw [hk] at hr hs ht hg
  have hrun : running d (pgCore r.site.val r.core.val) = true := by
    unfold coreLive at hl
    simp only [Bool.and_eq_true] at hl
    exact hl.1.2
  have hmay : mayIssue d r.site.val r.core.val r.ctx.val = true := by
    unfold mayIssue
    simp [hr, hh, hs, hrun]
  have hmx : ¬ (b.mx.isSome = true ∧ mxWithheld d r.site.val r.core.val = true) := by
    rintro ⟨h1, h2⟩
    simp [hm h1] at h2
  unfold slotIssue
  simp only [wakeCtx_running hr, hl, hmay, slotCycle]
  have ht' : ¬ (getCore d (coreKey r.site.val r.core.val)).cycle <
      max (getCore d (coreKey r.site.val r.core.val)).cycle (readyAt (getCtx d (ctxKey r.site.val r.core.val r.ctx.val)) b) := by
    rw [Nat.max_eq_left ht]; omega
  rw [if_neg (by simpa using hmx)]
  simp only [ht', if_false, hx, if_true]

/-- A bundle that can issue, whose slots have nothing to wait for and no fault, does its reads and then its writes. -/
theorem issueBundle_can {d : Dev} {r : CtxRef} {b : Bundle} (h : CanIssue d r b)
    (hv : bundleVerdict d r.site.val r.core.val r.ctx.val b = .ok) {d1 : Dev} {bs bl : List Byte}
    (hr : bundleRead d r.site.val r.core.val r.ctx.val b = (d1, .inr (bs, bl))) :
    issueBundle d r.site.val r.core.val r.ctx b = (true, bundleWrite d1 r.site.val r.core.val r.ctx (getCtx d (ctxRefKey r)) b bs bl) := by
  obtain ⟨hl, hst, hh, hs, ht, hb, hg, hm⟩ := h
  have hk : ctxRefKey r = ctxKey r.site.val r.core.val r.ctx.val := rfl
  rw [hk] at hg ⊢
  unfold issueBundle
  simp only [hb, hg, hv, hr]
  simp

end Sys2Proof.Machine
end

