-- ==== Sys2Proof/Laws/Memory.lean ====
section
/-!
SUPPORT. The laws of device memory: a read after a write, every other byte left alone, and the canonical form kept by every memory
operation, damaged words and errors included.
-/
namespace Sys2Proof.Machine

/-! ## Bytes -/

/-- A byte after bytes are stored from `a` on: the stored byte, or what was there. -/
theorem sget_putBytes (m : List Host.Cell) (a : Nat) (bs : List Byte) (x : Nat) :
    sget memByteDefault (putBytes m a bs) x = if a ≤ x ∧ x < a + bs.length then bs.getD (x - a) 0 else sget memByteDefault m x := by
  induction bs generalizing m a with
  | nil =>
    have h0 : ¬ (a ≤ x ∧ x < a + ([] : List Byte).length) := by rw [List.length_nil]; omega
    rw [if_neg h0]
    rfl
  | cons b bs ih =>
    rw [putBytes, ih, sget_sput, List.length_cons]
    by_cases h : x = a
    · subst h
      rw [if_neg (by omega), if_pos rfl, if_pos (by omega), Nat.sub_self]
      rfl
    · by_cases h2 : a ≤ x ∧ x < a + (bs.length + 1)
      · have h4 : x - a = x - (a + 1) + 1 := by omega
        rw [if_pos (by omega), if_pos h2, h4]
        rfl
      · rw [if_neg (by omega), if_neg h, if_neg h2]
theorem memByte_memPut (d : Dev) (a : Nat) (bs : List Byte) (x : Nat) :
    memByte (memPut d a bs) x = if a ≤ x ∧ x < a + bs.length then bs.getD (x - a) 0 else memByte d x := sget_putBytes d.mem a bs x

/-! ## The canonical form -/

theorem wf_putBytes {m : List Host.Cell} (h : Memory.wf m = true) (a : Nat) (bs : List Byte) : Memory.wf (putBytes m a bs) = true := by
  induction bs generalizing m a with
  | nil => exact h
  | cons b bs ih => exact ih (swf_sput h a b) (a + 1)
theorem wf_memPut {d : Dev} (h : Memory.wf d.mem = true) (a : Nat) (bs : List Byte) : Memory.wf (memPut d a bs).mem = true :=
  wf_putBytes h a bs

@[simp] theorem askFence_mem (d : Dev) (t : FenceT) (a code : Nat) : (askFence d t a code).mem = d.mem := by
  unfold askFence
  dsimp only
  split <;> rfl
@[simp] theorem askHalt_mem (d : Dev) (a code : Nat) : (askHalt d a code).mem = d.mem := by unfold askHalt; split <;> rfl
@[simp] theorem remember_mem (d : Dev) (a unit limit : Nat) : (remember d a unit limit).mem = d.mem := by
  unfold remember; split <;> rfl
theorem foldl_mem {α : Type} {f : Dev → α → Dev} (hf : ∀ d x, (f d x).mem = d.mem) (l : List α) (d : Dev) : (l.foldl f d).mem = d.mem := by
  induction l generalizing d with
  | nil => rfl
  | cons x l ih => exact (ih _).trans (hf d x)
@[simp] theorem raiseWith_mem (d : Dev) (a cls code unit : Nat) (f : Nat → Nat × Nat) : (raiseWith d a cls code unit f).2.mem = d.mem := by
  unfold raiseWith
  split
  · rfl
  · dsimp only
    split <;> (try split) <;> simp [foldl_mem, apply_ite Dev.mem]
@[simp] theorem raise_mem (d : Dev) (a cls code unit i0 i1 : Nat) : (raise d a cls code unit i0 i1).2.mem = d.mem := raiseWith_mem _ _ _ _ _ _
@[simp] theorem raiseErr_mem (d : Dev) (a cls code i0 i1 : Nat) : (raiseErr d a cls code i0 i1).mem = d.mem := raise_mem _ _ _ _ _ _ _
@[simp] theorem setPoison_mem (d : Dev) (g : Nat) (b : Bool) : (setPoison d g b).mem = d.mem := rfl
@[simp] theorem hbmClean_mem (d : Dev) (g : Nat) : (hbmClean d g).mem = d.mem := rfl
@[simp] theorem injectUnit_mem (d : Dev) (a dir : Nat) : (injectUnit d a dir).2.mem = d.mem := by
  unfold injectUnit; dsimp only; split <;> simp
@[simp] theorem hbmSpoil_mem (d : Dev) (page g : Nat) : (hbmSpoil d page g).mem = d.mem := rfl
@[simp] theorem hbmCorrect_mem (d : Dev) (page g sym src : Nat) (bs : List Byte) : (hbmCorrect d page g sym src bs).2.2.mem = d.mem := by
  unfold hbmCorrect
  extract_lets ppa rep r d1
  have h : r.2.mem = d.mem := by simp [r]
  split
  · show (if rep then _ else _ : Dev).mem = d.mem
    split <;> simpa [d1] using h
  · simpa using h
@[simp] theorem hbmUncorrectable_mem (d : Dev) (page g src : Nat) (bs : List Byte) : (hbmUncorrectable d page g src bs).2.2.mem = d.mem := by
  unfold hbmUncorrectable; simp
theorem wf_hbmReadWord {d : Dev} (h : Memory.wf d.mem = true) (page g src : Nat) : Memory.wf (hbmReadWord d page g src).2.2.mem = true := by
  unfold hbmReadWord
  extract_lets bytes inj d1 tagErr tagBits e e1
  have h1 : Memory.wf d1.mem = true := by
    show Memory.wf (if src = 2 then (none, d) else injectUnit d page 1).2.mem = true
    split <;> simp [h]
  split
  · exact h1
  · split
    · split
      · exact h1
      · split
        · simpa using h1
        · simpa using h1
    · simpa using h1
    · simpa using h1
    · split
      · simpa using h1
      · rw [hbmCorrect_mem]
        exact wf_putBytes h1 _ _
theorem wf_hbmWriteWord {d : Dev} (h : Memory.wf d.mem = true) (page g : Nat) (bs : List Byte) (p : Bool) :
    Memory.wf (hbmWriteWord d page g bs p).mem = true := by
  unfold hbmWriteWord
  dsimp only
  split
  · split <;> simpa using wf_memPut h _ _
  · simpa using wf_memPut h _ _
theorem wf_foldl {α : Type} {f : Dev → α → Dev} (hf : ∀ d x, Memory.wf d.mem = true → Memory.wf (f d x).mem = true) (l : List α) (d : Dev)
    (h : Memory.wf d.mem = true) : Memory.wf (l.foldl f d).mem = true := by
  induction l generalizing d with
  | nil => exact h
  | cons x l ih => exact ih _ (hf d x h)
theorem wf_sramReadWord {d : Dev} (h : Memory.wf d.mem = true) (l : Loc) (w : Nat) : Memory.wf (sramReadWord d l w).mem = true := by
  unfold sramReadWord
  extract_lets isStore g ppa
  generalize sramPage l = pg
  obtain ⟨page, ce, ue⟩ := pg
  dsimp only
  have h1 : Memory.wf (if isStore = true then injectUnit d page 1 else (none, d)).2.mem = true := by split <;> simp [h]
  generalize (if isStore = true then injectUnit d page 1 else (none, d)) = inj at h1 ⊢
  obtain ⟨pt, d1⟩ := inj
  dsimp only at h1 ⊢
  have c : ∀ x : Dev, Memory.wf x.mem = true → Memory.wf (if 2 ≤ (raise { x with sramErr := sput noFlip x.sramErr w 0 } page 1 ce g ppa
      (ppa / 2 ^ 32)).1 then setPoison { (raise { x with sramErr := sput noFlip x.sramErr w 0 } page 1 ce g ppa (ppa / 2 ^ 32)).2 with
        sramErr := sput noFlip (raise { x with sramErr := sput noFlip x.sramErr w 0 } page 1 ce g ppa (ppa / 2 ^ 32)).2.sramErr w 0 } g true
      else (raise { x with sramErr := sput noFlip x.sramErr w 0 } page 1 ce g ppa (ppa / 2 ^ 32)).2).mem = true := by
    intro x hx
    split <;> simpa using hx
  have u : ∀ x : Dev, Memory.wf x.mem = true → Memory.wf (raise (if isStore = true then
      incSat (setPoison { x with sramErr := sput noFlip x.sramErr w 0 } g true) (page + 0x840)
      else setPoison { x with sramErr := sput noFlip x.sramErr w 0 } g true) page 2 ue g ppa (ppa / 2 ^ 32)).2.mem = true := by
    intro x hx
    split <;> simpa using hx
  split
  · exact h1
  · exact c _ h1
  · exact u _ h1
  · split
    · exact u _ h1
    · exact c _ (wf_memPut (d := { d1 with free := d1.free + 1 }) h1 _ _)
theorem wf_readPiece {d : Dev} (h : Memory.wf d.mem = true) (p : Nat × Nat × Nat) (src : Nat) :
    Memory.wf (readPiece d p src).2.2.mem = true := by
  unfold readPiece
  obtain ⟨g, lo, n⟩ := p
  dsimp only
  split
  · rename_i st k _ _
    have := wf_hbmReadWord h (pgHbmc st k) g src
    split
    · exact this
    · simpa using this
  · exact wf_foldl (fun d w hd => wf_sramReadWord hd _ w) _ d h
  · exact wf_foldl (fun d w hd => wf_sramReadWord hd _ w) _ d h
  · exact h
theorem wf_injects {d : Dev} (a : Nat) (l : List Nat) (h : Memory.wf d.mem = true) :
    Memory.wf (l.foldl (fun d w =>
      let inj := injectUnit d a 0
      match inj.1 with
      | some pt => { inj.2 with sramErr := sput noFlip inj.2.sramErr w (BitVec.ofNat 72 (if pt = 0 then 2 ^ 64 else 3 * 2 ^ 64)) }
      | none => inj.2) d).mem = true :=
  wf_foldl (fun d w hd => by dsimp only; split <;> simpa using hd) _ d h
theorem wf_clean {d : Dev} (g : Nat) (l : List Nat) (h : Memory.wf d.mem = true) :
    Memory.wf (l.foldl (fun d i => { d with sramErr := sput noFlip d.sramErr (4 * g + i) 0 }) d).mem = true :=
  wf_foldl (f := fun d i => { d with sramErr := sput noFlip d.sramErr (4 * g + i) 0 }) (fun _ _ hd => hd) _ d h
theorem wf_writePiece {d : Dev} (h : Memory.wf d.mem = true) (p : Nat × Nat × Nat) (bs : List Byte) (b : Bool) :
    Memory.wf (writePiece d p bs b).mem = true := by
  unfold writePiece
  obtain ⟨g, lo, n⟩ := p
  dsimp only
  have hr : Memory.wf (if n = 32 then d else (readPiece d (g, 0, 32) 1).2.2).mem = true := by
    split
    · exact h
    · exact wf_readPiece h _ _
  split
  · rw [countEvt_mem]
    split
    · exact wf_hbmWriteWord h _ _ _ _
    · exact wf_hbmWriteWord (wf_hbmReadWord h _ _ _) _ _ _ _
  · exact wf_injects _ _ (wf_clean _ _ (wf_memPut hr _ _))
  · exact wf_clean _ _ (wf_memPut hr _ _)
  · exact h
theorem wf_memRead {d : Dev} (h : Memory.wf d.mem = true) (a n : Nat) : Memory.wf (memRead d a n).2.2.mem = true := by
  unfold memRead
  have key : ∀ (l : List (Nat × Nat × Nat)) (acc : List Byte × Bool × Dev), Memory.wf acc.2.2.mem = true →
      Memory.wf (l.foldl (fun acc p => (acc.1 ++ (readPiece acc.2.2 p 0).1, acc.2.1 || (readPiece acc.2.2 p 0).2.1,
        (readPiece acc.2.2 p 0).2.2)) acc).2.2.mem = true := by
    intro l
    induction l with
    | nil => exact fun _ h => h
    | cons p l ih => exact fun acc h => ih _ (wf_readPiece h p 0)
  exact key _ _ h
theorem wf_memWrite {d : Dev} (h : Memory.wf d.mem = true) (a : Nat) (bs : List Byte) (p : Bool) : Memory.wf (memWrite d a bs p).mem = true := by
  unfold memWrite
  exact wf_foldl (fun d x hd => wf_writePiece hd _ _ _) _ d h
@[simp] theorem absentWrite_mem (d : Dev) (w : Writer) (ppa : Nat) : (absentWrite d w ppa).mem = d.mem := by
  unfold absentWrite
  extract_lets lo hi up
  by_cases h : up = true
  · rw [if_pos h]; exact raiseErr_mem _ _ _ _ _ _
  · rw [if_neg h]
    cases w <;> exact raiseErr_mem _ _ _ _ _ _
theorem wf_writeNow {d : Dev} (h : Memory.wf d.mem = true) (w : Writer) (a : Nat) (bs : List Byte) (p : Bool) :
    Memory.wf (writeNow d w a bs p).mem = true := by
  unfold writeNow
  have h1 := wf_foldl (f := fun d q => writePiece d q (pieceBytes a bs q) p) (fun d x hd => wf_writePiece hd _ _ _) (landing d a bs.length) d h
  dsimp only
  split <;> split <;> simpa using h1
/-- A write that waits for a poison fill stores nothing yet; one that does not is carried out. -/
theorem agentWrite_eq (d : Dev) (w : Writer) (a : Nat) (bs : List Byte) (p : Bool) (h : fillBlocked d a bs.length = false) :
    agentWrite d w a bs p = writeNow d w a bs p := by
  unfold agentWrite
  simp [h]
theorem wf_agentWrite {d : Dev} (h : Memory.wf d.mem = true) (w : Writer) (a : Nat) (bs : List Byte) (p : Bool) :
    Memory.wf (agentWrite d w a bs p).mem = true := by
  unfold agentWrite
  split
  · exact h
  · exact wf_writeNow h w a bs p
theorem wf_readRuns {d : Dev} (h : Memory.wf d.mem = true) (base : Nat) (runs : List (Int × Nat)) :
    Memory.wf (readRuns d base runs).2.2.mem = true := by
  unfold readRuns
  have key : ∀ (l : List (Int × Nat)) (acc : List Byte × Bool × Dev), Memory.wf acc.2.2.mem = true →
      Memory.wf (l.foldl (fun acc r =>
        let x := memRead acc.2.2 ((base : Int) + r.1).toNat r.2
        (acc.1 ++ x.1, acc.2.1 || x.2.1, x.2.2)) acc).2.2.mem = true := by
    intro l
    induction l with
    | nil => exact fun _ h => h
    | cons p l ih => exact fun acc h => ih _ (wf_memRead h _ _)
  exact key _ _ h

end Sys2Proof.Machine
end

