-- ==== Sys2Proof/Laws/Slots.lean ====
section
/-!
SUPPORT. A bundle of one slot that can issue: what remains of the issue for each kind of slot, and the two halves of a statement about
it, the frame of the issue and the context it leaves.
-/
namespace Sys2Proof.Machine

/-- The device after an issue by `r`: `x` is what the bundle itself did. -/
def issueCount (x : Dev) (r : CtxRef) : Dev :=
  account (noteIssue x r.site.val r.core.val r.ctx.val) r.site.val r.core.val 1 (some r.ctx.val)

/-- A bundle that changed one context only leaves the frame of its issue, and that context. -/
theorem issued_of_ctx {d x : Dev} {r : CtxRef} {c : Ctx} (hx : x = { d with ctxs := x.ctxs })
    (ho : ∀ k, k ≠ ctxRefKey r → getCtx x k = getCtx d k) (hc : ∃ b, getCtx x (ctxRefKey r) = { c with busy := b }) :
    Issued d (issueCount x r) r ∧ ContextIs (issueCount x r) r c := by
  obtain ⟨⟨h1, h2⟩, h3, h4, h5⟩ := account_issue x r
  have hr : ∀ b, reg x b = reg d b := fun b => by rw [hx]; rfl
  have hco : ∀ k, getCore x k = getCore d k := fun k => by rw [hx]; rfl
  refine ⟨⟨?_, fun b m i => (h2 b m i).trans (hr b), fun k hk => ?_, fun k hk => Eq.trans (h4 k hk) (hco k), ?_⟩, ?_⟩
  · unfold issueCount
    rw [h1, hx]
  · obtain ⟨y, hy⟩ := h3 k
    exact ⟨y, by unfold issueCount; rw [hy, ho k hk]⟩
  · unfold issueCount
    rw [h5, hco]
  · obtain ⟨b, hb⟩ := hc
    obtain ⟨y, hy⟩ := h3 (ctxRefKey r)
    exact ⟨b, y, by unfold issueCount; rw [hy, hb]⟩

/-- An issue leaves the board, so a steady package stays steady. -/
theorem issueCount_board (x : Dev) (r : CtxRef) : (issueCount x r).board = x.board := by
  obtain ⟨⟨h1, -⟩, -⟩ := account_issue x r
  unfold issueCount
  rw [h1]

theorem verdict_ctrl (d : Dev) (site k n : Nat) (h : Hdr) (o : CtrlOp) (f : CtrlF) (e : ctrlOk d site k n o f = .ok) :
    bundleVerdict d site k n { oneSlot h with ctrl := some (o, f) } = .ok := by
  unfold bundleVerdict slotVerdicts
  simp [oneSlot, e, Verdict.waits]
theorem read_ctrl {d d1 : Dev} {site k n : Nat} {h : Hdr} {o : CtrlOp} {f : CtrlF} {bs : List Byte}
    (e : ctrlRead d site k n o f = (d1, .inr bs)) :
    bundleRead d site k n { oneSlot h with ctrl := some (o, f) } = (d1, .inr (bs, [])) := by
  unfold bundleRead
  simp [oneSlot, e]

/-- A CTRL operation that can issue, and whose core-memory read gives `bs`. -/
theorem slotCtrl_can {d d1 : Dev} {r : CtxRef} {h : Hdr} {o : CtrlOp} {f : CtrlF} {bs : List Byte}
    (hc : CanIssue d r { oneSlot h with ctrl := some (o, f) }) (hok : ctrlOk d r.site.val r.core.val r.ctx.val o f = .ok)
    (hr : ctrlRead d r.site.val r.core.val r.ctx.val o f = (d1, .inr bs)) :
    slotCtrl d r h o f = issueCount (bundleWrite d1 r.site.val r.core.val r.ctx (getCtx d (ctxRefKey r))
      { oneSlot h with ctrl := some (o, f) } bs []) r :=
  slotIssue_can hc (issueBundle_can hc (verdict_ctrl _ _ _ _ _ _ _ hok) (read_ctrl hr))

/-- Marking results as pending changes the pending list alone. -/
theorem markBusy_eq (c : Ctx) (b : Bundle) (now : Nat) : ∃ y, markBusy c b now = { c with busy := y } := by
  unfold markBusy
  generalize bundleWrites b = l
  induction l generalizing c with
  | nil => exact ⟨c.busy, rfl⟩
  | cons w l ih =>
    rw [List.foldl_cons]
    by_cases h : w.2 = 0 ∨ w.1 = kS 0
    · rw [if_pos h]; exact ih c
    · rw [if_neg h]
      obtain ⟨y, hy⟩ := ih (setBusy c w.1 (now + w.2))
      exact ⟨y, by rw [hy]; rfl⟩

/-- The context after a bundle without vector and load slots, FLGCLR apart. -/
theorem nextCtx_ctrl (old c : Ctx) (h : Hdr) (o : CtrlOp) (f : CtrlF) (bl : List Byte) (now : Nat) (hf : o ≠ .flgclr) :
    ∃ y, nextCtx old c { oneSlot h with ctrl := some (o, f) } bl now = { c with busy := y, pc := old.pc + 1 } := by
  have h1 : flagsFirst old c { oneSlot h with ctrl := some (o, f) } = c := by
    cases o <;> first | rfl | exact absurd rfl hf
  have h2 : lanesWrite old c { oneSlot h with ctrl := some (o, f) } bl = c := rfl
  obtain ⟨y, hy⟩ := markBusy_eq c { oneSlot h with ctrl := some (o, f) } now
  exact ⟨y, by unfold nextCtx; rw [h1, h2, hy]⟩

/-- A CTRL operation that writes only its context: the device before the count of the issue. -/
theorem bundleWrite_ctrl (d : Dev) (r : CtxRef) (old : Ctx) (h : Hdr) (o : CtrlOp) (f : CtrlF) (bs : List Byte) (hf : o ≠ .flgclr) :
    ∃ y, bundleWrite d r.site.val r.core.val r.ctx old { oneSlot h with ctrl := some (o, f) } bs [] =
      ctrlApply (putCtx d (ctxRefKey r) { getCtx d (ctxRefKey r) with busy := y, pc := old.pc + 1 }) r.site.val r.core.val r.ctx old o f bs := by
  obtain ⟨y, hy⟩ := nextCtx_ctrl old (getCtx d (ctxRefKey r)) h o f [] (getCore d (coreKey r.site.val r.core.val)).cycle hf
  exact ⟨y, by rw [← hy]; rfl⟩

/-- An operation that puts one context leaves the frame of the issue and that context. -/
theorem issued_put {d : Dev} {r : CtxRef} {c0 c c' : Ctx} {y : Sparse Nat} (h : c' = { c with busy := y }) :
    Issued d (issueCount (putCtx (putCtx d (ctxRefKey r) c0) (ctxRefKey r) c') r) r
    ∧ ContextIs (issueCount (putCtx (putCtx d (ctxRefKey r) c0) (ctxRefKey r) c') r) r c :=
  issued_of_ctx rfl (fun k hk => by rw [getCtx_putCtx_other _ _ hk, getCtx_putCtx_other _ _ hk]) ⟨y, by rw [getCtx_putCtx, h]⟩

end Sys2Proof.Machine
end

