-- ==== Sys2Proof/Tests/Slice0.lean ====
section
/-!
SUPPORT. Tests on small states: which commands are well formed, results taken by hand from the spec's tables and sentences, and for every
statement a state and operands that meet the hypotheses of each of its clauses.
-/
namespace Sys2Proof.Tests
-- One theorem after another: each evaluates in the kernel, and many at once need more threads than memory allows.
set_option Elab.async false
open Sys2Proof Sys2Proof.Machine
open Sys2Proof.Delivered (bytesOf)

/-! ## Small states -/

/-- A package after step 9 of R75: four dies released and ready. -/
def up : Dev :=
  { Dev.reset with board := { Board.reset with pwrOk := true, perstN := true, optics := true, bootStep := 9, released := 15, ready := 15 } }
/-- A device with no command waiting. -/
def st (d : Dev) : State := { dev := d, pending := [] }
/-- Registers by address. -/
def regs (d : Dev) (l : List (Nat × Nat)) : Dev := l.foldl (fun d e => setRegN d e.1 e.2) d
/-- Context 0 of core 0 of site 0. -/
def r0 : CtxRef := ⟨0, 0, 0⟩
def c0 : CoreRef := ⟨0, 0⟩
/-- A header that predicates nothing. -/
def h0 : Hdr := ⟨0, false, false, false, 0, false, false⟩
def f0 : CtrlF := ⟨1, 2, 3, 0, 0⟩
def ctx1 : Ctx := { ctxDefault 0 with cstate := .running }
/-- Context `r0` runs with these fields. -/
def runs (c : Ctx) : Dev := putCtx up (ctxRefKey r0) { c with cstate := .running }
def live : Dev := runs (ctxDefault 0)


theorem words_clean {d : Dev} (h : d.sramErr = []) (a n : Nat) : WordsClean d a n := by
  intro w _ _
  rw [h]
  rfl
theorem reads_clean {d : Dev} (h : d.sramErr = []) (hp : d.poison = []) (hf : d.filled = 0) (a n : Nat) : ReadsClean d a n := by
  refine ⟨words_clean h a n, fun g _ _ => ?_⟩
  have hb : bvBit d.filled (32 * g / hbmSpan) = false := by rw [hf]; exact BitVec.getLsbD_zero
  show sget (poisonDefault d) d.poison g = false
  rw [hp]
  show (decide (32 * g < 0xF000000000) && bvBit d.filled (32 * g / hbmSpan)) = false
  rw [hb, Bool.and_false]

/-- A descriptor of `n` bytes at `a`, all counts 1. -/
def dsc (a n : Nat) : BitVec 512 := BitVec.ofNat 512 (a + 2 ^ 64 * n + 2 ^ 96 + 2 ^ 128)
/-- A stream of 1,000 bytes at the start of the core's own memory, as it starts. -/
def stream1 : Stream := ⟨dsc 0xF040000000 1000, 0, true, 1000, false, 0, [], 0, 0⟩
/-- No escalation windows on these pages. -/
def calm (d : Dev) (pages : List Nat) : Dev := regs d (pages.map (fun a => (a + oEscWindow, 0)))

/-! ## Witnesses: the CTRL slot -/

theorem witness_ScalarArithmetic : Steady live ∧ ∀ e ∈ arithmetic, CanIssue live r0 (ctrlBundle h0 e.2.1 f0) := by decide +kernel
theorem witness_ScalarCompare : comparison.all (fun e => decide (CanIssue live r0 (ctrlBundle h0 .cmp { f0 with fn := e.1 }))) = true := by
  decide +kernel
theorem witness_ScalarReads : ∀ e ∈ scalarReads, CanIssue live r0 (ctrlBundle h0 e.2.1 f0) := by decide +kernel
theorem witness_Branches : comparison.all (fun e => decide (CanIssue live r0 (ctrlBundle h0 .br { f0 with fn := e.1 }))) = true := by
  decide +kernel
theorem witness_Jumps : CanIssue live r0 (ctrlBundle h0 .jal f0) ∧ CanIssue live r0 (ctrlBundle h0 .jr f0)
    ∧ CanIssue live r0 (ctrlBundle h0 .halt f0) ∧ (∀ e ∈ (getCtx live (ctxRefKey r0)).d, e.2.active = false) := by decide +kernel
theorem witness_ScalarMemory : Steady live
    ∧ (∀ e ∈ ([(.sld, 0x17FFF8, 8), (.slw, 0x17FFFC, 4)] : List (CtrlOp × W32 × Nat)),
      CanIssue live r0 (ctrlBundle h0 e.1 { f0 with imm := e.2.1 }) ∧ addrA (getCtx live (ctxRefKey r0)) 2 e.2.1 % e.2.2 = 0
      ∧ addrA (getCtx live (ctxRefKey r0)) 2 e.2.1 + e.2.2 = coreMemSize)
    ∧ ∀ e ∈ ([(.sst, 0x17FFF8, 8), (.ssw, 0x17FFFC, 4)] : List (CtrlOp × W32 × Nat)),
      CanIssue live r0 (ctrlBundle h0 e.1 { f0 with imm := e.2.1 }) ∧ addrA (getCtx live (ctxRefKey r0)) 2 e.2.1 % e.2.2 = 0
      ∧ addrA (getCtx live (ctxRefKey r0)) 2 e.2.1 + e.2.2 = coreMemSize ∧ hitsCode live 0 0 (0x180000 - e.2.2) e.2.2 = false := by
  decide +kernel
theorem witness_clean (a n : Nat) : ReadsClean live a n := reads_clean rfl rfl rfl a n
theorem witness_ContextRegisters : Steady live
    ∧ ∀ o ∈ ([.s2v, .cset, .cadd, .flgclr, .rseed] : List CtrlOp), CanIssue live r0 (ctrlBundle h0 o { f0 with sd := 15 }) := by decide +kernel
/-- A barrier of cluster 0 that expects two contexts. -/
def twoWait : Dev := regs live [(pgCluster 0 0 + 0x800 + 4 * 7, 2)]
/-- Context `r0` waits for a counter that has been reached. -/
def waits : Dev := putCtx up (ctxRefKey r0) { ctxDefault 0 with cstate := .waiting, wait := .counter 1 0 0 }
theorem witness_Waits : Steady live
    ∧ CanIssue live r0 (ctrlBundle h0 .waitc { f0 with sa := 15, fn := 1 }) ∧ CanIssue live r0 (ctrlBundle h0 .waitd { f0 with sa := 15 })
    ∧ CanIssue live r0 (ctrlBundle h0 .barc { f0 with sa := 7 }) ∧ barCount live 0 0 7 = 0 := by decide +kernel
theorem witness_Barriers : Steady twoWait ∧ CanIssue twoWait r0 (ctrlBundle h0 .barc { f0 with sa := 7 })
      ∧ rfld twoWait (barStat 0 0 7) 0 8 + 1 < barCount twoWait 0 0 7 := by decide +kernel
theorem witness_WaitSatisfied : Steady waits ∧ (getCtx waits (ctxRefKey r0)).cstate = .waiting ∧ waitOver waits 0 0 0 = true := by decide +kernel
theorem witness_NotesAndDockets : Steady live
    ∧ CanIssue live r0 (ctrlBundle h0 .note { f0 with sd := 15 })
    ∧ CanIssue live r0 (ctrlBundle h0 .post { f0 with imm := 0x17FFC0 }) ∧ addrA (getCtx live (ctxRefKey r0)) 2 0x17FFC0 % 64 = 0
    ∧ addrA (getCtx live (ctxRefKey r0)) 2 0x17FFC0 + 64 = coreMemSize ∧ coreDockets live 0 0 < 8 := by decide +kernel
/-- A descriptor lies at offset 0 of core memory, and context `r0` streams through d2. -/
def streaming : Dev :=
  memPut (runs { ctxDefault 0 with d := [(2, stream1)] }) 0xF040000000 (toBytes 64 (dsc 0xF040000000 1000).toNat)
def d2 : Stream := dReg (getCtx streaming (ctxRefKey r0)) 2
theorem streaming_clean (a n : Nat) : ReadsClean streaming a n := reads_clean rfl rfl rfl a n
theorem streaming_word : BitVec.ofNat 512 (ofBytes (memGet streaming (cmemAt r0 0) 64)) = dsc 0xF040000000 1000 := by decide +kernel
theorem witness_StreamCommands : Steady streaming
    ∧ (CanIssue streaming r0 (ctrlBundle h0 .dld { f0 with sd := 15 }) ∧ addrA (getCtx streaming (ctxRefKey r0)) 2 0 = 0
      ∧ mxUses (getCore streaming (coreKey 0 0)) 15 = false ∧ useBad streaming 0 0 0 (dsc 0xF040000000 1000) = false
      ∧ dscKind (dsc 0xF040000000 1000) = 0 ∧ dscSize (dsc 0xF040000000 1000) ≠ 0
      ∧ (dReg (getCtx streaming (ctxRefKey r0)) 15).active = false)
    ∧ (∀ o ∈ ([.fetch, .put] : List CtrlOp), CanIssue streaming r0 (ctrlBundle h0 o { f0 with imm := 0x180000 - 1000 })
        ∧ useBad streaming 0 0 0 d2.desc = false ∧ dscKind d2.desc = 0 ∧ dscSize d2.desc ≠ 0 ∧ dscRemote d2.desc = false
        ∧ (operandB (getCtx streaming (ctxRefKey r0)) { f0 with imm := 0x180000 - 1000 }).toNat + dscSize d2.desc = coreMemSize
        ∧ copiesInUse (getCore streaming (coreKey 0 0)) < 16)
    ∧ (CanIssue streaming r0 (ctrlBundle h0 .dskip { f0 with imm := 1000 }) ∧ mxUses (getCore streaming (coreKey 0 0)) 2 = false
        ∧ d2.active = true ∧ dscCtrEn d2.desc = false) := by decide +kernel

/-- Every feature exists at the highest level in force. -/
theorem feature_top (d : Dev) (s : Nat) (f : Feature) (h : runLevel d s = 255) : hasFeature d s f = true := by
  unfold hasFeature
  rw [h]
  exact decide_eq_true (BitVec.le_def.mpr (by have := (featureLevel f).isLt; show _ ≤ 255; omega))
/-- The level in force of site 0 is 255. -/
def top : Dev := regs live [(pgDie 0 + 0x804, 255 * 65536)]
theorem top_level : runLevel top 0 = 255 := by decide +kernel
theorem witness_Pack : Steady top ∧ CanIssue top r0 (ctrlBundle h0 .pack f0) ∧ addrA (getCtx top (ctxRefKey r0)) 2 0 + 64 ≤ coreMemSize := by
  refine ⟨by decide +kernel, ⟨by decide +kernel, by decide +kernel, by decide +kernel, by decide +kernel, by decide +kernel, ?_,
    by decide +kernel, by decide +kernel⟩, by decide +kernel⟩
  show bundleBad top 0 0 0 (ctrlBundle h0 .pack f0) = none
  unfold bundleBad
  rw [feature_top top 0 .route top_level]
  decide +kernel

/-! ## Witnesses: the LD, ST and VEC slots -/

def v0 : VecF := ⟨2, 1, 3, 4, 7, 2, 0⟩
theorem witness_SlotsThatAreOff : ∀ e ∈ slotsOfAWord, tbit (2 ^ e.2.1) (480 + e.1) = false ∧ fld (2 ^ (e.2.1 + e.2.2)) e.2.1 e.2.2 = 0 := by
  decide +kernel
theorem witness_VectorLanes : Steady live ∧ (∀ e ∈ lanewise, CanIssue live r0 (vecBundle h0 e.2.1 v0))
    ∧ ∀ o ∈ ([.vfma, .vsel, .vbcast, .vrsum, .vrmax, .vperm] : List VecOp), CanIssue live r0 (vecBundle h0 o v0) := by decide +kernel
theorem witness_Predicates : Steady live ∧ (∀ e ∈ predicateOps, CanIssue live r0 (vecBundle h0 e.2.1 v0))
    ∧ CanIssue live r0 (vecBundle h0 .vcmp { v0 with imm := 5 }) := by decide +kernel
/-- VCVT of BF16 to FP32. -/
theorem witness_Convert : Steady live ∧ CanIssue live r0 (vecBundle h0 .vcvt { v0 with imm := 0x23 }) := by decide +kernel
def liveTop : Dev := regs live [(pgDie 0 + 0x804, 255 * 65536)]
theorem liveTop_level : runLevel liveTop 0 = 255 := by decide +kernel
theorem feature_all (d : Dev) (s : Nat) (f : Feature) (h : runLevel d s = 255) : hasFeature d s f = true := by
  unfold hasFeature
  rw [h]
  exact decide_eq_true (BitVec.le_def.mpr (by have := (featureLevel f).isLt; show _ ≤ 255; omega))
theorem route_ok (o : VecOp) (ho : o = .route ∨ o = .routeM) :
    bundleBad liveTop 0 0 0 (vecBundle h0 o { v0 with imm := 0x8008 }) = none := by
  unfold bundleBad
  rw [feature_all liveTop 0 .route liveTop_level]
  rcases ho with rfl | rfl <;> decide +kernel
theorem witness_Route : Steady liveTop ∧ ∀ o, o = VecOp.route ∨ o = .routeM → CanIssue liveTop r0 (vecBundle h0 o { v0 with imm := 0x8008 }) := by
  refine ⟨by decide +kernel, fun o ho => ⟨by decide +kernel, by decide +kernel, by decide +kernel, by decide +kernel, ?_, route_ok o ho, ?_, ?_⟩⟩
    <;> rcases ho with rfl | rfl <;> decide +kernel
def m0 : MemF := ⟨1, 2, 3, 4, 0⟩
theorem witness_VectorMemory : Steady live
    ∧ CanIssue live r0 (ldBundle h0 .ldm { m0 with imm := 0x17FE00 }) ∧ addrA (getCtx live (ctxRefKey r0)) 3 0x17FE00 + 512 = coreMemSize
    ∧ CanIssue live r0 (ldBundle h0 .ldp { m0 with imm := 0x17FFF0 }) ∧ addrA (getCtx live (ctxRefKey r0)) 3 0x17FFF0 + 16 = coreMemSize
    ∧ CanIssue live r0 (stBundle h0 .stm { m0 with imm := 0x17FE00 }) ∧ hitsCode live 0 0 0x17FE00 512 = false
    ∧ CanIssue live r0 (stBundle h0 .stp { m0 with imm := 0x17FFF0 }) ∧ hitsCode live 0 0 0x17FFF0 16 = false := by decide +kernel
theorem witness_lanes : ∀ i, i < 128 → laneOn (getCtx live (ctxRefKey r0)) h0 i = true := fun _ _ => rfl
/-- A stream of 1,000 bytes, 900 of them taken, so that the next access meets its end. -/
def atEnd : Dev := runs { ctxDefault 0 with d := [(2, { stream1 with pos := 900 })] }
def e2 : Stream := dReg (getCtx atEnd (ctxRefKey r0)) 2
theorem witness_own : cmemAt r0 0 ≤ e2.desc.toNat % 2 ^ 40 ∧ dscRemote e2.desc = false ∧ dscKind e2.desc = 0 ∧ dscCnt1 e2.desc = 1
    ∧ dscCnt2 e2.desc = 1 ∧ (e2.desc.toNat % 2 ^ 40) - cmemAt r0 0 + dscSize e2.desc ≤ coreMemSize ∧ e2.arrived = dscSize e2.desc
    ∧ e2.pos < dscSize e2.desc ∧ mxUses (getCore atEnd (coreKey 0 0)) 2 = false := by decide +kernel
theorem witness_VectorStreams : Steady atEnd ∧ CanIssue atEnd r0 (ldBundle h0 .ldv m0) ∧ CanIssue atEnd r0 (ldBundle h0 .ldps m0)
    ∧ CanIssue atEnd r0 (stBundle h0 .stv m0) ∧ hitsCode atEnd 0 0 900 100 = false ∧ NoBucket atEnd 0 (cmemAt r0 900) 100 := by decide +kernel
theorem atEnd_clean (a n : Nat) : ReadsClean atEnd a n := reads_clean rfl rfl rfl a n

/-! ## Witnesses: arrays, streams and contexts -/

/-- Context 0 owns the arrays of core 0, whose state is this. -/
def owns (co : Core) : Dev := putCore (regs (runs { ctxDefault 0 with d := [(0, stream1), (1, { stream1 with desc := dsc 0xF040001000 1024, arrived := 1024 })] })
  [(pgCore 0 0 + 0x804, 16)]) (coreKey 0 0) co
/-- INT8 in flow 1 on one array. -/
def core8 : Core := { coreDefault 0 with flow := 1, atype := 8, btype := 8, arrays := 1 }
def run1 : MxRunF := ⟨0, 1, 1, 1, 0, 0, 0, false, false⟩
theorem witness_MxCommands : Steady (owns core8) ∧ (getCore (owns core8) (coreKey 0 0)).queue.length < 8
    ∧ CanIssue (owns core8) r0 (mxBundle h0 (.mode ⟨1, 8, 8, 15⟩)) ∧ CanIssue (owns core8) r0 (mxBundle h0 (.wload ⟨15, 0⟩))
    ∧ CanIssue (owns core8) r0 (mxBundle h0 (.run { run1 with m := 32, n := 128 }))
    ∧ CanIssue (owns core8) r0 (mxBundle h0 (.drain ⟨0, 0, true, 9, 0, true, 0⟩)) := by decide +kernel
def queued (l : List MxOp) : Dev := owns { core8 with queue := l }
theorem witness_HeadMode : Steady (queued [.mode ⟨1, 8, 8, 15⟩ 0 0]) ∧ (coreAt (st (queued [.mode ⟨1, 8, 8, 15⟩ 0 0])) c0).cur = none := by
  decide +kernel
def headRun : Dev := regs (queued [.run run1 32 0 false false 0 0 0]) [(pgPmc 0 + 0x800, 0)]
theorem witness_HeadRun : Steady headRun ∧ (coreAt (st headRun) c0).cur = none ∧ runMismatch (coreAt (st headRun) c0) run1 0 = false
    ∧ fillerWindow headRun 0 = 0 := by decide +kernel
theorem witness_filler (a : Nat) : sget (fun _ => Filler.rest) core8.filler a ≠ .rampUp := by
  show Filler.rest ≠ .rampUp
  decide
theorem witness_HeadDrain : Steady (queued [.drain ⟨0, 0, true, 9, 0, true, 0⟩ 0 0 0])
    ∧ drainMismatch (coreAt (st (queued [.drain ⟨0, 0, true, 9, 0, true, 0⟩ 0 0 0])) c0) ⟨0, 0, true, 9, 0, true, 0⟩ = false := by decide +kernel
/-- Flow WS on arrays 0 to 3, array 3 bound to d5. -/
def ws (l : List MxOp) : Dev := owns { core8 with flow := 0, arrays := 15, binds := [(3, 6)], queue := l }
theorem witness_WloadBinds : Steady (ws [.wload ⟨5, 7⟩ 0 0 0]) ∧ (coreAt (st (ws [.wload ⟨5, 7⟩ 0 0 0])) c0).cur = none
    ∧ (coreAt (st (ws [.wload ⟨5, 7⟩ 0 0 0])) c0).flow = 0 ∧ (7 : BitVec 4) &&& ~~~ (coreAt (st (ws [.wload ⟨5, 7⟩ 0 0 0])) c0).arrays = 0
    ∧ swf zeroNat (coreAt (st (ws [.wload ⟨5, 7⟩ 0 0 0])) c0).binds = true := by decide +kernel
/-- A run of one row and one column with its one K-block to enter. -/
def runNow : RunState := ⟨run1, 32, 0, false, false, 1, 0, 0, 0⟩
def coreRun : Core := { core8 with live := ⟨true, 1, 1, 1, 8, 8, 0, 1, 0, 0, []⟩, cur := some runNow }
def running : Dev := owns coreRun
def reads := mxReadAll running 0 0 (blockOperands coreRun runNow)
theorem witness_Block : Steady running ∧ runNow.done < ceilDiv runNow.k 32
    ∧ (blockOperands coreRun runNow).all (fun o => mxServed running 0 (dReg (getCtx running (ctxKey 0 0 0)) o.1) o.2) = true
    ∧ (match reads.2 with | .inr _ => true | .inl _ => false) = true ∧ reads.1.board = running.board ∧ getCore reads.1 (keyOf c0) = coreRun
    ∧ runNow.zskip = false := by decide +kernel
theorem witness_RunComplete : ceilDiv runNow.k 32 ≤ ({ runNow with done := 1 } : RunState).done
    ∧ (getCtx running (ctxKey 0 0 (mxOwner running 0 0))).cstate = .running := by decide +kernel
def drn : MxDrainF := ⟨0, 3, true, 9, 0, false, 0⟩
def swapping : Dev := owns { core8 with live := coreRun.live, queue := [.drain drn 0 0 0] }
def draining : Dev := owns { core8 with shadow := coreRun.live, drain := some (drn, 0, 0, 0) }
def rows := drainRows 0 0 0 (drainConv coreRun.live drn 0).1 (drainFlags draining 0 0 coreRun.live drn 0 0)
theorem witness_Drains : Steady swapping ∧ (coreAt (st swapping) c0).drain = none ∧ drainMismatch (coreAt (st swapping) c0) drn = false
    ∧ Steady draining ∧ (coreAt (st draining) c0).shadow.begun = true ∧ dscKind (dReg (getCtx draining (ctxKey 0 0 0)) 0).desc = 0
    ∧ rows.2 = none ∧ rows.1.board = draining.board ∧ mxOwner rows.1 0 0 = mxOwner draining 0 0
    ∧ (getCtx rows.1 (ctxKey 0 0 0)).cstate = .running := by decide +kernel
def streamNow : Dev := runs { ctxDefault 0 with d := [(2, stream1)] }
def done2 : Dev := runs { ctxDefault 0 with d := [(2, { stream1 with pos := 1000 })] }
theorem witness_StreamEvents : Steady streamNow ∧ (dReg (getCtx streamNow (ctxRefKey r0)) 2).active = true
    ∧ dscRemote (dReg (getCtx streamNow (ctxRefKey r0)) 2).desc = false ∧ dscSize (dReg (getCtx done2 (ctxRefKey r0)) 2).desc ≤
      (dReg (getCtx done2 (ctxRefKey r0)) 2).pos := by decide +kernel
/-- A FETCH and a PUT between the first KiB of core memory and its last. -/
def copyOf (put : Bool) : CopyOp := ⟨0, put, dsc (0xF040000000 + 0x180000 - 1024) 1024, 0, 0, false, 0, 0⟩
def copies : Dev := putCore live (coreKey 0 0) { coreDefault 0 with copies := [(0, some (copyOf false)), (15, some (copyOf true))] }
theorem witness_Copies : Steady copies ∧ MemoryUp copies 0 0
    ∧ sget (fun _ => none) (coreAt (st copies) c0).copies 0 = some (copyOf false)
    ∧ sget (fun _ => none) (coreAt (st copies) c0).copies 15 = some (copyOf true)
    ∧ OneRun 0 0 (copyOf true).desc ∧ hitsCode copies 0 0 0 1024 = false
    ∧ writeBlocked copies 0 0 (dscPpa (copyOf true).desc) 1024 = false ∧ NoBucket copies 0 (dscPpa (copyOf true).desc) 1024
    ∧ coreMemBase 0 0 + 1024 ≤ dscPpa (copyOf true).desc := by decide +kernel
/-- A PACK of one token with one choice, expert 0, for one destination: tables at 64 and 128. -/
def packX : BitVec 512 := BitVec.ofNat 512 (0 + 2 ^ 32 * 1 + 2 ^ 64 * 1 + 2 ^ 80 * 1 + 2 ^ 96 * 1 + 2 ^ 112 * 1 + 2 ^ 128 * 64 + 2 ^ 160 * 128)
def packing : Dev := runs { ctxDefault 0 with packs := [(packX, 0)] }
def pk : PackBlock := packBlock packX
def chosen : List (Nat × Nat) := packChoices pk (memGet packing (cmemAt r0 pk.choices) (packSpan pk))
theorem witness_Pack2 : Steady packing ∧ MemoryUp packing 0 0 ∧ pk.choices + packSpan pk ≤ coreMemSize ∧ chosen = [(0, 0)]
    ∧ (∀ c ∈ chosen, pk.perDest ≠ 0 ∧ c.2 / pk.perDest < pk.dests)
    ∧ pk.counts + (packTables pk chosen).1.length ≤ pk.list ∧ pk.list + (packTables pk chosen).2.length ≤ coreMemSize
    ∧ hitsCode packing 0 0 pk.counts 4 = false ∧ hitsCode packing 0 0 pk.list 8 = false := by decide +kernel
theorem packing_clean (a n : Nat) : ReadsClean packing a n := reads_clean rfl rfl rfl a n
theorem witness_Contexts : Steady live ∧ Reaches live (.firmware 0 0) (pgCore 0 0 + 0xF00) ∧ Reaches live (.firmware 0 0) (pgCore 0 0 + 0xF04)
    ∧ Reaches live (.firmware 0 0) (pgCore 0 0 + 0xF08) ∧ Machine.running live (pgCore 0 0) = true
    ∧ (∀ n, n < 16 → ∀ e ∈ (getCtx live (ctxKey 0 0 n)).d, e.2.active = false) := by decide +kernel
def stopping : Dev := runs { ctxDefault 0 with stopping := true }
theorem witness_Stop : Steady stopping ∧ (getCtx stopping (ctxKey 0 0 0)).stopping = true ∧ opsDone stopping 0 0 0 = true
    ∧ (∀ e ∈ (getCtx stopping (ctxKey 0 0 0)).d, e.2.active = false) := by decide +kernel
/-- CODE_LEN 1: a bundle of zeros lies at offset 0. -/
def coded : Dev := regs live [(pgCore 0 0 + 0x80C, 1)]
def bundle0 : Bundle := decodeBundle (ofBytes (memGet coded (cmemAt r0 0) 64))
theorem witness_Bundle : Steady coded ∧ (∀ m, m < 16 → m ≠ 0 → (getCtx coded (ctxKey 0 0 m)).cstate = .idle)
    ∧ (getCtx coded (ctxRefKey r0)).pc.toNat < rfld coded (pgCore 0 0 + 0x80C) 0 15
    ∧ (bundleVerdict coded 0 0 0 bundle0).waits = false ∧ (slotIssue coded r0 bundle0).board = coded.board := by decide +kernel
theorem witness_Bundle0 : CanIssue coded r0 bundle0 := by decide +kernel

/-! ## Witnesses: power, start-up and the board -/

/-- The package at reset, which has no power, holds good images. -/
theorem witness_PowerRise : State.reset.dev.board.pwrOk = false ∧ flashKeyOf State.reset.dev = State.reset.dev.flash.counterKey
    ∧ (dieFact State.reset.dev 0).fitted = true := by decide +kernel
theorem witness_Images : ∀ e ∈ [(1, Flash.reset.mgrA), (2, Flash.reset.dieA), (3, Flash.reset.stubA), (4, Flash.reset.buildRecord), (5, Flash.reset.envelope)],
    imageOk State.reset.dev e.1 e.2 = true := by decide +kernel
def recovering : Dev := { up with board := { up.board with bootStep := 1, recovery := true } }
theorem witness_Recovery : up.board.pwrOk = true ∧ Steady recovering ∧ recovering.board.recovery = true
    ∧ imageOk recovering 1 Flash.reset.mgrA = true := by decide +kernel
def calmUp : Dev := calm up [pgDie 3, pgCluster 3 15, pgOpt 12]
theorem witness_ClockLoss : Steady calmUp ∧ dieUp calmUp 3 = true ∧ calmUp.board.fencing = [] ∧ Calm calmUp (pgDie 3) ∧ Calm calmUp (pgCluster 3 15)
    ∧ ownState calmUp (pgCluster 3 15) = stRunning ∧ ownState calmUp (pgDie 3) = stRunning := by decide +kernel
theorem witness_Halts : Steady up ∧ (1 : W32).getLsbD 0 = true ∧ Reaches up (.firmware 0 0) (pgBase + 0xF04) := by decide +kernel
theorem witness_PackageHalt : (pageAt (HaltCause.mk 0x2000 0x103).page.toNat).isSome = true := by decide +kernel
def checked : Dev := regs up [(pgSeal + 0x800, 5)]
theorem witness_Remeasure : Steady checked ∧ dieUp checked 0 = true ∧ (1 : Digest) ≠ checked.sealU.dieDigest
    ∧ rfld checked (pgSeal + 0x800) 0 8 ≠ 0 := by decide +kernel
/-- Step 3 of the start-up: no die is released yet. -/
def step3 : Dev :=
  { Dev.reset with board := { Board.reset with pwrOk := true, bootStep := 3 }, sealU := { SealUnit.reset with aliasHeld := true } }
theorem witness_DieRelease : Quiescent step3 ∧ released step3 3 = false ∧ bvBit step3.board.ready 3 = false ∧ dieDead step3 3 = false
    ∧ (dieFact step3 3).strapSite.toNat = 3 ∧ (dieFact step3 3).strapRot = (dieFact step3 3).strapSite
    ∧ (step3.flash.build.sites[3]?).map (·.uid) = some (dieFact step3 3).uid := by decide +kernel
/-- All dies are released, and some report ready. -/
def step3r (ready : BitVec 4) : Dev := { step3 with board := { step3.board with released := 15, ready := ready } }
theorem witness_FirstReady : Quiescent (step3r 0) ∧ (step3r 0).board.bootStep = 3 ∧ dieUp (step3r 0) 0 = true ∧ bvBit (step3r 0).board.ready 0 = false
    ∧ (∃ x, x < 4 ∧ x ≠ 0 ∧ dieDead (step3r 0) x = false ∧ bvBit (step3r 0).board.ready x = false) :=
  ⟨by decide +kernel, by decide +kernel, by decide +kernel, by decide +kernel, 1, by decide +kernel⟩
theorem witness_StubOk : imageOk (step3r 0) 3 (stubSlot (step3r 0)) = true ∧ imageOk (step3r 7) 3 (stubSlot (step3r 7)) = true := by decide +kernel
theorem witness_LastReady : Quiescent (step3r 7) ∧ (step3r 7).board.bootStep = 3 ∧ (step3r 7).board.service = false ∧ dieUp (step3r 7) 3 = true
    ∧ bvBit (step3r 7).board.ready 3 = false ∧ (∀ x, x < 4 → dieDead (step3r 7) x = true ∨ x = 3 ∨ bvBit (step3r 7).board.ready x = true)
    ∧ (∀ x, x < 4 → ownState (step3r 15) (pgD2d x 0) = stOff) := by decide +kernel
/-- Step 6: stack 1 of site 0 trains. -/
def training : Dev :=
  setCtrl (setState { calm up [pgHbmc 0 1] with board := { up.board with bootStep := 6, trainNext := 1 }
                                                sealU := { SealUnit.reset with flashKey := some Delivered.counterKey } } (pgHbmc 0 1) stStarting) (pgHbmc 0 1) 1
theorem witness_Stack : Quiescent training ∧ training.sealU.flashKey = some training.flash.counterKey ∧ dieUp training 0 = true
    ∧ training.board.bootStep = 6 ∧ Calm training (pgHbmc 0 1) ∧ training.board.fencing = [] ∧ training.board.trainNext = 1 ∧ ownState training (pgHbmc 0 1) = stStarting
    ∧ tbit (pageCtrl training (pgHbmc 0 1)) 0 = true ∧ ownState training (pgHbmc 0 2) = stOff := by decide +kernel
/-- The flash key is held, and port 47 runs already. -/
def groupUp : Dev := { setState up (pgPort 3 11) stRunning with sealU := { SealUnit.reset with flashKey := some Delivered.counterKey } }
theorem witness_Ports : Quiescent groupUp ∧ groupUp.sealU.flashKey = some groupUp.flash.counterKey ∧ groupUp.board.bootStep = 9
    ∧ groupUp.board.service = false ∧ dieUp groupUp (siteOfPort 48) = true ∧ ownState groupUp (pgOfPort 48) = stOff
    ∧ laserGood groupUp (laserOf 48) = true ∧ (getPort groupUp 48).eligible = true ∧ ownState groupUp (pgOfPort 47) ≠ stOff := by decide +kernel
def haltedUp : Dev := { up with board := { up.board with halted := true } }
theorem witness_Smbus : Steady up ∧ haltedUp.board.pwrOk = true ∧ haltedUp.board.halted = true ∧ haltedUp.board.haltReq = none
    ∧ haltedUp.board.fences = [] := by decide +kernel
theorem witness_Lasers : Steady calmUp ∧ 0 < rfld calmUp (pgOpt 12 + 0x800) 0 8 ∧ laserGood calmUp 15 = true ∧ Calm calmUp (pgOpt 12)
    ∧ (∀ n ∈ laserPorts 15, linkState calmUp n ≤ 1) ∧ calmUp.board.optics = true
    ∧ ∀ k, k < 4 → rfld calmUp (pgOpt 12 + 0x800) 0 8 + 10 ≤ fld 0xFFFFFFFF (8 * k) 8 := by decide +kernel

/-! ## Witnesses: the host link -/

/-- The host link at 32 GT/s on eight lanes with its BARs open, and no escalation window on HOSTLINK. -/
def linked : Dev := { regs up [(linkStat, 5 + 16 * 8), (pgHost + oEscWindow, 0)] with cfg := [(4, 6)] }
theorem witness_HostLink : Steady linked ∧ linked.board.perstN = true ∧ linkUp linked = true ∧ rfld linked linkStat 4 4 = 8 ∧ Calm linked pgHost
    ∧ (∀ ch, ch < 8 → (getHdma linked ch).cur = none) ∧ linked.board.halves = 3 ∧ (∀ h, halfGood linked h = true)
    ∧ laserGood linked 4 = true ∧ laserGood linked 5 = true := by decide +kernel
/-- The link runs at ×4 on its lower half, and the upper half cannot train. -/
def linked4 : Dev := { regs up [(linkStat, 5 + 16 * 4), (pgHost + oEscWindow, 0)] with board := { up.board with halves := 1 } }
theorem witness_HalfLink : Steady linked4 ∧ linkUp linked4 = true ∧ rfld linked4 linkStat 4 4 = 4 ∧ tbit (regN linked4 linkStat) 8 = false
    ∧ halfGood linked4 true = false ∧ halfGood linked4 false = true ∧ Calm linked4 pgHost := by decide +kernel
def early : Dev := { linked with board := { linked.board with bootStep := 2 } }
theorem witness_Config : Steady early ∧ linkUp early = true ∧ early.board.bootStep < 5 ∧ 5 ≤ linked.board.bootStep := by decide +kernel
/-- Mailbox entry 63 opens 64 KiB at BAR2 offset 0 onto core memory for reads and writes. -/
def mailed : Dev := regs linked [(pgHost + 0x800 + 0x3F0, 0), (pgHost + 0x804 + 0x3F0, 1), (pgHost + 0x808 + 0x3F0, 0xF04000), (pgHost + 0x80C + 0x3F0, 3)]
theorem witness_Bar2 : Steady mailed ∧ barsOpen mailed = true ∧ mailboxAt mailed 0xFFFC 4 = some (63, 0xF04000FFFC) ∧ mayRead mailed 63 = true
    ∧ mayWrite mailed 63 = true ∧ presentRange mailed 0xF04000FFFC 4 = true ∧ mailboxAt mailed 0xFFFD 4 = none
    ∧ fillBlocked mailed 0xF04000FFFC 4 = false
    ∧ memRead mailed 0xF04000FFFC 4 = ([0, 0, 0, 0], false, mailed) := by decide +kernel
/-- The same entry over addresses of no die. -/
def mailedOut : Dev := setRegN mailed (pgHost + 0x808 + 0x3F0) 0xF40000
theorem witness_Bar2Absent : Steady mailedOut ∧ barsOpen mailedOut = true ∧ mailboxAt mailedOut 0 4 = some (63, 0xF400000000)
    ∧ mayRead mailedOut 63 = true ∧ presentRange mailedOut 0xF400000000 4 = false ∧ fillBlocked mailedOut 0xF400000000 4 = false := by decide +kernel
theorem witness_OpenMemory : OpenMemory mailed 0xF04000FFFC 4 :=
  ⟨0, 0, by decide, by decide, by decide +kernel, by decide, by decide, words_clean rfl _ _, by decide +kernel⟩
def errorOf (d : Dev) : Dev := regs d [(pgMgr + oErrStat, 2)]
theorem witness_IrqRise : Steady (errorOf up) ∧ lineHigh (errorOf up) pgMgr = true ∧ sget noFlag (errorOf up).lines pgMgr = false
    ∧ (pageAt pgMgr).any (·.inBase) = true := by decide +kernel
def pendingMsix : Dev := { linked with cfg := [(4, 6), (10, 0x8000)], pba := [(1023, true)] }
theorem witness_Unmask : Steady pendingMsix ∧ barsOpen pendingMsix = true ∧ tbit (cfgReg pendingMsix cfgMsix) 15 = true
    ∧ tbit (cfgReg pendingMsix cfgMsix) 14 = false ∧ tbit (cfgReg pendingMsix cfgCommand) 2 = true := by decide +kernel
theorem witness_Rings : Steady linked ∧ (∀ off ∈ ([0xF08, 0xF0C, 0xF1C, 0xF24] : List Nat), Reaches linked .host (pgHost + off))
    ∧ ringsBusy linked = false := by decide +kernel
/-- A command waits in a ring of four. -/
def asked : Dev := regs linked [(pgHost + 0xF08, 4), (pgHost + 0xF0C, 1)]
theorem witness_BadOpcode : Steady asked ∧ cmdReady asked = true ∧ 0 ∉ opcodes := by decide +kernel
def answers : Dev := { regs asked [(pgHost + 0xF1C, 2), (pgHost + 0xF20, 1), (pgHost + 0xF24, 1)] with resp := [⟨7, 0, 1, 0, 0, 0x1000, [1]⟩] }
theorem witness_Response : Steady answers ∧ regN answers (pgHost + 0xF1C) ≠ 0 ∧ regN answers (pgHost + 0xF08) ≠ 0
    ∧ (regN answers (pgHost + 0xF20) + 1) % regN answers (pgHost + 0xF1C) ≠ regN answers (pgHost + 0xF24) := by decide +kernel
theorem witness_Doorbells : Steady linked ∧ Reaches linked .host (pgHost + 0xF40 + 60) ∧ Reaches linked (.job 0 0) (pgHost + 0xF80 + 60)
    ∧ Reaches linked .host (pgHost + 0xF80 + 60) ∧ linked.fillWait = [] ∧ isJob (.job 0 0) = true ∧ isJob .host = false := by decide +kernel
def toHost : HdmaDesc := ⟨0, 0xF040000000, 64, true, false, 0, true, 0, 0, false⟩
def toDevice : HdmaDesc := { toHost with toHost := false }
def hdma (x : Option HdmaDesc) : Dev :=
  { regs linked [(chReg 7 0x08, 4), (chReg 7 0x14, 1), (pgHdma + 0x800 + 28, 1)] with hdma := [(7, ⟨x, 0, false, false⟩)] }
theorem witness_HdmaStart : Steady (hdma none) ∧ Reaches (hdma none) .host (chReg 7 0x14) ∧ (getHdma (hdma none) 7).fenced = false
    ∧ regN (hdma none) (chReg 7 0x18) ≠ regN (hdma none) (chReg 7 0x14) ∧ rfld (hdma none) (pgHdma + 0x800 + 28) 0 4 ≠ 0
    ∧ linkUp (hdma none) = true ∧ Machine.running (hdma none) pgHdma = true
    ∧ Reaches linked .host (chReg 7 0x08) ∧ regN linked (chReg 7 0x18) = regN linked (chReg 7 0x14) := by decide +kernel
theorem witness_HdmaDone : Steady (hdma (some toHost)) ∧ (getHdma (hdma (some toHost)) 7).cur = some toHost
    ∧ oneDie toHost.ppa.toNat 64 = true ∧ hdmaRegion (hdma (some toHost)) toHost = true ∧ regN (hdma (some toHost)) (chReg 7 0x08) ≠ 0
    ∧ presentRange (hdma (some toHost)) 0xF040000000 64 = true ∧ fillBlocked (hdma (some toHost)) 0xF040000000 64 = false := by decide +kernel
theorem witness_HdmaRead : memRead (hdma (some toHost)) 0xF040000000 64 = (List.replicate 64 0, false, hdma (some toHost)) := by decide +kernel
theorem witness_HdmaWrite : Steady (hdma (some toDevice)) ∧ (getHdma (hdma (some toDevice)) 7).cur = some toDevice
    ∧ hdmaRegion (hdma (some toDevice)) toDevice = true := by decide +kernel
theorem witness_HdmaOpen : OpenMemory (hdma (some toDevice)) 0xF040000000 64 :=
  ⟨0, 0, by decide, by decide, by decide +kernel, by decide, by decide, words_clean rfl _ _, by decide +kernel⟩

/-! ## Witnesses: the job -/

/-- A command waits in the ring and the job is in a state. -/
def job (n : Nat) : Dev := regs up [(pgHost + 0xF08, 4), (pgHost + 0xF0C, 1), (jobStatReg, n)]
theorem witness_Commands : (∀ n, n < 5 → Steady (job n) ∧ (cmdReady (job n) = true ↔ n ≠ 4) ∧ jobState (job n) = n) := by decide +kernel
/-- A job image for the package of `job`: one wrap entry, one program of two bytes. -/
def sealedImage : List Byte :=
  bytesOf 64 0x43544A4901000000010000000100000020000000000000000102030405060708090A0B0C00000000000000000000000000000000000000000000000000000000
  ++ bytesOf 64 0x1EF4CAA5070A4C3AE8099F30F3D56925D73A7E930E3CD3C6D98AAC6AA9E2C792C524E5BF6EA0CE1CEF9589C08BE02A00D5F6B456ADEEB5391A92BA6CFC3D5F14
  ++ bytesOf 64 0x09000000000000000000000000000000000000000000000000000000000000000000000000000000000000000000000000000000000000000000000000000000
  ++ bytesOf 64 0x37231D911F9017B110C6D046E321DEDCC72761BE1BBF16159F679FFD98183A690500000000000000000000000000000004BEDB84CF8755219ACADB5B7D09C340
  ++ bytesOf 64 0x3DD2DE5B9FDFCE3B90E2D16E9078832B9245DDA993D6CC45D0A5F6CE790B6D322C97D4C47A2C3703B02E009886D3688B7586D2E5BFDE54EF06C5391E4A98A4AF
  ++ bytesOf 64 0x859FABE018D3778352D23FB1EB896CE0903D17028E22EAD8948EDB6EF160A4EA910000000000000000000000000000008C61A0A61DC628542A02263C72C52820
  ++ bytesOf 64 0xCC37AD3024B7A60758D3DAB3493E387575A325868847F6E8361B32C9AC1B827934C30ACF414AD2BBF8EF57BF1BC571E0EDE6AD6496A528C47DFF53A77805EA67
  ++ bytesOf 32 0xBFC33A4F388B7434C5277DDBCE0243EED491CB030B81664592A6130B9CB2282D
/-- The image is loaded, and every die has been measured as it was at start. -/
def loaded : Dev := { job 1 with job := { Job.reset with image := some sealedImage, tableApplied := true } }
def measured : List (Site × Digest × Digest) := [(0, 0, 0), (1, 0, 0), (2, 0, 0), (3, 0, 0)]
theorem witness_Seal : Steady loaded ∧ cmdReady loaded = true ∧ jobState loaded = 1 ∧ loaded.board.service = false ∧ debugMode loaded = false
    ∧ (∀ x : Site, dieUp loaded x.val = true → ∃ m ∈ measured, m.1 = x)
    ∧ (∀ m ∈ measured, dieUp loaded m.1.val = true → m.2.1 = loaded.sealU.dieDigest ∧ m.2.2 = loaded.sealU.stubDigest)
    ∧ pageIdle loaded pgHost = true := by
  refine ⟨by decide +kernel, by decide +kernel, by decide +kernel, by decide +kernel, by decide +kernel, by decide +kernel, ?_, by decide +kernel⟩
  simp only [measured, List.forall_mem_cons]
  exact ⟨fun _ => ⟨rfl, rfl⟩, fun _ => ⟨rfl, rfl⟩, fun _ => ⟨rfl, rfl⟩, fun _ => ⟨rfl, rfl⟩, by simp⟩
/-- The image passes every check: its key and package ID are those of its wrap entry, and its plan installs. -/
theorem witness_Sealed : (match sealCheck loaded sealedImage with
    | .ok (key, own, x) => key == 77 && own == 5 && (imgPairs x).isEmpty && (sealInstall loaded 0 x).1
        && decide ((sealInstall loaded 0 x).2.board = loaded.board)
    | .error _ => false) = true := by decide +kernel
/-- An image without the magic number fails. -/
theorem witness_SealFails : (match sealCheck loaded (0 :: sealedImage.tail) with | .error e => e == scAuthFail | .ok _ => false) = true := by decide +kernel
theorem witness_Start : Steady (job 2) ∧ jobState (job 2) = 2 ∧ (job 2).job.twinMode = false := by decide +kernel
theorem witness_StartSignal : Steady (job 3) ∧ dieUp (job 3) 0 = true ∧ bvBit (job 3).job.signalled 0 = false
    ∧ (∀ t, t < 0 → dieUp (job 3) t = true → bvBit (job 3).job.signalled t = true) := by decide +kernel
theorem witness_ClusterStart : (∀ k n, 120 ≤ k → k < 128 → n < 16 → (getCtx (job 3) (ctxKey 0 k n)).d = [])
    ∧ ∀ k, k < 128 → 120 ≤ k → Machine.running (job 3) (pgCore 0 k) = true := by
  refine ⟨fun _ _ _ _ _ => rfl, by decide +kernel⟩
/-- A running job with a key, whose checkpoint region is the first 64 KiB of core memory; die 0 is asked for its state. -/
def ckpt : Dev :=
  { job 3 with job := { Job.reset with key := some 7, ckptBase := 0xF040000000, ckptLen := 65536, ckptWanted := 1, restoreNo := 4 } }
/-- Segment 4 of the job with key 7, three bytes. -/
def segBytes : List Byte :=
  bytesOf 64 0x4354435000000000040000000000000000000000000000000000000000000000030000000102030405060708090A0B0C00000000000000000000000000000000
  ++ bytesOf 19 0x2F98E3B9957973D85F4AC676BE917A508862DA
theorem witness_Segment : (match segOpen 7 ckpt.job.jobId segBytes with | some p => p == [1, 2, 3] | none => false) = true
    ∧ segNumber segBytes = ckpt.job.restoreNo.toNat ∧ segOpen 7 ckpt.job.jobId [] = none ∧ segNumber [] ≠ ckpt.job.restoreNo.toNat := by decide +kernel
theorem witness_Checkpoint : Steady ckpt ∧ cmdReady ckpt = true ∧ jobState ckpt = 3 ∧ bvBit ckpt.job.ckptWanted 0 = true ∧ dieUp ckpt 0 = true
    ∧ ckptFits ckpt [(0xF040100000, 64, 0xF040000000)] = true ∧ sealedJob ckpt = true ∧ ckpt.job.key.isSome = true := by decide +kernel
theorem witness_CkptSource : OpenMemory ckpt 0xF040100000 64 ∧ ReadsClean ckpt 0xF040100000 64 :=
  ⟨⟨0, 0, by decide, by decide, by decide +kernel, by decide, by decide, words_clean rfl _ _, by decide +kernel⟩, reads_clean rfl rfl rfl _ _⟩
theorem witness_CkptTarget : OpenMemory ckpt 0xF040000000 0x10000 :=
  ⟨0, 0, by decide, by decide, by decide +kernel, by decide, by decide, words_clean rfl _ _, by decide +kernel⟩
theorem witness_QuietJob : QuietJob (job 2) := by
  refine ⟨by decide +kernel, fun _ _ => ⟨rfl, rfl⟩⟩
theorem witness_End : Steady { job 4 with job := { Job.reset with endTag := some 7 } } := by decide +kernel
/-- A proposal of 750 mV and 2.4 GHz for every cluster over generation `gen`. -/
def table (gen : Nat) : List Byte :=
  toBytes 4 0x54504F43 ++ toBytes 4 gen ++ toBytes 8 1 ++ List.replicate 48 0 ++ (List.replicate 64 [0xEE, 2, 48, 0, 0, 0, 0, 0]).flatten
theorem witness_Proposals : tableReason (job 2) (tableOf (table 0)) = 0 ∧ tableReason (job 2) (tableOf (table 9)) ≠ 0
    ∧ tableReason (job 2) (tableOf []) ≠ 0 ∧ Steady (job 2) ∧ cmdReady (job 2) = true ∧ 2 ≤ jobState (job 2) := by decide +kernel
/-- A debug token of epoch 1 for this DeviceID, with features 4. -/
def tokenBytes : List Byte :=
  bytesOf 64 0x4447544B010000000400000000000000010000000000000000000000000000006FB6463BF3433B9F1889C328A31E64C31A0F4197701E7509AE67FB251202FCC9
  ++ bytesOf 64 0x6483C2EE911B8BFF09E5F8E55E8DA93FA05CB4696CB1DEC89917486B0C996E84B60A3C0E3465A70CF99E756F90A3C28CC1CA78E3A9C217F94B78BDDB0C0C9338
  ++ bytesOf 64 0xCBE3B9D9365EE1DF637C0B0A76CD014CDD114A4D8C38F8504016790DBF7F3EACF25DDCAF84FA9A5FF502DF0D51ABB436028445872A120C8D3705B41F406C2B69
  ++ bytesOf 64 0x08A3EE5029F4C5F6BC7CA1E5ABF23885BECC2C617D05AE427A9E224620C70A67EAAB69295980412BABA284B1D12741C427962538BAEDD419F76F97F6303854F2
/-- The package of `job 0` with its flash key. -/
def tokened : Dev := { job 0 with sealU := { SealUnit.reset with flashKey := some Delivered.counterKey } }
theorem witness_TokenRefused : tokenOk tokened (0 :: tokenBytes.tail) = false := by decide +kernel
theorem witness_TokenOk : tokenOk tokened tokenBytes = true ∧ tokened.sealU.flashKey = some tokened.flash.counterKey := by decide +kernel
theorem witness_Token : Steady tokened ∧ cmdReady tokened = true ∧ jobState tokened = 0
    ∧ ∀ n, n < 50 → linkState tokened n = 0 ∨ linkState tokened n = 9 := by decide +kernel
def twin (n : Nat) : Dev := setTwinState (job 3) n
theorem witness_TwinControl : Steady (twin 2) ∧ cmdReady (twin 2) = true ∧ twinState (twin 2) = 2 ∧ Steady (twin 7) ∧ twinState (twin 7) = 7
    ∧ lastStep (twin 7) < (1 : W64).toNat ∧ Steady (twin 9) ∧ twinState (twin 9) = 9 := by decide +kernel
/-! ## Witnesses: registers -/

theorem witness_AbsentPages : Steady up ∧ NoPage (pgTwin 1) ∧ NoPage 0x7FFFFFC ∧ Reaches up (.firmware 0 0) 0x7FFFFFC := by decide +kernel
theorem witness_RegisterWrites : Steady up ∧ up.hiHeld = [] ∧ Reaches up (.firmware 0 0) (pgSorter 3 + 0x7FC) ∧ Reaches up (.firmware 0 0) (pgSorter 3 + 0x800)
    ∧ Reaches up (.firmware 0 0) (pgSorter 3 + 0x100) ∧ (pageAt (pgSorter 3 + 0x7FC)).isSome = true ∧ pageAt 0x17FFFC = none ∧ sealedJob up = false
    ∧ Reaches up (.firmware 0 0) 0x17FFFC := by decide +kernel
/-- The host link is up and its BARs are open. -/
def linked16 : Dev := { regs up [(linkStat, 0x85)] with cfg := [(4, 6)] }
theorem witness_LoRead : Steady linked16 ∧ (pageAt (pgHost + 0xF00)).any (fun l => isLo l 0xF00) = true ∧ barsOpen linked16 = true := by
  decide +kernel
theorem witness_HiWrite : Reaches linked16 .host (pgHost + 0xF04) ∧ (pageAt (pgHost + 0xF04)).any (fun l => isHi l 0xF04) = true := by
  decide +kernel
def holding : Dev := { linked16 with hiHeld := [((.host, pgHost + 0xF04), 5)] }
theorem witness_Pair : Steady holding ∧ Reaches holding .host (pgHost + 0xF00) ∧ ringsBusy holding = false
    ∧ assocGet holding.hiHeld .host (pgHost + 0xF04) = some 5 := by decide +kernel
/-- A TRACE page in a state with this CTRL. -/
def traceIn (s c : Nat) : Dev := setCtrl (setState up (pgTrace 3) s) (pgTrace 3) c
theorem witness_Off : Steady (traceIn stOff 0) ∧ (pageAt (pgTrace 3)).any (fun l => !l.inBase && decide (l.typ ∈ plainBlock)) = true
    ∧ pageCtrl (traceIn stOff 0) (pgTrace 3) < 8 ∧ ownState (traceIn stOff 0) (pgTrace 3) = stOff
    ∧ Reaches (traceIn stOff 0) (.firmware 0 0) (pgTrace 3 + oCtrl) := by decide +kernel
theorem witness_Running : Steady (traceIn stRunning 1) ∧ ownState (traceIn stRunning 1) (pgTrace 3) = stRunning
    ∧ Reaches (traceIn stRunning 1) (.firmware 0 0) (pgTrace 3 + oCtrl) := by decide +kernel
theorem witness_Starting : Steady (traceIn stStarting 1) ∧ ownState (traceIn stStarting 1) (pgTrace 3) = stStarting
    ∧ dieUp (traceIn stStarting 1) 3 = true ∧ tbit (pageCtrl (traceIn stStarting 1) (pgTrace 3)) 0 = true := by decide +kernel
theorem witness_Draining : Steady (traceIn stDraining 0) ∧ ownState (traceIn stDraining 0) (pgTrace 3) = stDraining
    ∧ fenceReqd (traceIn stDraining 0) (pgTrace 3) = false ∧ commitPending (traceIn stDraining 0) (pgTrace 3) = false
    ∧ tbit (pageCtrl (traceIn stDraining 0) (pgTrace 3)) 0 = false := by decide +kernel
theorem witness_SoftReset : Steady (traceIn stRunning 1) ∧ ownState (traceIn stRunning 1) (pgTrace 3) ≠ stFenced
    ∧ ownState (traceIn stRunning 1) (pgTrace 3) ≠ stDraining := by decide +kernel
theorem witness_ErrorRegs : Steady up ∧ Reaches up (.firmware 0 0) (pgHbmc 3 2 + oErrStat) ∧ Reaches up (.firmware 0 0) (pgHbmc 3 2 + oInject)
    ∧ (pageAt (pgHbmc 3 2)).any (fun l => (capBits l).1 && decide (fld (0x30001 : W32).toNat 17 3 ≤ topPoint l.typ)) = true := by decide +kernel
def locPmc : PageLoc := ⟨.pmc, false, 0, 0⟩
def pmcAsk : PendingCommit := ⟨.firmware 0 0, shadowCopy up (pgPmc 0), 0⟩
def pmcAsked : Dev := setRegN { up with commits := [(pgPmc 0, some pmcAsk)] } (pgPmc 0 + oCommitStat) (setFld (setBit (regN up (pgPmc 0 + oCommitStat)) 3 true) 4 12 0)
theorem witness_Commit : Steady up ∧ pageAt (pgPmc 0) = some locPmc ∧ Reaches up (.firmware 0 0) (pgPmc 0 + oCommit) ∧ commitPending up (pgPmc 0) = false
    ∧ (capBits locPmc).2.1 = true ∧ ownState up (pgPmc 0) ≠ stOff := by decide +kernel
theorem witness_CommitChecks : (pageChecks pmcAsked locPmc (pendVal pmcAsked locPmc pmcAsk (pgPmc 0))).all (fun c => !c.1) = true
    ∧ reservedSet pmcAsked locPmc pmcAsk (pgPmc 0) = [] ∧ envelopeBad pmcAsked locPmc (pendVal pmcAsked locPmc pmcAsk (pgPmc 0)) = []
    ∧ commitForbidden pmcAsked locPmc (pgPmc 0) pmcAsk = false := by decide +kernel
/-- A reserved bit is set in the shadow of PMC. -/
def pmcBad : Dev := regs up [(pgPmc 0 + 0x104, 0x80000000)]
theorem witness_CommitReserved : Steady pmcBad ∧ reservedSet pmcBad locPmc ⟨.firmware 0 0, shadowCopy pmcBad (pgPmc 0), 0⟩ (pgPmc 0) ≠ [] := by decide +kernel
theorem witness_SafePoint : Steady pmcAsked ∧ sget noCommit pmcAsked.commits (pgPmc 0) = some pmcAsk ∧ ownState pmcAsked (pgPmc 0) ≠ stDraining
    ∧ atSafePoint pmcAsked locPmc = true := by decide +kernel
def looping : Dev := regs up [(pgDie 3 + 0x820, 1)]
theorem witness_Loopback : Steady looping ∧ tbit (regN looping (pgDie 3 + 0x820)) 0 = true := by decide +kernel

/-! ## Witnesses: power, filler, droop and temperature -/

def core7 : CoreRef := ⟨3, 127⟩
/-- The four arrays of a core in the four states that an event of R79 ends. -/
def fillers : Dev :=
  putCore up (keyOf core7) { getCore up (keyOf core7) with filler := [(0, .filler), (1, .rampDown), (2, .rampUp)] }
theorem witness_Filler : Steady fillers ∧ fillerOf (getCore fillers (keyOf core7)) 0 = .filler ∧ fillerOf (getCore fillers (keyOf core7)) 1 = .rampDown
    ∧ fillerOf (getCore fillers (keyOf core7)) 2 = .rampUp := by decide +kernel
theorem witness_Duty : ∀ site, site < 4 → dieUp up site = true ∧ ownState up (pgPmc site) = stRunning ∧ commitPending up (pgPmc site) = false := by
  decide +kernel
theorem witness_Limit : Steady up ∧ Reaches up .board (pgBase + 0xF00) ∧ Reaches up (.firmware 0 0) (pgBase + 0xF00)
    ∧ pkgMinW up ≤ pkgMaxW up ∧ pkgMaxW up % 10 = 0 ∧ isFirmware (.firmware 0 0) = true ∧ isFirmware .host = false := by decide +kernel
def drooped : Dev := setHalved (calm up [pgPmc 3]) 3 15 true
theorem witness_Droop : Steady drooped ∧ clusterLive up 3 15 = true ∧ clockHalved up 3 15 = false ∧ clockHalved drooped 3 15 = true
    ∧ clusterLive drooped 3 15 = true ∧ Calm drooped (pgPmc 3) := by decide +kernel
/-- The bounds of the three ranges of a reading do not meet. -/
theorem witness_Temperature : (∀ c, 0 < alertLimit up (.cluster 3 c) ∧ alertLimit up (.cluster 3 c) < 16 * 105)
    ∧ (∀ i, 0 < alertLimit up (.stack i) ∧ alertLimit up (.stack i) < 16 * 105)
    ∧ (∀ i, 0 < alertLimit up (.base i) ∧ alertLimit up (.base i) < 16 * 105) ∧ up.commits = [] := by decide +kernel

/-! ## Witnesses: memory -/

/-- Site 3 is not released: its addresses name nothing. -/
def up3 : Dev := { up with board := { up.board with released := 7 } }
/-- The last stack of site 3 is fenced. -/
def less : Dev := setState up (pgHbmc 3 2) stFenced
def calmMem : Dev := calm up [pgHbmc 3 2, pgCore 3 127, pgCluster 3 15]
def quiet : Disturb := ⟨[], 0⟩
/-- The 32-byte word at the top of the memory of site 3. -/
def gTop : Nat := 0xEFFFFFFFE0 / 32
theorem witness_HbmAbsent : Steady up3 ∧ locate up3 0xEFFFFFFFE0 = .absent ∧ Steady less ∧ locate less 0xEFFFFFFFE0 = .absent := by decide +kernel
theorem witness_HbmTop : Steady calmMem ∧ locate calmMem (32 * gTop) = .hbm 3 2 (stackBytes - 32) ∧ NotArmed calmMem (pgHbmc 3 2)
    ∧ Calm calmMem (pgHbmc 3 2) ∧ bvBit calmMem.filling 3 = false ∧ poisonedG calmMem gTop = false := by decide +kernel
theorem witness_MayReach : (∀ who ∈ [MemAgent.manager, .hdma, .postmaster 3 7, .die 3], ∀ w, MayReach calmMem who (32 * gTop) 32 w)
    ∧ (∀ who ∈ [MemAgent.manager, .postmaster 3 7], MayReach up3 who 0xEFFFFFFFFF 1 true ∧ MayReach up3 who (32 * gTop) 32 false)
    ∧ agentMay up .host (32 * gTop) 32 false = false ∧ codeHitRange up3 0xEFFFFFFFFF 1 = none := by decide +kernel
theorem witness_OnPostmaster : OnPostmaster (.postmaster 3 7) ∧ ¬ OnPostmaster .manager := ⟨⟨3, 7, rfl⟩, fun ⟨_, _, h⟩ => by cases h⟩
theorem witness_HbmReads : tagOnes (disturb calmMem gTop ⟨[], 0x1FF⟩) gTop = 9
    ∧ symbolsWrong (disturb calmMem gTop quiet) gTop = 0 ∧ sget noTag (disturb calmMem gTop quiet).hbmTag gTop = 0
    ∧ symbolsWrong (disturb calmMem gTop ⟨[(18, 1)], 0⟩) gTop = 1 ∧ tagOnes (disturb calmMem gTop ⟨[(18, 1)], 0⟩) gTop = 0
    ∧ symbolsWrong (disturb calmMem gTop ⟨[], 0xFF⟩) gTop = 0 ∧ tagOnes (disturb calmMem gTop ⟨[], 0xFF⟩) gTop = 8
    ∧ symbolsWrong (disturb calmMem gTop ⟨[(0, 1), (18, 1)], 0⟩) gTop = 2 := by decide +kernel
theorem witness_HbmWrites : locate up 0xEFFFFFFFFF = .hbm 3 2 (stackBytes - 1) ∧ locate up (32 * gTop) = .hbm 3 2 (stackBytes - 32)
    ∧ 0xEFFFFFFFFF % 32 + [(7 : Byte)].length ≤ 32 ∧ symbolsWrong up gTop = 0 ∧ sget noTag up.hbmTag gTop = 0 ∧ NotArmed up (pgHbmc 3 2)
    ∧ ownerDie 0xEFFFFFFFE0 = some 3 ∧ dieUp up3 3 = false ∧ dieUp less 3 = true := by decide +kernel
theorem witness_NoOwner : locate up 0xF400000000 = .absent ∧ ownerDie 0xF400000000 = none := by decide +kernel
theorem witness_Sram : SramOf calmMem (coreMemBase 3 127 + 0x17FFF8) (pgCore 3 127) 0x109 0x10A ∧ NotArmed calmMem (pgCore 3 127)
    ∧ Calm calmMem (pgCore 3 127) ∧ SramOf calmMem (windowBase 3 + 0x1F7FFFF8) (pgCluster 3 15) 0x100 0x101
    ∧ NotArmed calmMem (pgCluster 3 15) ∧ Calm calmMem (pgCluster 3 15) := by decide +kernel
theorem witness_SramFlips : popc (0 : BitVec 72).toNat 72 = 0 ∧ popc (BitVec.ofNat 72 (2 ^ 71)).toNat 72 = 1
    ∧ popc (BitVec.ofNat 72 (2 ^ 71 + 1)).toNat 72 = 2 := by decide +kernel
theorem witness_SramWrite : codeHit calmMem (coreMemBase 3 127) = none ∧ codeHitRange calmMem (coreMemBase 3 127 + 31) 1 = none
    ∧ WordsClean calmMem (coreMemBase 3 127 + 31) 1 := ⟨by decide +kernel, by decide +kernel, words_clean rfl _ _⟩
/-- A context of core 0 runs code in its first two bundles. -/
def coding : Dev := regs live [(pgCore 0 0 + 0x80C, 2)]
theorem witness_CodeHit : codeHit coding (coreMemBase 0 0 + 96) = some (0, 0) ∧ codeHitRange coding (coreMemBase 0 0 + 127) 1 = some (0, 0)
    ∧ codeHit coding (coreMemBase 0 0 + 128) = none := by decide +kernel
def stackRuns : Dev := setState up (pgHbmc 3 2) stRunning
theorem witness_Scrub : Steady stackRuns ∧ scrubbing stackRuns 3 2 = true ∧ reg64 stackRuns (pgHbmc 3 2 + 0x834) = 0
    ∧ symbolsWrong (disturb stackRuns (hbmEncode 3 2 0 [0, 1, 2] / 32) quiet) (hbmEncode 3 2 0 [0, 1, 2] / 32) = 0 := by decide +kernel
/-- The last word of the pass. -/
def lastScrub : Dev := setReg64 stackRuns (pgHbmc 3 2 + 0x834) (stackBytes - 32)
theorem witness_ScrubEnd : Steady lastScrub ∧ scrubbing lastScrub 3 2 = true ∧ reg64 lastScrub (pgHbmc 3 2 + 0x834) + 32 = stackBytes
    ∧ hbmEncode 3 2 (stackBytes - 32) (dieStacks lastScrub 3) / 32 = gTop ∧ symbolsWrong (disturb lastScrub gTop quiet) gTop = 0
    ∧ sget noTag (disturb lastScrub gTop quiet).hbmTag gTop = 0 := by decide +kernel
theorem witness_ScrubNow : Reaches stackRuns (.firmware 0 0) (pgHbmc 3 2 + 0xF00) ∧ (1 : W32).getLsbD 0 = true ∧ ownState stackRuns (pgHbmc 3 2) = stRunning := by
  decide +kernel
def locHbmc : PageLoc := ⟨.hbmc, false, 3, 2⟩
def hbmcAsk : PendingCommit := ⟨.firmware 0 0, shadowCopy up (pgHbmc 3 2), 0⟩
def hbmcAsked : Dev := { stackRuns with commits := [(pgHbmc 3 2, some hbmcAsk)] }
theorem witness_Refresh : Steady hbmcAsked ∧ pageAt (pgHbmc 3 2) = some locHbmc ∧ sget noCommit hbmcAsked.commits (pgHbmc 3 2) = some hbmcAsk
    ∧ ownState hbmcAsked (pgHbmc 3 2) = stRunning := by decide +kernel
def fillWaits : Dev := { less with fillDue := 8 }
def filling3 : Dev := { less with filling := 8 }
theorem witness_Fill : Steady fillWaits ∧ bvBit fillWaits.fillDue 3 = true ∧ agentMay fillWaits .manager (32 * gTop) 32 false = true
    ∧ fillBlocked fillWaits (32 * gTop) 32 = true ∧ Steady filling3 ∧ bvBit filling3.filling 3 = true
    ∧ dieStacks filling3 3 = stacksLeft filling3 3 ∧ filling3.fillWait = [] ∧ (getSorter filling3 3).reorder = [] := by decide +kernel
/-- Replica words of site 0 are damaged. -/
def torn : Dev := { up with book := { up.book with damaged := [(replicaKey 0 255, true), (replicaKey 1 0, true)] } }
theorem witness_Replica : Steady torn ∧ (replicaKey 0 255, true) ∈ torn.book.damaged ∧ replicaKey 0 255 < replicaKey 1 0 := by decide +kernel

/-! ## Witnesses: fences -/

/-- The last core and the last cluster of the package; no escalation record can interfere. -/
def locCore : PageLoc := ⟨.core, false, 3, 127⟩
def locCluster : PageLoc := ⟨.cluster, false, 3, 15⟩
theorem witness_FenceAsked : Steady up ∧ pageAt (pgCore 3 127) = some locCore ∧ pageAt (pgCluster 3 15) = some locCluster
    ∧ ∀ a ∈ [pgCore 3 127, pgCluster 3 15], pageBase a = a ∧ ownState up a = stRunning ∧ up.board.fencing = []
      ∧ Reaches up (.firmware 0 0) (a + oCtrl) ∧ fenceReqd up a = false ∧ dieUp up 3 = true ∧ regN up (pgMgr + 0x820) / 16 = 0 := by decide +kernel
/-- A block on its way out. -/
def leavingTo (a n c : Nat) : Dev :=
  let d := setCtrl (setState up a n) a c
  { d with board := { d.board with fencing := [⟨.page a, a, 2⟩] } }
theorem witness_FenceDrains : ∀ a ∈ [pgCore 3 127, pgCluster 3 15], Steady (leavingTo a stDraining 4)
    ∧ ownState (leavingTo a stDraining 4) a = stDraining ∧ fenceReqd (leavingTo a stDraining 4) a = true
    ∧ twinState (leavingTo a stDraining 4) = twOff := by decide +kernel
theorem witness_FenceEnds : ∀ a ∈ [pgCore 3 127, pgCluster 3 15], Steady (leavingTo a stFenced 0)
    ∧ ownState (leavingTo a stFenced 0) a = stFenced ∧ (leavingTo a stFenced 0).board.fencing = [⟨.page a, a, 2⟩] := by decide +kernel

/-- CRC steps whose value is worked out at every step. -/
def forced (c : Nat) (f : Nat → Nat) : Nat := match c with | 0 => f 0 | n + 1 => f (n + 1)
theorem forced_eq (c : Nat) (f : Nat → Nat) : forced c f = f c := by cases c <;> rfl
def bitsF (poly : Nat) : Nat → Nat → Nat
  | 0, c => c
  | n + 1, c => forced (if c % 2 = 1 then c / 2 ^^^ poly else c / 2) (bitsF poly n)
theorem bitsF_eq (poly : Nat) : ∀ n c, bitsF poly n c = crcReflBits poly n c
  | 0, _ => rfl
  | n + 1, c => by unfold bitsF; rw [forced_eq, bitsF_eq poly n]; rfl
def foldF (poly : Nat) : List Byte → Nat → Nat
  | [], c => c
  | b :: l, c => forced (bitsF poly 8 (c ^^^ b.toNat)) (foldF poly l)
theorem foldF_eq (poly : Nat) : ∀ l c, foldF poly l c = l.foldl (fun c b => crcReflBits poly 8 (c ^^^ b.toNat)) c
  | [], _ => rfl
  | b :: l, c => by unfold foldF; rw [forced_eq, foldF_eq poly l, bitsF_eq]; rfl
theorem crc32c_forced (bs : List Byte) : crc32c bs = foldF 0x82F63B78 bs 0xFFFFFFFF ^^^ 0xFFFFFFFF := by rw [foldF_eq]; rfl

/-! ## Witnesses: die-to-die edges -/

def goodMod : Module := { moduleDefault 0 with live := true, mstate := 0 }
def edgePages : List Nat := [pgD2d 0 0, pgD2d 0 1, pgD2d 1 0, pgD2d 1 1, pgD2d 2 0, pgD2d 2 1, pgD2d 3 0, pgD2d 3 1]
/-- All 256 modules are in service and the eight edges run; their pages have no escalation window and their replay timer is on. -/
def meshed : Dev :=
  regs (edgePages.foldl (fun d a => setState d a stRunning) { calm up edgePages with mods := (List.range 256).map (fun k => (k, goodMod)) })
    (edgePages.map (fun a => (a + 0x800, 100)))
/-- The last module of site 3, edge B. -/
def m255 : ModRef := ⟨3, true, 31⟩
/-- A packet for site 3 of the package itself, and a flit that carries it whole. -/
def pkt3 : Packet := ⟨0x1800, 0x0800, 2, 0, 4, 0xF340000000, 7, 0, 0, [1, 2, 3, 4]⟩
def bytes3 : List Byte := pktBytes pkt3
def flitOf (h : W64) (body : List Byte) : D2dFlit := ⟨h, pad 244 body, BitVec.ofNat 32 (flitCrc h (pad 244 body))⟩
def hdrWhole : W64 := d2dHeader 0 0xFFF false false 0 false true true 36 0 0
def hdrPart : W64 := d2dHeader 0 0xFFF false false 0 false true false 36 0 0
def hdrLate : W64 := d2dHeader 9 0xFFF false false 0 false true true 36 0 0
def hdrIdle : W64 := d2dHeader 0 0xFFF false true 0 false false false 0 7 255
theorem witness_ModuleOpen : Steady meshed ∧ modRefKey m255 = 255 ∧ ModuleOpen meshed 255 ∧ edgeFree meshed 255 := by decide +kernel
theorem crcReflBits_lt (poly : Nat) (hp : poly < 2 ^ 32) : ∀ n c, c < 2 ^ 32 → crcReflBits poly n c < 2 ^ 32
  | 0, _, h => h
  | n + 1, c, h => by
    refine crcReflBits_lt poly hp n _ ?_
    split
    · exact Nat.xor_lt_two_pow (by omega) hp
    · omega
theorem crc32c_lt (bs : List Byte) : crc32c bs < 2 ^ 32 := by
  have h : ∀ (l : List Byte) (c : Nat), c < 2 ^ 32 → l.foldl (fun c b => crcReflBits 0x82F63B78 8 (c ^^^ b.toNat)) c < 2 ^ 32 := by
    intro l
    induction l with
    | nil => exact fun _ h => h
    | cons b l ih =>
      refine fun c hc => ih _ (crcReflBits_lt _ (by decide) 8 _ (Nat.xor_lt_two_pow hc ?_))
      have := b.isLt
      omega
  exact Nat.xor_lt_two_pow (h bs _ (by decide)) (by decide)
theorem witness_FlitGood (h : W64) (body : List Byte) : flitCrc h (flitOf h body).payload = (flitOf h body).crc.toNat :=
  (Nat.mod_eq_of_lt (crc32c_lt _)).symm
/-- A flit whose check is wrong in every bit. -/
def flitBad (h : W64) (body : List Byte) : D2dFlit := { flitOf h body with crc := ~~~(flitOf h body).crc }
theorem witness_FlitBad (h : W64) (body : List Byte) : flitCrc h (flitBad h body).payload ≠ (flitBad h body).crc.toNat := by
  intro e
  have hc : flitCrc h (flitBad h body).payload = (flitOf h body).crc.toNat := witness_FlitGood h body
  have : (flitOf h body).crc = ~~~(flitOf h body).crc := BitVec.eq_of_toNat_eq (hc.symm.trans e)
  exact absurd (congrArg (BitVec.getLsbD · 0) this) (by simp)
theorem witness_FlitKinds : tbit hdrIdle.toNat 25 = true ∧ tbit hdrIdle.toNat 24 = false ∧ fld hdrLate.toNat 0 12 ≠ (getMod meshed 255).expect.toNat
    ∧ tbit hdrPart.toNat 30 = false ∧ tbit hdrWhole.toNat 30 = true ∧ tbit hdrWhole.toNat 25 = false
    ∧ fld hdrWhole.toNat 0 12 = (getMod meshed 255).expect.toNat := by decide +kernel
theorem witness_FlitPacket : (egress meshed 3 (setRoute (pktOf ((pad 244 bytes3).take 36)) 4 4 0)).1 = .eject
    ∧ fld (pktOf ((pad 244 bytes3).take 36)).dst.toNat 11 2 = 3 := by decide +kernel
def noTimer : Dev := setRegN meshed (pgD2d 3 1 + 0x800) 0
def unacked (n : Nat) : Dev := putMod meshed 255 { goodMod with replay := [⟨hdrWhole, bytes3, n, 0, pkt3, false, 63⟩] }
theorem witness_NoTimer : Steady noTimer ∧ rfld noTimer (modPage 255 + 0x800) 0 10 = 0 := by decide +kernel
theorem witness_Replay : ∀ n, n < 4 → Steady (unacked n) ∧ ModuleOpen (unacked n) 255 ∧ rfld (unacked n) (modPage 255 + 0x800) 0 10 ≠ 0
      ∧ (getMod (unacked n) 255).replay ≠ [] := by decide +kernel
theorem witness_ReplayEvents : ∀ n, n < 4 → Calm (unacked n) (modPage 255) ∧ facingQuiet (unacked n) 255
      ∧ (n < 3 → ∀ f ∈ (getMod (unacked n) 255).replay, f.fails < 3) ∧ (n = 3 → ∃ f ∈ (getMod (unacked n) 255).replay, 3 ≤ f.fails) := by
  decide +kernel
def testing : Dev := putMod meshed 255 { goodMod with retraining := true }
theorem witness_Retrain : Steady testing ∧ modRetrains testing 255 = true ∧ modRetrains meshed 255 = false ∧ inService meshed 255 = true
    ∧ inService up 255 = false ∧ (getMod testing 255).joining = false ∧ edgeFree testing 255 ∧ edgeFree testing (facingMod 255)
    ∧ NotArmed testing (modPage 255) ∧ NotArmed testing (modPage (facingMod 255)) ∧ regN testing (pgMgr + 0x820) / 16 = 0 := by decide +kernel
/-- No, four, five and ten failed lanes: each rung of the ladder. -/
theorem witness_Ladder : ∀ e ∈ [(0, 0), (15, 1), (31, 2), (2 ^ 32 * 31 + 31, 3)],
    (ladder (getMod testing 255) (BitVec.ofNat 68 e.1 ||| (getMod testing (facingMod 255)).failed)).1 = e.2 := by decide +kernel
theorem witness_Disable : 9 ≤ upCount meshed 3 1 := by decide +kernel
def goingOff : Dev := putMod (unacked 0) 255 { getMod (unacked 0) 255 with leaving := true }
theorem witness_Silent : Steady goingOff ∧ (getMod goingOff 255).leaving = true ∧ packetsHeld (getMod goingOff 255).replay ≠ []
    ∧ (getMod meshed 255).leaving = false := by decide +kernel
/-- Edge B of site 3 quiesces while its module 31 leaves. -/
def quiescing : Dev :=
  putEdge (putMod meshed 255 { goodMod with leaving := true, disabled := true }) (edgeKey 3 1) { edgeDefault 0 with quiescing := true }
theorem witness_Quiesce : Steady quiescing ∧ (getEdge quiescing (edgeKey 3 1)).quiescing = true ∧ (getEdge quiescing (edgeKey 3 1)).heldPkts = []
    ∧ runLevel quiescing 3 = runLevel quiescing (facing 3 1).1 ∧ (getEdge meshed (edgeKey 3 1)).quiescing = false
    ∧ (∀ k ∈ edgeModules 3 1, inService quiescing k = true → (getMod quiescing k).replay = [])
    ∧ (∀ k ∈ edgeModules 3 1, (getMod quiescing k).leaving = true → unaccepted quiescing k = []
        ∧ ((getMod quiescing k).disabled = true ∨ masked quiescing k = true)) := by decide +kernel
theorem witness_EdgeFence : meshed.board.fencing = [] ∧ dieUp meshed 3 = true ∧ dieUp meshed (facing 3 1).1 = true ∧ ownState meshed (pgD2d 3 1) = stRunning
    ∧ ownState meshed (pgD2d (facing 3 1).1 (facing 3 1).2) = stRunning := by decide +kernel
def rerouting : Dev := { meshed with board := { meshed.board with routeChange := true } }
theorem witness_Routes : Steady rerouting ∧ rerouting.board.routeChange = true ∧ drained rerouting = true ∧ meshed.board.routeChange = false
    ∧ (∀ x, x < 4 → sget noHeld rerouting.relayHeld x = []) := by decide +kernel
theorem witness_RoutesIdle : ∀ x y, x < 4 → y < 2 → (getEdge rerouting (edgeKey x y)).heldPkts = [] := fun _ _ _ _ => rfl
theorem witness_RoutesKept : ∀ x, x < 4 → dieUp rerouting x = true → x ∈ keptSegment rerouting := by decide +kernel
/-- Step 5 of the start-up, before and during the bring-up of the edges. -/
def step5 : Dev := { up with board := { up.board with bootStep := 5 } }
theorem witness_Bringup : Quiescent step5 ∧ step5.board.bootStep = 5 ∧ step5.board.service = false
    ∧ (∀ x, x < 4 → dieUp step5 x = true ∧ runLevel step5 x = runLevel step5 0 ∧ ∀ y, y < 3 → ownState step5 (pgD2d x y) = stOff)
    ∧ (∀ x, x < 4 → ∀ y, y < 2 → regN step5 (pgD2d x y + 0x804) = 0) ∧ (∀ k, k < 256 → (getMod step5 k).failed = 0 ∧ (getMod step5 k).disabled = false ∧ repairMap step5 k = 0) := by decide +kernel
def edgesStart : Dev :=
  regs (edgePages.foldl (fun d a => setCtrl (setState d a stStarting) a 1) { step5 with mods := (List.range 256).map (fun k => (k, goodMod)) })
    (edgePages.map (fun a => (a + 0x820, 256)))
theorem witness_BringupEnds : Quiescent edgesStart ∧ edgesStart.board.bootStep = 5 ∧ dieUp edgesStart 3 = true
    ∧ ownState edgesStart (pgD2d 3 1) = stStarting ∧ rfld edgesStart (pgD2d 3 1 + 0x820) 8 8 ≠ 0 ∧ 8 ≤ upCount edgesStart 3 1
    ∧ tbit (pageCtrl edgesStart (pgD2d 3 1)) 0 = true ∧ (∀ x, x < 4 → sget noHeld edgesStart.relayHeld x = []) := by decide +kernel
theorem witness_BringupGoesOn : ∃ x y, x < 4 ∧ y < 2 ∧ (x, y) ≠ (3, 1) ∧ dieUp edgesStart x = true ∧ ownState edgesStart (pgD2d x y) = stStarting :=
  ⟨0, 0, by decide +kernel⟩

/-! ## Witnesses: fabric ports, the handshake, routers -/

/-- Port 47 with this link state, page state and port state. -/
def port47 (ls pg : Nat) (p : Port) : Dev :=
  putPort (setRegN (setLink (setState (calm up [pgPort 3 11, pgOpt 12]) (pgPort 3 11) pg) 47 ls) (pgPort 3 11 + 0x800) 1) 47 p
def idlePort : Port := portDefault 0
def portUp (p : Port) : Dev := setRfld (port47 7 stRunning p) (pgPort 3 11 + 0x840) 4 3 4
theorem witness_PortOpen : Steady (portUp idlePort) ∧ pgOfPort 47 = pgPort 3 11 ∧ PortClean (portUp idlePort) 47 ∧ linkState (portUp idlePort) 47 = lsUp
    ∧ (getPort (portUp idlePort) 47).held = [] ∧ regN (portUp idlePort) (pgPortMark 47 + 0x820) < m32 ∧ Calm (portUp idlePort) (pgOfPort 47) := by
  decide +kernel
/-- An idle flit, a data flit out of sequence, one in sequence, and one that ends a group. -/
def fIdle : W64 := 0x7FF70002FFF000
def fLate : W64 := 0x340FFF001
def fNext : W64 := 0x340FFF000
def fLast : W64 := 0x344FFF000
theorem witness_Headers : fIdle = portHeader 0 0xFFF false true false 0 false false false 0 7 2047
    ∧ fLate = portHeader 1 0xFFF false false false 0 false true false 3 0 0 ∧ fNext = portHeader 0 0xFFF false false false 0 false true false 3 0 0
    ∧ fLast = portHeader 0 0xFFF false false true 0 false true false 3 0 0 := by decide +kernel
/-- A flit: header, body and check. -/
def flitOf256 (h : W64) (body : List Byte) (crc : Nat) : List Byte := toBytes 8 h.toNat ++ body ++ toBytes 4 crc
def zeros : List Byte := List.replicate 244 0
/-- The ciphertext and tag of a group of zeros under `groupKey`. -/
def groupBody : List Byte :=
  bytesOf 64 0xECE55F25BA6D9B68489B84A38DAC6F729058CAE9B4F2A65EEFD9B9367B5F8D32BB78265CFCE6AD73AF9976F4A68C440BD8FD02E46F7FCFDD6C3AC80762C61113
  ++ bytesOf 64 0x298C3A939BB850B23C2E0CEA3F9C7A67583280F9FAB519239638E86027D8A63A453B659972D9F9534880ECC37088DB23D476CA38B0552D08C9B215D821E1EE0D
  ++ bytesOf 64 0x3D9F24959FEF9DAAF1163C845D161DB2F87F5386336B32B0A4B6E6715010A665216B998C97AF97DA1B800BCA3718ADC87F7FB41B1C65C89278CDFDBFF8208FEE
  ++ bytesOf 52 0x9D52804D778CEB7533401C42017D2FDE0081045DC372719D7B2FA92D5A661542CF82B581D30FEAF4C62156D78A268B53D1E90FB8
def flits : List (List Byte) :=
  [flitOf256 fIdle zeros 1567892596, flitOf256 fLate zeros 3506298930, flitOf256 fNext zeros 3302705191, flitOf256 fLast groupBody 257128270]
theorem flitCrc_forced (h : W64) (body : List Byte) :
    flitCrc h body = foldF 0x82F63B78 (toBytes 8 h.toNat ++ pad 244 body) 0xFFFFFFFF ^^^ 0xFFFFFFFF := crc32c_forced _
/-- A frame without errors gives its flit. -/
theorem witness_Frames : ∀ f ∈ flits, (match frameDecode (f ++ frameParity f) with | some (g, n) => g == f && n == 0 | none => false) = true := by
  decide +kernel
theorem witness_FrameGood : ∀ f ∈ flits, flitCrc (BitVec.ofNat 64 (bytesAt f 0 8)) (bytesFrom f 8 244) = bytesAt f 252 4 := by
  simp only [flitCrc_forced]
  decide +kernel
/-- The same flits with a check of 0. -/
theorem witness_FrameBad : ∀ f ∈ flits, flitCrc (BitVec.ofNat 64 (bytesAt (f.take 252 ++ [0, 0, 0, 0]) 0 8)) (bytesFrom (f.take 252 ++ [0, 0, 0, 0]) 8 244)
    ≠ bytesAt (f.take 252 ++ [0, 0, 0, 0]) 252 4 := by
  simp only [flitCrc_forced]
  decide +kernel
/-- The BF16 drain stream of dW (R262): run 4m + j holds row m of the block of array j. -/
def dWStream : BitVec 512 := BitVec.ofNat 512 (2 ^ 64 * 64 + 2 ^ 96 * 4 + 2 ^ 128 * 32 + 2 ^ 160 * 2048 + 2 ^ 192 * 64)
theorem test_dw_drain : dscRuns dWStream 0 (dscSize dWStream)
    = (List.range 128).map (fun i => (((i % 4 * 2048 + i / 4 * 64 : Nat) : Int), 64)) := by decide +kernel
/-- OS reads A at k × M + m (R262). -/
theorem test_os_reads_a : aElem { (coreDefault 0) with flow := 1, atype := 5 } ((List.range 96).map (BitVec.ofNat 8)) 3 2 5 = 17 := by decide +kernel
/-- The parity rows of R334 by the model's own polynomial division. -/
theorem test_fec_rows : fecRows = (List.range 8).map fecRow := by decide +kernel
/-- A frame of which one codeword has more errors than can be corrected. -/
theorem witness_FrameLost : frameDecode (List.replicate 256 0 ++ [117, 0, 68, 0, 11, 0, 164, 0, 154, 0, 122, 0, 127, 0, 1, 0]) = none := by decide +kernel
theorem witness_FrameKinds : tbit fIdle.toNat 24 = false ∧ tbit fIdle.toNat 25 = true ∧ tbit fLate.toNat 25 = false
    ∧ fld fLate.toNat 0 12 ≠ (getPort (portUp idlePort) 47).expect.toNat ∧ fld fNext.toNat 0 12 = (getPort (portUp idlePort) 47).expect.toNat
    ∧ tbit fNext.toNat 26 = false ∧ tbit fLast.toNat 26 = true ∧ tbit fLast.toNat 31 = false ∧ tbit fLast.toNat 24 = false := by decide +kernel
/-- The port receives under a key: the group opens; without the key, or with another body, it does not. -/
def groupKey : DirKeys := ⟨4, 6, 5, 0⟩
def receives47 : Dev := portUp { idlePort with rx := some groupKey }
theorem witness_Group : (match groupOpen receives47 47 [(fLast, groupBody)] with
      | some l => l == [(fLast, List.replicate 228 0)] && l.all (fun x => !tbit x.1.toNat 31) | none => false) = true
    ∧ groupOpen receives47 47 [(fLast, zeros)] = none ∧ (getPort receives47 47).rxGroup = [] ∧ PortClean receives47 47 ∧ Steady receives47
    ∧ linkState receives47 47 = lsUp ∧ (getPort receives47 47).held = [] ∧ Calm receives47 (pgOfPort 47) := by decide +kernel
def resending (n : Nat) : Dev := portUp { idlePort with replay := [⟨fNext, [], n, 0, pkt3, false, 63⟩] }
theorem witness_PortReplay : (∀ n, n < 4 → Steady (resending n) ∧ PortClean (resending n) 47 ∧ rfld (resending n) (pgOfPort 47 + 0x800) 0 16 ≠ 0
      ∧ ownState (resending n) (pgOfPort 47) = stRunning ∧ Calm (resending n) (pgOfPort 47)
      ∧ (n < 3 → ∀ f ∈ (getPort (resending n) 47).replay, f.fails < 3) ∧ (n = 3 → ∃ f ∈ (getPort (resending n) 47).replay, 3 ≤ f.fails))
    ∧ rfld (setRegN (portUp idlePort) (pgPort 3 11 + 0x800) 0) (pgOfPort 47 + 0x800) 0 16 = 0 := by decide +kernel
theorem witness_CanStart : ownState (portUp idlePort) (pgOfPort 47) = stRunning ∧ rfld (portUp idlePort) (pgOfPort 47 + 0x840) 4 3 = 4
    ∧ Reaches (portUp idlePort) (.firmware 0 0) (pgOfPort 47 + 0xF00) ∧ linkState up 47 ≠ lsUp := by decide +kernel
/-- The port runs at ×2 on its upper pair: lane 2 is active and lane 1 is not. -/
def upperHalf : Dev := setRfld (setRfld (portUp idlePort) (pgPort 3 11 + 0x840) 4 3 2) (pgPort 3 11 + 0x840) 7 1 1
theorem witness_HalfWidth : Steady upperHalf ∧ linkState upperHalf 47 = lsUp ∧ ownState upperHalf (pgOfPort 47) = stRunning
    ∧ rfld upperHalf (pgOfPort 47 + 0x840) 4 3 = 2 ∧ rfld upperHalf (pgOfPort 47 + 0x840) 7 1 = 1 ∧ Calm upperHalf (pgOfPort 47) := by decide +kernel
/-- A port in training, at first and again. -/
def training47 (st : Nat) : Dev := port47 st (if st = 8 then stRunning else stStarting) idlePort
theorem witness_Training : ∀ st ∈ [3, 8], Steady (training47 st) ∧ linkState (training47 st) 47 = st ∧ PortClean (training47 st) 47
    ∧ (getPort (training47 st) 47).held = [] ∧ (getPort (training47 st) 47).replay = [] ∧ (getPort (training47 st) 47).topo = none
    ∧ twinState (training47 st) = twOff ∧ regN (training47 st) (pgMgr + 0x820) / 16 = 0 := by decide +kernel
theorem witness_TrainingWidth : ∀ st ∈ [3, 8], ∀ e ∈ [((0 : BitVec 4), some (4, false, false)), (2, some (2, true, true)), (8, some (2, false, true)), (5, none)],
    widthOf (regN (training47 st) (pgOfPort 47 + 0x804)) (e.1 ||| (getPort (training47 st) 47).failedLanes) = e.2 := by decide +kernel
theorem witness_TrainingStates : ownState (training47 3) (pgOfPort 47) = stStarting ∧ ownState (training47 8) (pgOfPort 47) = stRunning := by
  decide +kernel
def peer9 : TopoEntry := ⟨9, true, 5, 0, 77⟩
theorem witness_TrainingTopo : (getPort (port47 3 stStarting { idlePort with topo := some peer9 }) 47).topo ≠ none
    ∧ debugMode (port47 3 stStarting { idlePort with topo := some peer9 }) = false := by decide +kernel
def hello9 : Hello := { proto := Config.linkVersion, level := 1, pkgId := 9, port := 5, nonce := 3, inDebug := false, pools := List.replicate 8 33 }
/-- A handshake at this stage. -/
def shaking (n : Nat) : Dev :=
  setCtrl (port47 5 stStarting { idlePort with stage := n, topo := some peer9, peerHello := if n = 0 then none else some hello9 }) (pgPort 3 11) 1
theorem witness_Stages : ∀ n, n < 5 → Steady (shaking n) ∧ linkState (shaking n) 47 = 5 ∧ (getPort (shaking n) 47).stage = n
    ∧ (getPort (shaking n) 47).topo = some peer9 ∧ PortClean (shaking n) 47 := by decide +kernel
/-- The Alias certificate of a peer: signed part, key and signature. -/
def peerTbs : List Byte :=
  bytesOf 64 0x70656572000000000000000000000000EAA37E9C9CBBB6DEF70A68688A712EA517986417E83CBBDDE4EB83A03085A34409C749657CA3B138ED138C355DB96A66
  ++ bytesOf 16 0x27AAA5AA9C52B246C6E6DE050200CDDE
def peerKey : List Byte :=
  bytesOf 64 0xEAA37E9C9CBBB6DEF70A68688A712EA517986417E83CBBDDE4EB83A03085A34409C749657CA3B138ED138C355DB96A6627AAA5AA9C52B246C6E6DE050200CDDE
def peerSig : List Byte :=
  bytesOf 64 0x567B762E4FD3F9A869F7D8796407D8B3AB098FAEB2251B2454B2ED5CDAA6DEF057A7ABEE41D417014F8053E465CAB650E99F2F9647F3F866BD2CAF759A2CCBC3
def peerCert : Cert := ⟨peerTbs ++ peerSig, peerTbs, peerKey, [], 2, [], peerSig⟩
/-- The point G as it is sent. -/
def sentG : BitVec 520 := BitVec.ofNat 520 (ofBytes (point65 sm2G))
/-- A handshake with the holder of that certificate; this package is the initiator, or the responder as package 20. -/
def withPeer (n : Nat) : Dev :=
  { putPort (shaking n) 47 { getPort (shaking n) 47 with
      topo := some { peer9 with peerDevid := keyDigest (pointOf Delivered.devidCert.key) }, eph := 3, shared := pointBytes sm2G
      got := [.hello { hello9 with proto := 1 }, .cert peerCert Delivered.devidCert] ++ if n = 3 then [.kex sentG] else [] } with
    sealU := { SealUnit.reset with aliasCert := some peerCert } }
def responds (n : Nat) : Dev := setRegN (withPeer n) (pgRouter 3 + 0x804) 20
theorem witness_Roles : isInitiator (withPeer 2) 47 = true ∧ isInitiator (responds 2) 47 = false
    ∧ ∀ n, n < 5 → Steady (withPeer n) ∧ Steady (responds n) ∧ linkState (responds n) 47 = 5 ∧ (getPort (responds n) 47).stage = n
      ∧ PortClean (responds n) 47 ∧ (withPeer n).sealU.aliasCert = some peerCert := by decide +kernel
theorem witness_Chain : chainOk (withPeer 1) peerCert Delivered.devidCert = true := by decide +kernel
theorem witness_ChainFails : chainOk (withPeer 1) peerCert peerCert = false
    ∧ keyDigest (pointOf Delivered.devidCert.key) ≠ peer9.peerDevid := by decide +kernel
theorem witness_Point : (pointOf65 (toBytes 65 sentG.toNat)).isSome = true
    ∧ (∀ m ∈ (getPort (withPeer 2) 47).got, hsCode m ≠ 3) := by decide +kernel
theorem witness_Kex : (kexPoint (aliasPrivate (withPeer 2)) 3 (peerAlias (getPort (withPeer 2) 47)) sm2G).isSome = true := by decide +kernel
/-- The Alias key for which the exchange of the ephemeral key 1 comes to the point at infinity. -/
def noPoint : Dev :=
  { putPort (withPeer 2) 47 { getPort (withPeer 2) 47 with eph := 1 } with
    sealU := { SealUnit.reset with aliasSeed := 0x5bcc880680ae61e249f95f2fabd320e2fefffffffffffffffffffffffeffffff } }
theorem witness_KexFails : kexPoint (aliasPrivate noPoint) (getPort noPoint 47).eph (peerAlias (getPort noPoint 47)) sm2G = none := by decide +kernel
def peerConfirm : BitVec 512 :=
  0xf3408d1f4caa537535618ff8168d3fa4a102ac769204f5d5ce2b6fea281a949c4dbacdb6cadcd8d206fdb3b93c037cca678b74dec63f75b595e3d09752dfac90
theorem witness_Confirm : sm2Verify (peerAlias (getPort (withPeer 3) 47)) (hsDigest (withPeer 3) 47) (toBytes 64 peerConfirm.toNat) = true := by
  decide +kernel
theorem witness_ConfirmFails : hsConfirm (withPeer 3) 47 false ≠ 0 := by decide +kernel
theorem witness_Hello : helloFault (shaking 0) 47 hello9 peer9 = none := by
  unfold helloFault
  rw [if_neg (fun h => h rfl)]
  decide +kernel
theorem witness_HelloFault : helloFault (shaking 0) 47 { hello9 with pkgId := 0 } peer9 = some 3
    ∧ helloFault (shaking 0) 47 { hello9 with pkgId := 8 } peer9 = some 4 ∧ helloFault (shaking 0) 47 { hello9 with port := 6 } peer9 = some 5
    ∧ helloFault (shaking 0) 47 { hello9 with inDebug := true } peer9 = some 9
    ∧ helloFault (shaking 0) 47 { hello9 with pools := List.replicate 8 32 } peer9 = some 12 := by
  refine ⟨?_, ?_, ?_, ?_, ?_⟩ <;> (unfold helloFault; rw [if_neg (fun h => h rfl)]; decide +kernel)
theorem witness_Ready : (getPort (shaking 4) 47).held = [] ∧ ownState (shaking 4) (pgOfPort 47) = stStarting
    ∧ tbit (pageCtrl (shaking 4) (pgOfPort 47)) 0 = true ∧ isInitiator (shaking 4) 47 = true := by decide +kernel
def debugging : Dev :=
  { port47 6 stStarting { idlePort with topo := some peer9 } with sealU := { SealUnit.reset with debugBits := some 4 } }
theorem witness_Debug : debugMode debugging = true ∧ Steady debugging ∧ linkState debugging 47 = 6 ∧ (getPort debugging 47).topo ≠ none := by decide +kernel
theorem witness_Hold : linkState (port47 6 stStarting idlePort) 47 = 6 ∧ (getPort (port47 6 stStarting idlePort) 47).topo = none
    ∧ debugMode (port47 6 stStarting { idlePort with topo := some peer9 }) = false := by decide +kernel
/-- A session key after `n` groups. -/
def keyed (n : Nat) : Dev := portUp { idlePort with tx := some ⟨1, 2, n, 3⟩, rx := some ⟨4, 5, n, 6⟩ }
theorem witness_Rekey : Steady (keyed (2 ^ 28)) ∧ (getPort (keyed (2 ^ 28)) 47).tx = some ⟨1, 2, 2 ^ 28, 3⟩
    ∧ (getPort (keyed (2 ^ 28 - 1)) 47).rx = some ⟨4, 5, 2 ^ 28 - 1, 6⟩ := by decide +kernel

/-- The router of site 3 sends package 9 through port 47 of its own die and package 10 through port 0 of site 0. -/
def routed : Dev :=
  { setState (setState (regs up [(pgRouter 3 + 0x980 + 36, 47), (pgRouter 3 + 0x980 + 40, 0)]) (pgPort 3 11) stRunning) (pgPort 0 0) stRunning with
    board := { up.board with routeChange := true } }
def pktTo (n : Nat) : Packet := { pkt3 with dst := BitVec.ofNat 16 n }
theorem witness_DeadLetter : Steady routed ∧ badHeader { pktTo 9 with typ := 99 } = true ∧ badHeader (pktTo 11) = false
    ∧ (egress routed 3 (pktTo 11)).1 = .dead 1 ∧ fld (regN routed (pgRouter 3 + 0x810)) 0 13 = 0
    ∧ (countEvt routed (pgRouter 3) 0x1000 (pktVc (pktTo 11)) 1).board = routed.board := by decide +kernel
/-- Dead letters have room for records in HBM. -/
def withRecords : Dev := regs routed [(pgRouter 3 + 0x810, 4096)]
theorem witness_DeadRecord : Steady withRecords ∧ fld (regN withRecords (pgRouter 3 + 0x810)) 0 13 = 4096
    ∧ (agentWrite (countEvt withRecords (pgRouter 3) 0x1000 0 1) (.die 3) 0 (deadRecord (pktTo 11) 1 63 63 0) false).board = withRecords.board := by
  decide +kernel
theorem witness_Eject : (egress routed 3 pkt3).1 = .eject ∧ fld pkt3.dst.toNat 11 2 = 3 ∧ badHeader pkt3 = false := by decide +kernel
theorem witness_Relay : (egress routed 3 (pktTo 10)).1 = .port 0 ∧ siteOfPort 0 ≠ 3 ∧ ownState routed (pgOfPort 0) = stRunning
    ∧ (egress routed 3 (pktTo 0x800)).1 = .eject ∧ fld (pktTo 0x800).dst.toNat 11 2 ≠ 3 ∧ routed.board.routeChange = true := by decide +kernel
theorem witness_PortHolds : badHeader (pktTo 9) = false ∧ (egress routed 3 (pktTo 9)).1 = .port 47 ∧ siteOfPort 47 = 3
    ∧ ownState routed (pgOfPort 47) = stRunning ∧ linkState routed 47 ≠ lsUp := by decide +kernel
def calmOpt : Dev := calm up [pgOpt 12]
theorem witness_RingHeaters : Steady calmOpt ∧ commitPending calmOpt (pgOpt 12) = false ∧ Calm calmOpt (pgOpt 12)
    ∧ (∀ x, x < 16 → 50 ≤ portOfLane 12 x ∨ linkBusy calmOpt (portOfLane 12 x) = false)
    ∧ ([((0 : Fin 16), (5 : W32)), (15, 7)].map (·.1)).Nodup := by decide +kernel

/-! ## Witnesses: the Sorter, buckets, post boxes -/

theorem findReg_none (site : Nat) : ∀ l : List RegRange, (∀ r ∈ l, 0x038 < r.first ∧ ∀ x ∈ r.live, 0x038 < x) → findReg site 0x038 l = none
  | [], _ => rfl
  | r :: l, h => by
    have hr := h r (List.mem_cons_self ..)
    have ha : r.at? site 0x038 = none := by
      unfold RegRange.at?
      rw [if_neg (by omega)]
      split
      · rename_i x hx
        rw [if_neg (by have := hr.2 x hx; omega)]
      · rfl
    show (match r.at? site 0x038 with | some x => some x | none => findReg site 0x038 l) = none
    rw [ha]
    exact findReg_none site l (fun r hm => h r (List.mem_cons_of_mem _ hm))
/-- The registers of every page beyond its first 256 bytes. -/
theorem quiet_default (l : PageLoc) : ownReg l 0x038 = none := by
  have h : ∀ t : PageType, ∀ r ∈ pageRegs t, 0x038 < r.first ∧ ∀ x ∈ r.live, 0x038 < x := by
    intro t
    cases t <;> decide +kernel
  unfold ownReg
  split
  · rfl
  · exact findReg_none _ _ (h l.typ)
/-- Memory is quiet where nothing is listed and no INJECT is written. -/
theorem memory_quiet {d : Dev} (h1 : d.hbmErr = []) (h2 : d.hbmTag = []) (h3 : d.sramErr = []) (h4 : d.filling = 0) (h5 : d.fillDue = 0)
    (h : ∀ e ∈ d.regs, e.1 % 0x1000 ≠ 0x038) :
    MemoryQuiet d := by
  refine ⟨h1, h2, h3, h4, h5, fun page hp => ?_⟩
  have ho : (page + 0x038) % 0x1000 = 0x038 := by omega
  have hd : (regDefault (page + 0x038)).toNat = 0 := by
    unfold regDefault
    rw [ho]
    split
    · rfl
    · rename_i l _
      simp [quiet_default l, oErrIrqEn, oEscWindow]
  have key : ∀ m : Sparse W32, (∀ e ∈ m, e.1 % 0x1000 ≠ 0x038) → sget regDefault m (page + 0x038) = regDefault (page + 0x038) := by
    intro m
    induction m with
    | nil => exact fun _ => rfl
    | cons e m ih =>
      intro hm
      obtain ⟨j, v⟩ := e
      have hj : j ≠ page + 0x038 := fun e => hm (j, v) (List.mem_cons_self ..) (by rw [e]; exact ho)
      show (if j = page + 0x038 then v else sget regDefault m (page + 0x038)) = _
      rw [if_neg hj]
      exact ih (fun e he => hm e (List.mem_cons_of_mem _ he))
  show fld (sget regDefault d.regs (page + 0x038)).toNat 0 16 = 0
  rw [key d.regs h, hd]
  rfl

/-- Group 0 has two members, the Sorter of site 0 here and that of package 9; lane 0, chunks of 4 KiB, RING 1. Group 1 has this Sorter alone. -/
def entryOf (n : Nat) : BitVec 512 := BitVec.ofNat 512 (1 + 2 ^ 12 + 2 ^ 32 * n + 2 ^ 48 + 2 ^ 64)
def booked : Dev := { calm up [pgLaneMark 0 0, pgBook] with book := { AddrBook.reset with liveG := [(0, entryOf 2), (1, entryOf 1)], liveM := [(1, 9)] } }
theorem booked_quiet (l : Sparse Sorter) : MemoryQuiet { booked with sorters := l } :=
  memory_quiet rfl rfl rfl rfl rfl (by show ∀ e ∈ booked.regs, _; decide +kernel)
/-- A docket word: operation, group, datatypes FP32, COUNT, PEER; all addresses 0 but DST. -/
def word (op g n peer : Nat) : DocketWord :=
  BitVec.ofNat 512 (op + 2 ^ 8 * g + 2 ^ 16 * 2 + 2 ^ 20 * 2 + 2 ^ 32 * n + 2 ^ 128 * 4096 + 2 ^ 192 * 8192 + 2 ^ 256 * 12288 + 2 ^ 320 * peer)
def posted (w : DocketWord) : Posted := ⟨w, 127, 15, true, 15, false⟩
def docket (w : DocketWord) : Docket := newDocket 0 (posted w) 0 0 0 0
def posting (w : DocketWord) : Dev := { booked with sorters := [(0, { sorterDefault 0 with waiting := [posted w] })] }
theorem witness_Accept : Steady (posting (word 1 0 4 0)) ∧ SorterOpen (posting (word 1 0 4 0)) 0 ∧ sorterHeld (posting (word 1 0 4 0)) 0 = false
    ∧ (getSorter (posting (word 1 0 4 0)) 0).held = [] ∧ (getSorter (posting (word 1 0 4 0)) 0).fates = [] ∧ Calm (posting (word 1 0 4 0)) pgBook := by
  decide +kernel
theorem witness_AcceptWords : memberIndex (posting (word 1 0 4 0)) 0 0 = some 0 ∧ docketBad (posting (word 1 0 4 0)) 0 (word 1 0 4 0) 0 = false
    ∧ docketBad (posting (word 14 0 4 0)) 0 (word 14 0 4 0) 0 = true ∧ memberIndex (posting (word 1 2 4 0)) 0 2 = none
    ∧ dkOp (word 14 0 4 0) ≠ opOptstep ∧ sget noFlag (posting (word 1 0 4 0)).book.damaged (replicaKey 0 0) = false := by decide +kernel
def optWord : DocketWord := BitVec.ofNat 512 (13 + 2 ^ 192 * 8192)
theorem witness_AcceptOptstep : optWord.toNat = opOptstep + dkAux optWord * 2 ^ 192 ∧ dkAux optWord % 64 = 0
    ∧ dieRange (posting optWord) 0 (dkAux optWord) 128 = true := by decide +kernel
def accepted1 (k : Docket) : Dev := { booked with sorters := [(0, { sorterDefault 0 with dockets := [k] })] }
/-- A word of every collective operation that starts at once: SEND and RECV with member 1, NORM of one word. -/
def starts : List DocketWord :=
  [word 1 1 4 0, word 2 1 4 0, word 3 1 4 0, word 4 1 4 0, word 5 1 4 0, word 6 1 4 0, word 7 1 4 0, word 8 1 0 0, word 9 0 4 1, word 10 0 4 1, word 11 1 1 0,
    word 12 1 0 0]
/-- The docket word with operation n + 1. -/
def nth (n : Nat) : Docket := docket (starts.getD n 0)
theorem witness_Starts : ∀ n, n < 12 → Steady (accepted1 (nth n)) ∧ findDocket (accepted1 (nth n)) 0 0 = some (nth n)
    ∧ mayStart (accepted1 (nth n)) 0 (nth n) = true ∧ SorterOpen (accepted1 (nth n)) 0 ∧ dkNoise (dkWord (nth n)) = false
    ∧ dkOp (dkWord (nth n)) = n + 1 ∧ (∀ l ∈ gLaneList (dkEntry (accepted1 (nth n)) (nth n)), pageFenced (accepted1 (nth n)) (pgSlane 0 l) = false) := by
  decide +kernel
/-- What a docket's start leaves: its failure in the engine, if any. -/
def startDoom (n : Nat) : Nat :=
  let r := startData (accepted1 (nth n)) 0 { nth n with started := true }
  let r := if n + 1 = opGather then claimSlot r.1 0 r.2 else r
  r.2.doom + (advance (enginePhases r.1 r.2) r.1 0 r.2).2.doom
theorem witness_StartsWell : ∀ n, n < 12 → startDoom n = 0 := by decide +kernel
def laneLost (k : Docket) : Dev := setState (accepted1 k) (pgSlane 0 0) stFenced
theorem witness_LaneLost : ∀ n, n < 12 → Steady (laneLost (nth n)) ∧ mayStart (laneLost (nth n)) 0 (nth n) = true
    ∧ ∃ l ∈ gLaneList (dkEntry (laneLost (nth n)) (nth n)), pageFenced (laneLost (nth n)) (pgSlane 0 l) = true := by decide +kernel
theorem witness_Sends : planOf (planIn (accepted1 (nth 8)) (nth 8)) ≠ [] ∧ sendsAt (planIn (accepted1 (nth 8)) (nth 8)) 0 ≠ [] := by decide +kernel
def optDocket : Docket := docket optWord
theorem witness_Optstep : Steady (accepted1 optDocket) ∧ findDocket (accepted1 optDocket) 0 0 = some optDocket ∧ dkOp (dkWord optDocket) = opOptstep
    ∧ mayStart (accepted1 optDocket) 0 optDocket = true ∧ (memRead (accepted1 optDocket) (dkAux optWord) 128).2.1 = false
    ∧ paramBad (optParam (memRead (accepted1 optDocket) (dkAux optWord) 128).1) = true := by decide +kernel
/-- The parameter block at 8192 is poisoned. -/
def soiled : Dev := { accepted1 optDocket with poison := [(256, true)] }
theorem witness_OptPoison : (memRead soiled (dkAux optWord) 128).2.1 = true := by decide +kernel
/-- OPTSTEP has run: its result record, with status 7, goes to address 4096. -/
def optEnded : Docket := { optDocket with started := true, ended := true, report := toBytes 5 4096 ++ toBytes 4 7 ++ List.replicate 60 0 }
theorem witness_OptEnds : Steady (accepted1 optEnded) ∧ findDocket (accepted1 optEnded) 0 0 = some optEnded ∧ optEnded.ended = true
    ∧ bytesAt optEnded.report 0 5 % 64 = 0 ∧ dieRange (accepted1 optEnded) 0 (bytesAt optEnded.report 0 5) 64 = true
    ∧ bytesAt (optEnded.report.drop 5) 0 4 = 7 := by decide +kernel

/-- A SEND whose one chunk is still to go, and one whose chunk has gone. -/
def out1 : OutChunk := ⟨1, 0, 0, 0, 0, 4, true, false, noElem, 0xFFFF, [1, 2, 3, 4]⟩
def sending : Docket := { docket (word 9 0 1 1) with started := true, todo := [out1] }
def rec1 : ChunkRec := ⟨1, 0, 0, 0, 5, [1, 2, 3, 4], false⟩
def sentAll : Docket := { docket (word 9 0 1 1) with started := true, ended := true, sent := [rec1] }
theorem witness_ChunkSend : Steady (accepted1 sending) ∧ SorterOpen (accepted1 sending) 0
    ∧ (getSorter (accepted1 sending) 0).dockets.find? (fun k => (nextOut (accepted1 sending) k 0).isSome) = some sending
    ∧ nextOut (accepted1 sending) sending 0 = some out1 ∧ findDocket (accepted1 sending) 0 0 = some sending := by decide +kernel
def name1 : ChunkName := ⟨0, 0, 1, 0, 0⟩
theorem witness_Retry : Steady (accepted1 sentAll) ∧ SorterOpen (accepted1 sentAll) 0
    ∧ (getSorter (accepted1 sentAll) 0).dockets.find? (fun k => dkOp k.post.word != opOptstep && dkGroup k.post.word == name1.group.val
        && k.cseq == name1.cseq && k.sent.any (fun c => c.peer == name1.peer.toNat && c.phase % 256 == name1.phase.toNat
          && c.index == name1.chunk.toNat && !c.again)) = some sentAll
    ∧ rec1.lane < 4 := by decide +kernel

/-- The peer's SEND of eight words in two chunks; the first of them as it arrives, and its check. -/
def theirs : Docket := { docket (word 9 0 8 0) with self := 1 }
def outHdr (alive : W32) : BitVec 512 := chunkHeader theirs { out1 with dst := 0, last := false, total := 8 } alive
def arriving (alive : W32) (check : Nat) : Chunk := ⟨BitVec.ofNat 512 (setFld (outHdr alive).toNat 256 64 check), [1, 2, 3, 4]⟩
theorem check_eq (h : BitVec 512) (p : List Byte) :
    chunkCheck 0 h p = foldF 0x82F63B78 (p ++ toBytes 64 (setFld h.toNat 256 64 0)) 0xFFFFFFFF ^^^ 0xFFFFFFFF := crc32c_forced _
/-- A RECV that waits for it, started or not; held mail with this many bytes. -/
def receiving (go : Bool) (bytes : Nat) : Dev :=
  setRegN (accepted1 { docket (word 10 0 8 1) with started := go }) (pgSorter 0 + 0xB04) bytes
def crc0 : Nat := 3512240034
def crc1 : Nat := 1966502664
def crcM : Nat := 1170338455
theorem witness_Checks : chCheck (arriving 0 crc0).header = chunkCheck (gPoly (grp (receiving true 0) 0)) (arriving 0 crc0).header (arriving 0 crc0).payload
    ∧ chCheck (arriving 1 crc1).header = chunkCheck (gPoly (grp (receiving true 0) 0)) (arriving 1 crc1).header (arriving 1 crc1).payload
    ∧ chCheck (arriving 0xFFFFFFFF crcM).header
        = chunkCheck (gPoly (grp (receiving true 0) 0)) (arriving 0xFFFFFFFF crcM).header (arriving 0xFFFFFFFF crcM).payload
    ∧ chCheck (arriving 0 0).header ≠ chunkCheck (gPoly (grp (receiving true 0) 0)) (arriving 0 0).header (arriving 0 0).payload := by
  have hp : gPoly (grp (receiving true 0) 0) = 0 := by decide +kernel
  simp only [hp, check_eq]
  decide +kernel
/-- The counts of the three: the next one, one ahead of it, one behind it. -/
theorem witness_Alive : chGroup (outHdr 0) = 0 ∧ gEnable (grp (receiving true 0) 0) = true
    ∧ sget zero32 (getSorter (receiving true 0) 0).aliveRx (aliveKey 0 0 1) = 0
    ∧ chAlive (arriving 0 crc0).header = 0 ∧ atOrAbove (chAlive (arriving 1 crc1).header) 0 = true
    ∧ atOrAbove (chAlive (arriving 0xFFFFFFFF crcM).header) 0 = false ∧ Calm (receiving true 0) (pgLaneMark 0 0) := by decide +kernel
theorem witness_InTurn : mustWait (receiving true 0) 0 0 (arriving 0 crc0).header = false ∧ mustWait (receiving false 0) 0 0 (arriving 0 crc0).header = false
    ∧ (getSorter (receiving true 0) 0).refused = [] ∧ (getSorter (receiving true 0) 0).retries = [] := by decide +kernel
def k10 (go : Bool) : Docket := { docket (word 10 0 8 1) with started := go }
theorem witness_Taken : Steady (receiving true 0) ∧ SorterOpen (receiving true 0) 0
    ∧ docketOf (receiving true 0) 0 (chClass (arriving 0 crc0).header) (chCseq (arriving 0 crc0).header) = some (k10 true)
    ∧ dkGroup (dkWord (k10 true)) = chGroup (arriving 0 crc0).header ∧ chunkOpFits (dkOp (dkWord (k10 true))) (chOp (arriving 0 crc0).header) = true
    ∧ findDocket (receiving true 0) 0 (k10 true).id = some (k10 true)
    ∧ xferOf (receiving true 0) (k10 true) (arriving 0 crc0).header = some ⟨0, 1, 0, .p2p⟩
    ∧ expectedTotal (receiving true 0) (k10 true) ⟨0, 1, 0, .p2p⟩ = some (chTotal (arriving 0 crc0).header)
    ∧ chDst (arriving 0 crc0).header = (k10 true).self ∧ dkOp (dkWord (k10 true)) ≠ opAlltoallv := by decide +kernel
theorem witness_TakenFlags : chPois (arriving 0 crc0).header = false ∧ chLast (arriving 0 crc0).header = false ∧ (k10 true).doom = 0 := by decide +kernel
/-- Held mail with room for exactly this chunk, and with one byte less. -/
theorem witness_HeldMail : Steady (receiving false (heldMail - 68)) ∧ heldBytes (receiving false (heldMail - 68)) 0 + chunkSize (arriving 0 crc0) = heldMail
    ∧ heldMail < heldBytes (receiving false (heldMail - 67)) 0 + chunkSize (arriving 0 crc0)
    ∧ docketOf (receiving false 0) 0 (chClass (arriving 0 crc0).header) (chCseq (arriving 0 crc0).header) = some (k10 false) := by decide +kernel
theorem receiving_quiet (go : Bool) : MemoryQuiet (receiving go 0) := by
  refine memory_quiet rfl rfl rfl rfl rfl ?_
  cases go <;> decide +kernel
theorem accepted_quiet (k : Docket) : MemoryQuiet (accepted1 k) := booked_quiet _
def asking : Dev := { booked with sorters := [(0, { sorterDefault 0 with retries := [chunkName 0 (outHdr 0)], held := [(0, arriving 0 crc0)] })] }
theorem witness_Asked : Steady asking ∧ SorterOpen asking 0 ∧ chunkName 0 (arriving 0 crc0).header ∈ (getSorter asking 0).retries
    ∧ regN asking (pgLaneMark 0 0 + 0x800) ≠ 0 ∧ Calm asking (pgLaneMark 0 0) ∧ (getSorter asking 0).held[0]? = some (0, arriving 0 crc0)
    ∧ regN asking (pgSorter 0 + 0x804) ≠ 0
    ∧ ((getSorter asking 0).retries.find? (fun r => r.lane == 0 && r.group == 0 && r.peer == 1)).isSome = true := by decide +kernel

/-- A SEND that is done with everything. -/
def noLedger : Dev := setRegN (accepted1 sentAll) (pgSorter 0 + 0x800) 0
theorem witness_Ends : Steady noLedger ∧ findDocket noLedger 0 0 = some sentAll ∧ dkOp (dkWord sentAll) ≠ opOptstep
    ∧ sentAll.started = true ∧ sentAll.ended = true ∧ sentAll.todo = [] ∧ sentAll.doom = 0 ∧ foldWaits noLedger 0 sentAll = false
    ∧ dkNormAcc (dkWord sentAll) = false ∧ dkNoise (dkWord sentAll) = false ∧ statUsable noLedger 0 (dkStat (dkWord sentAll)) = true
    ∧ tbit (regN noLedger (pgSorter 0 + 0x800)) 1 = false ∧ regN noLedger (pgSorter 0 + 0x804) ≠ 0 := by decide +kernel
theorem witness_Fails : statusCode 3 false = some 0x101 ∧ (k10 false).started = false
    ∧ docketOf (accepted1 sentAll) 0 (gClass (grp (accepted1 sentAll) 0)) 0 = some sentAll ∧ dkGroup (dkWord sentAll) = 0
    ∧ docketOf (accepted1 sentAll) 0 (gClass (grp (accepted1 sentAll) 0)) 7 = none ∧ Reaches booked (.firmware 0 0) (pgSorter 0 + 0xF08) := by decide +kernel

/-- Two bucket slots of 1 MiB from 2^30 on for a REDUCE_SCATTER of group 1; slot 0 holds this many bytes. -/
def template : Nat := (word 2 1 0x40000 0).toNat % 2 ^ 360 - 2 ^ 192 * 8192 + 2 ^ 64 * 2 ^ 30 + 2 ^ 360 * 2 + 2 ^ 376
def bucket (bytes out : Nat) (hold : Bool) : Dev :=
  { setRegN (regs booked ((pgSorter 0 + 0x808, 1) :: (List.range 16).map (fun w => (pgSorter 0 + 0x840 + 4 * w, fld template (32 * w) 32))))
      (pgTwin 0 + 0xA00) (if hold then 256 else 0) with
    sorters := [(0, { sorterDefault 0 with fill := [(0, bytes)], dockets := List.replicate out { sentAll with post := { sentAll.post with triggered := true } } })] }
theorem witness_Bucket : ∀ out, out = 0 ∨ out = 15 → Steady (bucket 0x100000 out false) ∧ bucketBytes (bucket 0x100000 out false) 0 = 0x100000
    ∧ bucketTemplate (bucket 0x100000 out false) 0 = template ∧ tplSlots template = 2 ∧ (getSorter (bucket 0x100000 out false) 0).trigStop = false
    ∧ bucketNext (bucket 0x100000 out false) 0 = 0 ∧ slotFill (bucket 0x100000 out false) 0 0 = 0x100000
    ∧ triggeredOut (bucket 0x100000 out false) 0 = out ∧ triggersHeld (bucket 0x100000 out false) 0 = 0
    ∧ sorterHeld (bucket 0x100000 out false) 0 = false ∧ SorterOpen (bucket 0x100000 out false) 0 := by
  rintro out (rfl | rfl) <;> decide +kernel
theorem witness_BucketDocket : dkOp (bucketDocket template 0x100000 0) ≠ opOptstep
    ∧ memberIndex (bucket 0x100000 0 false) 0 (dkGroup (bucketDocket template 0x100000 0)) = some 0
    ∧ docketBad (bucket 0x100000 0 false) 0 (bucketDocket template 0x100000 0) 0 = false := by decide +kernel
theorem witness_BucketHeld : Steady (bucket 0x100000 0 true) ∧ sorterHeld (bucket 0x100000 0 true) 0 = true := by decide +kernel
theorem bucket_quiet : MemoryQuiet (bucket 0x100000 0 false) := memory_quiet rfl rfl rfl rfl rfl (by decide +kernel)
/-- 16 dockets are out, a slot is one byte short, or one byte over. -/
theorem witness_BucketBounds : triggeredOut (bucket 0x100000 16 false) 0 = 16 ∧ slotFill (bucket 0xFFFFF 0 false) 0 0 < 0x100000
    ∧ 0x100000 < slotFill (bucket 0x100001 0 false) 0 0 := by decide +kernel

/-- Box 15 of site 0 is enabled, of context 15 of core 127; it sends (0) or receives (1); its peer is box 3 of site 2 of package 9. -/
def boxed (dir : Nat) (c : Ctx) (b : Box) : Dev :=
  { putCtx (regs booked [(pgSorter 0 + 0xD40 + 16 * 15, 2 ^ 31 + 9 + 2 ^ 11 * 2 + 2 ^ 13 * 3), (pgSorter 0 + 0xD44 + 16 * 15, 127 + 128 * 15 + 65536 * dir),
      (pgSorter 0 + 0xD48 + 16 * 15, 16), (pgSorter 0 + 0xD4C + 16 * 15, 4 + 65536)]) (ctxKey 0 127 15) c with
    sorters := [(0, { sorterDefault 0 with boxes := [(15, b)] })] }
def box0 : Box := boxDefault 0
def pbOf (kind : Byte) (len : W32) : PbPacket := ⟨9, 2, 3, 15, kind, 0, 0, len, [1, 2, 3]⟩
theorem witness_Stray : Steady (boxed 0 ctx1 box0) ∧ pbStray (boxed 0 ctx1 box0) 0 (pbOf 0 3) true = true
    ∧ pbStray (boxed 1 ctx1 box0) 0 (pbOf 1 3) false = true ∧ pbStray (boxed 1 ctx1 box0) 0 { pbOf 2 3 with srcBox := 4 } false = true := by decide +kernel
theorem witness_BoxPackets : boxWaiting (boxed 0 ctx1 box0) 0 127 15 15 = [] ∧ pbStray (boxed 0 ctx1 box0) 0 (pbOf 1 0x104) false = false
    ∧ pbStray (boxed 0 ctx1 box0) 0 (pbOf 2 1) false = false ∧ pbStray (boxed 1 ctx1 box0) 0 (pbOf 0 3) true = false
    ∧ pbBelow 0 (getBox (boxed 1 ctx1 box0) 0 15).seq = false ∧ pbBelow 0 (getBox (boxed 1 ctx1 { box0 with seq := 1 }) 0 15).seq = true := by decide +kernel
/-- A use of the box by d2: KIND, counter 4, and how many of its three bytes are done. -/
def boxUse (kind pos : Nat) : Stream :=
  { stream1 with desc := BitVec.ofNat 512 (2 ^ 64 * 3 + 2 ^ 96 + 2 ^ 128 + 2 ^ 224 * kind + 2 ^ 232 * 4 + 2 ^ 236 + 2 ^ 240 * 15)
                 active := true, begun := true, pos := pos, outBytes := List.replicate pos 7 }
def boxing (kind pos : Nat) : Dev := boxed (kind - 1) { ctx1 with d := [(2, boxUse kind pos)] } { box0 with msgs := [⟨0, 3, [0]⟩] }
theorem witness_BoxUses : ∀ kind pos, kind = 1 ∨ kind = 2 → pos = 2 ∨ pos = 3 → Steady (boxing kind pos) ∧ boxEnabled (boxing kind pos) 0 15 = true
    ∧ boxReceives (boxing kind pos) 0 15 = decide (kind = 2) ∧ boxWaiting (boxing kind pos) 0 127 15 15 = []
    ∧ boxStream (boxing kind pos) 0 127 15 15 kind = some (2, boxUse kind pos) ∧ dReg (getCtx (boxing kind pos) (ctxKey 0 127 15)) 2 = boxUse kind pos
    ∧ (getBox (boxing kind pos) 0 15).msgs = [⟨0, 3, [0]⟩] ∧ dscSize (boxUse kind pos).desc = 3 ∧ (boxUse kind 3).outBytes.length = 3 := by
  rintro kind pos (rfl | rfl) (rfl | rfl) <;> decide +kernel

/-! ## Witnesses: the twin planes -/

/-- A package whose twin unit is in this state, with this memory of it. -/
def pair (n : Nat) (t : Twin) : Dev := { setTwinState (calm up [pgTwin 0]) n with twin := t }
def twin0 : Twin := Twin.reset
theorem witness_TwinPair : ∀ n, n < 10 → Steady (pair n twin0) ∧ twinState (pair n twin0) = n ∧ Reaches (pair n twin0) (.firmware 0 0) (pgTwin 0 + 0xF50)
    ∧ (∀ x, x < 4 → dieUp (pair n twin0) x = true ∧ stepOf (pair n twin0) x = 0 ∧ (15 : BitVec 4).getLsbD x = true)
    ∧ (pair n twin0).twin.given = 0 ∧ (pair n twin0).twin.peerSeal = none := by decide +kernel
/-- SEAL_GO for three dies of four; a die that is one step ahead. -/
theorem witness_SealParts : ∃ x, x < 4 ∧ dieUp (pair 2 twin0) x = true ∧ (pair 2 twin0).twin.given.getLsbD x = false ∧ (7 : BitVec 4).getLsbD x = false :=
  ⟨3, by decide +kernel⟩
theorem witness_SealSteps : ∃ x, x < 4 ∧ dieUp (regs (pair 2 twin0) [(pgTwin 0 + 0xF40, 1)]) x = true
    ∧ stepOf (regs (pair 2 twin0) [(pgTwin 0 + 0xF40, 1)]) x ≠ 0 := ⟨3, by decide +kernel⟩
/-- A seal with this step, mask, events of die 0 and LEDGER of die 3. -/
def sealOf (step mask events ledger : Nat) : BitVec 768 :=
  BitVec.ofNat 768 (2 ^ 64 * step + 2 ^ 128 * mask + 2 ^ 160 * events + 2 ^ 448 * ledger)
theorem witness_SealFields : sealStep (sealOf 5 15 1 7) = 5 ∧ sealMask (sealOf 5 15 1 7) = 15 ∧ sealEvents (sealOf 5 15 1 7) = 1
    ∧ sealDiff (sealOf 5 15 1 7) (sealOf 5 15 1 6) = 8 ∧ sealDiff (sealOf 5 15 1 7) (sealOf 5 15 0 7) = 0 := by decide +kernel
def holds (own : BitVec 768) : Dev := pair 3 { twin0 with ownSeal := some own }
theorem witness_Verdicts : Steady (holds (sealOf 5 15 1 7)) ∧ twinState (holds (sealOf 5 15 1 7)) = twHold
    ∧ (holds (sealOf 5 15 1 7)).twin.ownSeal = some (sealOf 5 15 1 7) ∧ sealEvents (sealOf 5 15 0 7) = 0
    ∧ sealStep (sealOf 5 15 0 7) ≠ sealStep (sealOf 6 15 0 7) ∧ sealMask (sealOf 5 15 0 7) ≠ sealMask (sealOf 5 7 0 7) := by decide +kernel
theorem witness_NoLists : ∀ x, x < 4 → ∀ r, r < 8 → (stateList (holds (sealOf 5 15 0 7)) x r).2 = 0 := by decide +kernel

theorem crc64Step_lt (poly c : Nat) (hp : poly < 2 ^ 64) (h : c < 2 ^ 64) : (if 2 ^ 63 ≤ c then (2 * c % 2 ^ 64) ^^^ poly else 2 * c) < 2 ^ 64 := by
  by_cases hc : 2 ^ 63 ≤ c
  · rw [if_pos hc]
    have h2 : 2 * c % 2 ^ 64 < 2 ^ 64 := Nat.mod_lt _ (Nat.two_pow_pos 64)
    generalize 2 * c % 2 ^ 64 = x at h2 ⊢
    exact Nat.xor_lt_two_pow h2 hp
  · rw [if_neg hc]; omega
theorem crc64Bits_lt (poly : Nat) (hp : poly < 2 ^ 64) : ∀ n c, c < 2 ^ 64 → crc64Bits poly n c < 2 ^ 64
  | 0, _, h => h
  | n + 1, c, h => crc64Bits_lt poly hp n _ (crc64Step_lt poly c hp h)
theorem crc64Byte_lt (poly n c : Nat) (b : Byte) (hp : poly < 2 ^ 64) (hc : c < 2 ^ 64) : crc64Bits poly n (c ^^^ b.toNat * 2 ^ 56) < 2 ^ 64 := by
  have hb : b.toNat * 2 ^ 56 < 2 ^ 64 := by
    have := b.isLt
    omega
  generalize b.toNat * 2 ^ 56 = x at hb ⊢
  exact crc64Bits_lt poly hp n _ (Nat.xor_lt_two_pow hc hb)
theorem crc64Fold_lt (poly n : Nat) (hp : poly < 2 ^ 64) : ∀ (l : List Byte) (c : Nat), c < 2 ^ 64 →
    l.foldl (fun c b => crc64Bits poly n (c ^^^ b.toNat * 2 ^ 56)) c < 2 ^ 64
  | [], _, h => h
  | b :: l, c, h => crc64Fold_lt poly n hp l _ (crc64Byte_lt poly n c b hp h)
theorem crc64_lt (bs : List Byte) : crc64 bs < 2 ^ 64 := by
  unfold crc64
  exact crc64Fold_lt 0x42F0E1EBA9EA3693 8 (by decide) bs 0 (Nat.two_pow_pos 64)
/-- The CRC that a message names can agree with the lists and with the fenced units here. -/
theorem witness_ListsAgree (d : Dev) : (BitVec.ofNat 64 (listCrc d)).toNat = listCrc d := by
  rw [BitVec.toNat_ofNat]
  unfold listCrc
  exact Nat.mod_eq_of_lt (crc64_lt _)
theorem witness_UnitsAgree (d : Dev) : (BitVec.ofNat 64 (fencedCrc d)).toNat = fencedCrc d := by
  rw [BitVec.toNat_ofNat]
  unfold fencedCrc
  exact Nat.mod_eq_of_lt (crc64_lt _)
/-- And it can differ. -/
theorem witness_Differs (n : Nat) (h : n < 2 ^ 64) : (~~~ BitVec.ofNat 64 n).toNat ≠ n := by
  intro e
  have e2 : BitVec.ofNat 64 n = ~~~ BitVec.ofNat 64 n := BitVec.eq_of_toNat_eq ((Nat.mod_eq_of_lt h).trans e.symm)
  exact absurd (congrArg (BitVec.getLsbD · 0) e2) (by simp)
/-- A receiver that recopies dies 0 and 3. -/
def receives (joiner : Bool) : Dev := setRecopy (pair 5 { twin0 with joiner := joiner, ownSeal := some (sealOf 5 15 1 7) }) 9
theorem witness_Receives : ∀ j, Steady (receives j) ∧ twinState (receives j) = twRecv ∧ tbit (recopyDies (receives j)) 0 = true
    ∧ tbit (recopyDies (receives j)) 3 = true ∧ tbit (recopyDies (receives j)) 1 = false ∧ (receives j).twin.joiner = j
    ∧ (0 : W64) = (receives j).twin.recopyCrc ∧ ¬ (receives j).twin.recopyCrc = 1 ∧ (receives j).twin.ownSeal = some (sealOf 5 15 1 7) := by
  decide +kernel
theorem witness_RecopyQuiet : MemoryQuiet (receives false) := memory_quiet rfl rfl rfl rfl rfl (by decide +kernel)
/-- Die 0 of the recopy is not the last one, die 3 is. -/
theorem witness_More : (∃ y, y < 4 ∧ 0 < y ∧ tbit (recopyDies (receives false)) y = true)
    ∧ ¬ ∃ y, y < 4 ∧ 3 < y ∧ tbit (recopyDies (receives false)) y = true := ⟨⟨3, by decide +kernel⟩, fun ⟨y, h1, h2, _⟩ => by omega⟩
def sends (r : Option W64) : Dev := pair 4 { twin0 with resync := r }
theorem witness_Sends22 : Steady (sends none) ∧ twinState (sends none) = twSend ∧ (sends none).twin.resync = none ∧ (sends (some 5)).twin.resync ≠ none := by
  decide +kernel
theorem witness_Losses : canLose (pair 3 twin0) = true ∧ rfld (pair 3 twin0) (twReg 0x880) 0 16 ≠ 0 ∧ twinPortUp (pair 3 twin0) = false
    ∧ (pair 3 { twin0 with sentFences := [(1, 3, 127)] }).twin.sentFences ≠ [] ∧ canLose (pair 7 twin0) = false := by decide +kernel
theorem witness_Joins : (twJoining % 16 = 1) ∧ (1 : BitVec 4).toNat = twJoining ∧ twinState (pair 1 twin0) = twJoining ∧ twinState (pair 7 twin0) = twSolo
    ∧ twinState (pair 8 twin0) = twArmed ∧ (pair 1 twin0).twin.peerJoined = false := by decide +kernel
theorem witness_Mirror : unitTarget 1 3 127 = some (.page (pgCore 3 127)) ∧ unitTarget 1 3 128 = none ∧ unitTarget 2 3 15 = some (.page (pgCluster 3 15))
    ∧ unitTarget 6 3 1 = none ∧ unitFenced (pair 2 twin0) (.page (pgCore 3 127)) = false ∧ ownState (pair 2 twin0) (pgCore 3 127) = stRunning
    ∧ ownState (pair 2 twin0) (pgCluster 3 15) = stRunning ∧ (pair 2 twin0).board.fencing = []
    ∧ unitFenced (setState (pair 2 twin0) (pgCore 3 127) stFenced) (.page (pgCore 3 127)) = true := by decide +kernel

/-! ## Witnesses: counters, trace, ageing -/

theorem witness_Evctl : Steady up ∧ ∀ a ∈ [pgCore 3 127, pgSorter 3, pgTrace 3], Reaches up (.firmware 0 0) (a + oEvctl) ∧ pageBase a = a := by decide +kernel
/-- Counter 7 of the last core stands at its last value. -/
def wrapping : Dev := regs up [(pgCore 3 127 + oEvctl, 128), (pgCore 3 127 + oEvcnt + 56, 0xFFFFFFFF), (pgCore 3 127 + oEvcnt + 60, 0xFFFF)]
theorem witness_Wrap : Steady wrapping ∧ evcnt wrapping (pgCore 3 127) 7 = 2 ^ 48 - 1 ∧ tbit (evctlOf wrapping (pgCore 3 127)) 7 = true
    ∧ frozen wrapping (pgCore 3 127) = false ∧ ownState wrapping (pgCore 3 127) ≠ stFenced := by decide +kernel
theorem witness_FreezeAll : Reaches up (.firmware 0 0) (pgTrace 3 + 0xF08) ∧ Reaches up (.firmware 0 0) (pgTrace 3 + 0xF04) := by decide +kernel
/-- The trace of site 3 records every kind; full, it stops. -/
def tracing (wr : Nat) : Dev := regs up [(pgTrace 3 + 0x800, 0x3F), (pgTrace 3 + 0x820, wr)]
theorem witness_Trace : Steady (tracing 0) ∧ TraceOpen (tracing 0) 3 ∧ ¬ TraceOpen (tracing traceSlots) 3 ∧ ownState (tracing traceSlots) (pgTrace 3) ≠ stFenced
    ∧ (∀ kind : Nat, 1 ≤ kind → kind ≤ 4 → tbit (regN (tracing 0) (pgTrace 3 + 0x800)) kind = true) ∧ dataTraced (tracing 0) = false
    ∧ pageAt (pageBase (pgCore 3 127)) = some ⟨.core, false, 3, 127⟩ ∧ tbit (regN up (pgTrace 3 + 0x800)) 1 = false := by
  refine ⟨by decide +kernel, by decide +kernel, by decide +kernel, by decide +kernel, ?_, by decide +kernel, by decide +kernel, by decide +kernel⟩
  intro k h1 h2
  have : k = 1 ∨ k = 2 ∨ k = 3 ∨ k = 4 := by omega
  rcases this with rfl | rfl | rfl | rfl <;> decide +kernel
theorem witness_DataTrace : dataTraced { tracing 0 with sealU := { SealUnit.reset with debugBits := some 4 } } = true := by decide +kernel
theorem witness_Fitted : ∀ x, x < 4 → (dieFact up x).fitted = true := by decide +kernel
def calmAge : Dev := setRfld (calm up [pgAgemon 3, pgCluster 3 15]) (opReg 63) 0 6 48
/-- Delays of a cluster whose margin is at its floor, at its critical floor, and one below each. -/
def delaysAt (n : Nat) : BitVec 16 := BitVec.ofNat 16 (20000 / rfld calmAge (opReg 63) 0 6 - n)
def ageOf (m : Nat) : AgeReading := ⟨delaysAt m, 1, 2, 3, true, 0⟩
theorem witness_Age : Steady calmAge ∧ Machine.running calmAge (pgAgemon 3) = true ∧ dieUp calmAge 3 = true ∧ calmAge.commits = []
    ∧ ownState calmAge (pgCluster 3 15) = stRunning ∧ Reaches calmAge (.firmware 0 0) (pgAgemon 3 + 0xF00) ∧ Calm calmAge (pgAgemon 3) := by decide +kernel
theorem witness_Period : rfld calmAge (pgAgemon 3 + 0x800) 0 16 ≠ 0
    ∧ rfld (setRegN calmAge (pgAgemon 3 + 0x800) 0) (pgAgemon 3 + 0x800) 0 16 = 0 := by decide +kernel
/-- The margin that a reading gives. -/
def marginOf (r : AgeReading) : Int := ((20000 / rfld calmAge (opReg 63) 0 6 : Nat) : Int) - r.delays.toNat
theorem witness_Margins : rfld calmAge (opReg 63) 0 6 ≠ 0 ∧ marginOf (ageOf 8) = (envOf calmAge 63).floorPs
    ∧ marginOf (ageOf 7) < (envOf calmAge 63).floorPs ∧ marginOf (ageOf 4) = (envOf calmAge 63).critPs
    ∧ marginOf (ageOf 3) < (envOf calmAge 63).critPs := by decide +kernel
theorem witness_MayRaise : guardOf calmAge 63 < fld (regN calmAge (pgAgemon 3 + 0x804)) 8 4
    ∧ tableVolt calmAge 63 + (guardOf calmAge 63 + 1) * fld (regN calmAge (pgAgemon 3 + 0x804)) 0 4 ≤ (envOf calmAge 63).vmax := by decide +kernel
/-- No steps are allowed. -/
theorem witness_MayNotRaise : fld (regN (regs calmAge [(pgAgemon 3 + 0x804, 0)]) (pgAgemon 3 + 0x804)) 8 4 = 0 := by decide +kernel

/-! ## Witnesses: steps, reset, the package without power -/

theorem witness_Queue : State.reset.pending = [] ∧ (st up).pending = [] ∧ Live (st up).dev ∧ ¬ Live State.reset.dev := by decide +kernel
theorem witness_Dead : Dead State.reset := by
  refine ⟨Or.inl rfl, ⟨fun n _ => ⟨rfl, rfl⟩, rfl, rfl, rfl, rfl, rfl⟩, ?_⟩
  intro i hi
  cases hi
theorem witness_Halted : Dead { dev := haltedUp, pending := [.wearPeriodic] } := by
  refine ⟨Or.inr rfl, ⟨fun n _ => ⟨rfl, rfl⟩, rfl, rfl, rfl, rfl, rfl⟩, ?_⟩
  intro i hi a b c h
  rw [h] at hi
  exact absurd hi (by simp)
theorem witness_Canonical : Memory.wf State.reset.dev.mem = true ∧ Memory.wf (memPut up 0xF040000000 [1, 0, 2]).mem = true
    ∧ (memPut up 0xF040000000 [1, 0, 2]).mem ≠ [] := by decide +kernel

/-! ## Well-formed commands: each check refuses an ill-formed term -/

theorem test_wf_page_start : Instr.wf (.ctrlEnableSet .host (BitVec.ofNat 27 (pgCore 3 127))) = true
    ∧ ∀ i ∈ [Instr.ctrlEnableSet .host 4, .ctrlEnableClear .host 4, .softReset .host 4 true false, .fenceReq .host 4, .startDone 4 true,
      .drainDone 4, .errStatClear .host 4 1, .injectArm .host 4 1, .commit .host 4 1, .commitSafePoint 4, .packageHalt ⟨4, 0x101⟩, .irqLineRise 4,
      .fenceSequence 4 2 0, .fenceDrainTimeout 4, .fenceComplete 4, .evctlClear .host 4 1, .evctlFreeze .host 4, .evctlThaw .host 4,
      .evctlOvfClear .host 4 1, .counterWrap 4 0], i.wf = false := by decide
theorem test_wf_bar2_range : Instr.wf (.bar2Read 0x3FFFFFFFF 1) = true ∧ Instr.wf (.bar2Read 0x3FFFFFFFF 2) = false
    ∧ Instr.wf (.bar2Read 0 0) = false ∧ Instr.wf (.bar2Write 0x3FFFFFFFF [1, 2]) = false := by decide
theorem test_wf_seal_sites : Instr.wf (.seal 0 [(0, 1, 2), (1, 1, 2)]) = true ∧ Instr.wf (.seal 0 [(0, 1, 2), (0, 1, 2)]) = false := by decide
theorem test_wf_checkpoint_number : Instr.wf (.checkpointWrite 0 1 0 []) = true ∧ Instr.wf (.checkpointWrite 0 0 0 []) = false := by decide
theorem test_wf_dma_lengths : Instr.wf (.hdmaDescComplete 0 [1] [1] true true) = true ∧ Instr.wf (.hdmaDescComplete 0 [1] [] true true) = false := by decide
theorem test_wf_hello_pools : Instr.wf (.hello 0 ⟨0, 1, 0, 0, 0, false, List.replicate 8 33⟩) = true
    ∧ Instr.wf (.hello 0 ⟨0, 1, 0, 0, 0, false, List.replicate 7 33⟩) = false := by decide
theorem test_wf_flit_size : Instr.wf (.d2dFlitReceive ⟨0, false, 0⟩ ⟨0, List.replicate 244 0, 0⟩) = true
    ∧ Instr.wf (.d2dFlitReceive ⟨0, false, 0⟩ ⟨0, List.replicate 243 0, 0⟩) = false := by decide +kernel
theorem test_wf_frame_size : Instr.wf (.frameReceive 0 (List.replicate 272 0)) = true
    ∧ Instr.wf (.frameReceive 0 (List.replicate 271 0)) = false := by decide +kernel
theorem test_wf_register_address : Instr.wf (.loReadLatch .host 0x8FFFFFC) = true
    ∧ ∀ i ∈ [Instr.regWrite .host 0x9000000 0 15 none, .loReadLatch .host 0x9000000, .hiWriteHold .host 0x9000000 0], i.wf = false := by decide
theorem test_wf_packet_size : Instr.wf (.packetRoute 0 none { pkt3 with body := List.replicate 2048 0 }) = true
    ∧ Instr.wf (.packetRoute 0 none { pkt3 with body := List.replicate 2049 0 }) = false := by decide +kernel
theorem test_wf_recopy_packet : Instr.wf (.recopyData 0 0 2048 (List.replicate 2048 0) false) = true
    ∧ Instr.wf (.recopyData 0 0 1 (List.replicate 2048 0) false) = false ∧ Instr.wf (.recopyData 0 0 0 [] false) = false := by decide +kernel
theorem test_wf_readings : Instr.wf (.agemonSample 0 [(0, ⟨0, 0, 0, 0, true, 0⟩), (1, ⟨0, 0, 0, 0, true, 0⟩)]) = true
    ∧ Instr.wf (.agemonSample 0 [(0, ⟨0, 0, 0, 0, true, 0⟩), (0, ⟨0, 0, 0, 0, true, 0⟩)]) = false
    ∧ Instr.wf (.sampleNow .host 0 1 [(0, ⟨0, 0, 0, 0, true, 0⟩), (0, ⟨0, 0, 0, 0, true, 0⟩)]) = false := by decide
theorem test_wf_trace_kind : Instr.wf (.traceEntryWrite 0 6 0 0 0 0) = true ∧ Instr.wf (.traceEntryWrite 0 7 0 0 0 0) = false
    ∧ Instr.wf (.traceEntryWrite 0 0 0 0 0 0) = false := by decide
theorem test_wf_link_speed : Instr.wf (.hostLinkTrained 6 8 false) = true ∧ Instr.wf (.hostLinkTrained 7 8 false) = false
    ∧ Instr.wf (.hostLinkTrained 6 2 false) = false := by decide

/-! ## Results worked out by hand from the spec -/

/-- The device after a command on an idle queue. -/
def after (d : Dev) (i : Instr) : Dev := match exec i (st d) with | .next s => s.dev | _ => Dev.reset
def ctxAfter (c : Ctx) (i : Instr) : Ctx := getCtx (after (runs c) i) (ctxRefKey r0)
/-- s1 after a CTRL operation on s2 = a, s3 = b, IMM and FN. -/
def s1 (i : CtxRef → Hdr → CtrlF → Instr) (a b : W64) (imm : W32) (fn : BitVec 6) : W64 :=
  sReg (ctxAfter { ctxDefault 0 with s := [(2, a), (3, b)] } (i r0 h0 { f0 with imm := imm, fn := fn })) 1

/-- R162: B is s[SB] plus IMM, sums modulo 2^64. -/
theorem test_add_wraps : s1 .add 0xFFFFFFFFFFFFFFFF 1 1 0 = 1 := by decide +kernel
theorem test_sub_takes_b : s1 .sub 5 7 0 0 = 0xFFFFFFFFFFFFFFFE := by decide +kernel
/-- IMM is sign-extended: B = 8 − 1. -/
theorem test_imm_is_signed : s1 .add 0 8 0xFFFFFFFF 0 = 7 := by decide +kernel
theorem test_mul_low : s1 .mul 0x100000000 0x100000001 0 0 = 0x100000000 := by decide +kernel
theorem test_mulhu_high : s1 .mulhu 0xFFFFFFFFFFFFFFFF 0xFFFFFFFFFFFFFFFF 0 0 = 0xFFFFFFFFFFFFFFFE := by decide +kernel
theorem test_and : s1 .and 0xF0 0x3C 0 0 = 0x30 := by decide +kernel
theorem test_or : s1 .or 0xF0 0x0C 0 0 = 0xFC := by decide +kernel
theorem test_xor : s1 .xor 0xF0 0x3C 0 0 = 0xCC := by decide +kernel
/-- Shifts take B mod 64. -/
theorem test_shl_by_65 : s1 .shl 1 65 0 0 = 2 := by decide +kernel
theorem test_shr_is_logical : s1 .shr 0x8000000000000000 63 0 0 = 1 := by decide +kernel
theorem test_sra_is_arithmetic : s1 .sra 0x8000000000000000 62 0 0 = 0xFFFFFFFFFFFFFFFE := by decide +kernel
theorem test_min_signed : s1 .min 0xFFFFFFFFFFFFFFFF 1 0 0 = 0xFFFFFFFFFFFFFFFF := by decide +kernel
theorem test_max_signed : s1 .max 0xFFFFFFFFFFFFFFFF 1 0 0 = 1 := by decide +kernel
theorem test_minu : s1 .minu 0xFFFFFFFFFFFFFFFF 1 0 0 = 1 := by decide +kernel
theorem test_maxu : s1 .maxu 0xFFFFFFFFFFFFFFFF 1 0 0 = 0xFFFFFFFFFFFFFFFF := by decide +kernel
/-- R163: 2 is LT signed, 4 LTU. -/
theorem test_cmp_lt_signed : s1 .cmp 0xFFFFFFFFFFFFFFFF 1 0 2 = 1 := by decide +kernel
theorem test_cmp_ltu : s1 .cmp 0xFFFFFFFFFFFFFFFF 1 0 4 = 0 := by decide +kernel
theorem test_lui_keeps_low_half : s1 .lui 0x1111111122222222 0 0x33333333 0 = 0x3333333322222222 := by decide +kernel
theorem test_jal_links : s1 .jal 0 0 5 0 = 1 ∧ (ctxAfter (ctxDefault 0) (.jal r0 h0 { f0 with imm := 5 })).pc = 5 := by decide +kernel
theorem test_br_taken_and_not : (ctxAfter { ctxDefault 0 with pc := 10 } (.br r0 h0 { f0 with imm := 0xFFFFFFFE, fn := 0 })).pc = 8
    ∧ (ctxAfter { ctxDefault 0 with pc := 10 } (.br r0 h0 { f0 with imm := 0xFFFFFFFE, fn := 1 })).pc = 11 := by decide +kernel
theorem test_jr : (ctxAfter { ctxDefault 0 with s := [(2, 40)] } (.jr r0 h0 { f0 with imm := 2 })).pc = 42 := by decide +kernel
theorem test_s0_is_zero : sReg (ctxAfter { ctxDefault 0 with s := [(2, 9)] } (.add r0 h0 { f0 with sd := 0 })) 0 = 0 := by decide +kernel
/-- R164: an address that is not aligned faults the context. -/
theorem test_sld_misaligned : (ctxAfter (ctxDefault 0) (.sld r0 h0 { f0 with imm := 4 })).cstate = .faulted := by decide +kernel
theorem test_ssw_stores_low_half : memGet (after (runs { ctxDefault 0 with s := [(3, 0x1122334455667788)] }) (.ssw r0 h0 { f0 with imm := 8 })) 0xF040000008 4
    = [0x88, 0x77, 0x66, 0x55] := by decide +kernel
theorem test_cadd_wraps : cReg (ctxAfter { ctxDefault 0 with c := [(1, 0xFFFFFFFF)] } (.cadd r0 h0 { f0 with imm := 2 })) 1 = 1 := by decide +kernel
theorem test_s2v_every_lane : fld (vReg (ctxAfter { ctxDefault 0 with s := [(2, 0x5_12345678)] } (.s2v r0 h0 f0)) 1).toNat (32 * 127) 32 = 0x12345678 := by
  decide +kernel
/-- CSET takes B modulo 2^32. -/
theorem test_cset_keeps_low_half : cReg (ctxAfter { ctxDefault 0 with s := [(3, 0x700000005)] } (.cset r0 h0 f0)) 1 = 5 := by decide +kernel
theorem test_flgclr_and_rd : s1 .flgrd 0 0 0 0 = 0 ∧ (ctxAfter { ctxDefault 0 with ovf := true, inv := true } (.flgclr r0 h0 { f0 with imm := 1 })).inv = true
    ∧ (ctxAfter { ctxDefault 0 with ovf := true, inv := true } (.flgclr r0 h0 { f0 with imm := 1 })).ovf = false := by decide +kernel
theorem test_halt : (ctxAfter (ctxDefault 0) (.halt r0 h0 f0)).cstate = .halted := by decide +kernel

/-- Lane 0 of v2 after a VEC operation on lanes a and b of v1 and v3, which hold FP32 (TYPE 2) or INT32 (TYPE 9) values. -/
def lane0 (i : CtxRef → Hdr → VecF → Instr) (typ : BitVec 4) (a b : Nat) (imm : W32) : Nat :=
  fld (vReg (ctxAfter { ctxDefault 0 with v := [(1, BitVec.ofNat 4096 a), (3, BitVec.ofNat 4096 b)] } (i r0 h0 { v0 with typ := typ, imm := imm })) 2).toNat 0 32
/-- 1.5 + 2.25 = 3.75, 1.5 − 2.25 = −0.75, 1.5 × 2.25 = 3.375. -/
theorem test_vadd_fp32 : lane0 .vadd 2 0x3FC00000 0x40100000 0 = 0x40700000 := by decide +kernel
theorem test_vsub_fp32 : lane0 .vsub 2 0x3FC00000 0x40100000 0 = 0xBF400000 := by decide +kernel
theorem test_vmul_fp32 : lane0 .vmul 2 0x3FC00000 0x40100000 0 = 0x40580000 := by decide +kernel
/-- 1 + 2^-24 is a tie, and rounds to even. -/
theorem test_vadd_tie_to_even : lane0 .vadd 2 0x3F800000 0x33800000 0 = 0x3F800000 := by decide +kernel
theorem test_vxor : lane0 .vxor 9 0xFF00FF00 0x0FF00FF0 0 = 0xF0F0F0F0 := by decide +kernel
theorem test_vrcp_of_2 : lane0 .vrcp 2 0x40000000 0 0 = 0x3F000000 := by decide +kernel
/-- R167: the number where one operand is NaN; -0 below +0 for VMIN; the NaN of both. -/
theorem test_vmax_nan : lane0 .vmax 2 0x7FC00001 0x40000000 0 = 0x40000000 := by decide +kernel
theorem test_vmin_signed_zero : lane0 .vmin 2 0 0x80000000 0 = 0x80000000 := by decide +kernel
theorem test_vmul_int_wraps : lane0 .vmul 9 0x10001 0x10001 0 = 0x20001 := by decide +kernel
theorem test_vmax_int_signed : lane0 .vmax 9 0xFFFFFFFF 1 0 = 1 := by decide +kernel
theorem test_vsra : lane0 .vsra 9 0x80000000 33 0 = 0xC0000000 := by decide +kernel
/-- √ of 4 is 2, so its inverse 0.5; log2 of 8 is 3; 2 to the 3 is 8. -/
theorem test_vrsqrt_of_4 : lane0 .vrsqrt 2 0x40800000 0 0 = 0x3F000000 := by decide +kernel
theorem test_vlog2_of_8 : lane0 .vlog2 2 0x41000000 0 0 = 0x40400000 := by decide +kernel
theorem test_vexp2_of_3 : lane0 .vexp2 2 0x40400000 0 0 = 0x41000000 := by decide +kernel
theorem test_vbcast : lane0 .vbcast 9 0 0 0xCAFE0001 = 0xCAFE0001 := by decide +kernel
/-- VCMP of -0 and +0: EQ holds, LT does not (p7 is PD of v0). -/
def cmp0 (cond : W32) : PReg :=
  pReg (ctxAfter { ctxDefault 0 with v := [(1, 0x80000000), (3, 0)] } (.vcmp r0 h0 { v0 with typ := 2, imm := cond })) v0.pd.toNat
theorem test_vcmp_zeros : (cmp0 0).getLsbD 0 = true ∧ (cmp0 2).getLsbD 0 = false := by decide +kernel
/-- R371: the check values of the CRCs on the nine bytes "123456789", as their catalogues give them. -/
def nine : List Byte := [0x31, 0x32, 0x33, 0x34, 0x35, 0x36, 0x37, 0x38, 0x39]
theorem test_crc32c : crc32c nine = 0xE3069283 := by rw [crc32c_forced]; decide +kernel
theorem test_crc32 : crc32 nine = 0xCBF43926 := by
  have h : crc32 nine = foldF 0xEDB88320 nine 0xFFFFFFFF ^^^ 0xFFFFFFFF := by rw [foldF_eq]; rfl
  rw [h]
  decide +kernel
/-- R42: a host that has no link reaches nothing; R37: the firmware writes a read-only register in vain. -/
theorem test_read_only_write : regN (after up (.regWrite (.firmware 0 0) (BitVec.ofNat 28 (pgSorter 0 + 0xB00)) 5 15 none)) (pgSorter 0 + 0xB00) = 0 := by decide +kernel
theorem test_shadow_write : regN (after up (.regWrite (.firmware 0 0) (BitVec.ofNat 28 (pgSorter 0 + 0x104)) 0x12345678 15 none)) (pgSorter 0 + 0x104) = 0x12345678 := by
  decide +kernel
/-- R483: a write of EPD_REQ with bit 0 set halts the package. -/
theorem test_halt_by_register : (after up (.epdRequest (.firmware 0 0) 1)).board.halted = true := by decide +kernel
/-- R31: a falling edge of PWR_OK ends everything but the flash. -/
theorem test_power_fall : (after up .pwrOkFall).board.pwrOk = false ∧ (after up .pwrOkFall).board.released = 0 := by decide +kernel

end Sys2Proof.Tests
end

section
/-!
PROOFS. Accesses to offsets of BAR0 that hold no page (R43): what a read gives, what a write leaves, and where a die's region has holes.
-/
namespace Sys2Proof.Machine

/-! ## The address book window and the offsets outside it (R68) -/

theorem bookRead_outside {d : Dev} {a : Nat} (h : a < 0x110000 ∨ 0x1C0000 ≤ a) : bookRead d a = 0 := by
  unfold bookRead
  rw [if_neg (by omega), if_neg (by omega), if_neg (by omega), if_neg (by omega)]

/-- Of the window only the two staged areas take a word: 0x110000 to 0x113FFF and 0x140000 to 0x17FFFF. -/
theorem bookWrite_outside {d : Dev} {a : Nat} (v : Nat) (h : a < 0x110000 ∨ 0x1C0000 ≤ a) : bookWrite d a v = d := by
  unfold bookWrite
  rw [if_neg (c := 0x110000 ≤ a ∧ _) (by omega), if_neg (c := 0x140000 ≤ a ∧ _) (by omega), ite_self]

theorem readReg_noPage {d : Dev} {a : Nat} (h : NoPage a) : readReg d a = 0 := by
  obtain ⟨hp, ha⟩ := h
  simp [readReg, hp, bookRead_outside ha]

/-- A 64-bit write lies in one aligned block of 8 bytes, so its upper half stays outside the window as well. -/
theorem regWrite_noPage {d : Dev} {a : Nat} (who : Requester) (v : Nat) (hi : Option W32) (h : NoPage a) : regWrite d who a v hi = d := by
  obtain ⟨hp, ha⟩ := h
  cases hi with
  | none => simp [regWrite, hp, bookWrite_outside v ha]
  | some w =>
    by_cases h8 : a % 8 = 0
    · have ha4 : a + 4 < 0x110000 ∨ 0x1C0000 ≤ a + 4 := by omega
      simp [regWrite, hp, h8, bookWrite_outside _ ha, bookWrite_outside _ ha4]
    · simp [regWrite, hp, h8]

/-! ## REG_WRITE at an offset of BAR0 (R40 to R42) -/

/-- Below 2^27 an address names its own offset, whoever the requester. -/
theorem target_bar0 (who : Requester) (a : Bar0) : target who (a.zeroExtend 28 : RegAddr).toNat = some a.toNat := by
  have hw : (a.zeroExtend 28 : RegAddr).toNat = a.toNat := BitVec.toNat_setWidth_of_le (by decide)
  have hlt : a.toNat < 0x8000000 := a.isLt
  rw [hw]
  unfold target
  exact if_pos hlt

/-- A write that reaches its register and leaves the board and the errors of the cycle alone ends in what it did; with partial byte
enables it is discarded (R40). -/
theorem regWrite_ends {who : Requester} {a : Bar0} {val : W32} {be : BitVec 4} {hi : Option W32} {s : State} {d : Dev}
    (hs : Steady s.dev) (hr : Reaches s.dev who a.toNat)
    (hd : (if be = 0xF then regWrite (dropHeld s.dev who a.toNat) who a.toNat val.toNat hi else s.dev) = d)
    (hb : d.board = s.dev.board) (hf : d.fresh = []) : Ends (.regWrite who (a.zeroExtend 28) val be hi) s d := by
  have he : exec (.regWrite who (a.zeroExtend 28) val be hi) s = execRegWrite who (a.zeroExtend 28) val be hi s := rfl
  have ha : access s.dev who a.toNat (fun x => if be = 0xF then regWrite x who a.toNat val.toNat hi else s.dev) = d :=
    (access_reaches hr _).trans hd
  rw [Ends, he, execRegWrite]
  simp only [target_bar0]
  rw [gated_steady hs]
  · rw [ha]
  · rwa [ha]
  · rwa [ha]

@[simp] theorem dropHeld_board (d : Dev) (who : Requester) (a : Nat) : (dropHeld d who a).board = d.board := rfl
@[simp] theorem dropHeld_fresh (d : Dev) (who : Requester) (a : Nat) : (dropHeld d who a).fresh = d.fresh := rfl

/-- A write to an offset without a page does no more than discard the half its requester holds (R41, R43). -/
theorem regWrite_ends_noPage {who : Requester} {a : Bar0} {s : State} (val : W32) (be : BitVec 4) (hi : Option W32)
    (hs : Steady s.dev) (hn : NoPage a.toNat) (hr : Reaches s.dev who a.toNat) :
    Ends (.regWrite who (a.zeroExtend 28) val be hi) s (if be = 0xF then dropHeld s.dev who a.toNat else s.dev) := by
  refine regWrite_ends hs hr (by rw [regWrite_noPage who _ hi hn]) ?_ ?_
  · split
    · exact dropHeld_board ..
    · rfl
  · split
    · rw [dropHeld_fresh, hs.quiet]
    · exact hs.quiet

/-! ## The region of a die (R63, R65) -/

/-- An offset within page number `q` of a die's region holds what the region's table lists there. -/
theorem pageAt_dieRegion {s q o : Nat} (hs : s < 4) (hq : q < 0x1000) (ho : o < 0x1000) :
    pageAt (dieRegion s + 0x1000 * q + o) = diePageAt s q := by
  have hregion : (dieRegion s + 0x1000 * q + o) / 0x1000000 = s + 1 := by unfold dieRegion; omega
  have hpage : (dieRegion s + 0x1000 * q + o) % 0x1000000 / 0x1000 = q := by unfold dieRegion; omega
  simp only [pageAt, hregion, hpage]
  rw [if_neg (by omega), if_pos (by omega), Nat.add_sub_cancel]

/-- R65 gives a TWIN page to the even sites alone. -/
theorem noPage_twin_odd {s o : Nat} (hs : s < 4) (hodd : s % 2 = 1) (ho : o < 0x1000) : NoPage (pgTwin s + o) := by
  have hhole : diePageAt s 0xAD = none := by simp [diePageAt, hodd]
  have hat : pageAt (pgTwin s + o) = diePageAt s 0xAD := pageAt_dieRegion (q := 0xAD) hs (by decide) ho
  have hbook : 0x1C0000 ≤ pgTwin s + o := by unfold pgTwin dieRegion; omega
  exact ⟨hat.trans hhole, .inr hbook⟩

/-- Settles O6: outside the address book an absent page has nothing to read or to write, and the TWIN offsets of the odd sites are holes
of their regions. -/
theorem absentPages : Obligations.AbsentPages := by
  unfold Obligations.AbsentPages
  refine ⟨fun d a h => readReg_noPage h, ?_, ?_⟩
  · intro who a val be hi s hs hn hr
    exact regWrite_ends_noPage val be hi hs hn hr
  · intro o ho
    exact ⟨noPage_twin_odd (by decide) (by decide) ho, noPage_twin_odd (by decide) (by decide) ho⟩

end Sys2Proof.Machine
end

section
/-!
PROOFS. Loss of a clock (R73): a cluster that is fenced at once can lose the record of its own class F. Its fence completes a seal, and
the recopy that follows meets two uncorrectable words: the first asks for the fence of the die, the second for a halt (R476, R477). The
halt rejects the pending commits (R58) by a write of each one's COMMIT_STAT. A commit request names the first address of a page (R55), but
`Steady` says nothing of the commits that are already pending.
-/
namespace Sys2Proof.Machine

/-! ## A command whose fences ask for a halt (R481) -/

theorem runFences_halting {n : Nat} {d : Dev} (h : d.board.haltReq.isSome = true) : runFences n d = d := by
  cases n with
  | zero => rfl
  | succ n => unfold runFences; rw [if_pos h]

/-- The start-up does not go on beside a halt, but where it waits for a stack. -/
theorem bootProgress_halting {d : Dev} (h : d.board.haltReq.isSome = true) (h6 : d.board.bootStep ≠ 6) : bootProgress d = d := by
  have hn : d.board.haltReq.isNone = false := by simpa using h
  have hlevel : levelStep d = d := by unfold levelStep; rw [if_pos (.inr (.inr h))]
  have hedges : edgesStep d = d := by unfold edgesStep; simp [hn]
  unfold bootProgress
  simp [hlevel, hedges, h6]

theorem settle_halting {d e : Dev} {c : HaltCause} (hd : d.board.halted = false) (he : runFences 4096 { d with fresh := [] } = e)
    (hc : e.board.haltReq = some c) (h6 : e.board.bootStep ≠ 6) : settle d = { halt e c with fresh := [] } := by
  have hs : e.board.haltReq.isSome = true := by rw [hc]; rfl
  unfold settle
  simp [hd, he, bootProgress_halting hs h6, runFences_halting hs, hc]

/-- PLL_UNLOCK on a live package ends in one device. -/
theorem pllUnlock_ends {which : ClockLoop} {s : State} {d : Dev} (hs : Live s.dev) (h : Ends (.pllUnlock which) s d) :
    d = settle (pllUnlock s.dev which) := by
  have he : exec (.pllUnlock which) s = .next { s with dev := settle (pllUnlock s.dev which) } := by
    have hx : exec (.pllUnlock which) s = gated (fun x => pllUnlock x which) s := rfl
    rw [hx, gated]
    simp [hs.1, hs.2]
  have hn := he.symm.trans h
  injection hn with hn
  exact (congrArg State.dev hn).symm

/-! ## The state that refutes O7 -/

/-- Die 0 alone is in service and cluster 0 of it is OFF. The twin unit waits, RESYNC_ARMED, for a seal that lacks no die and is then to copy
64 KiB from core memory 8 on, two words of which hold two flipped bits each. The one pending commit stands so far below the cluster's page that its
COMMIT_STAT is the ERR_STAT of the page. -/
def strayCommit : Dev :=
  { Dev.reset with
    board := { Board.reset with pwrOk := true, perstN := true, optics := true, bootStep := 9, released := 1, ready := 1 }
    regs := [(pgCluster 0 0 + oState, 1), (pgCluster 0 0 + oEscWindow, 0),
      (twReg 0x900, BitVec.ofNat 32 (coreMemBase 0 8 / 65536)), (twReg 0x904, 1), (twReg 0xA00, BitVec.ofNat 32 twArmed)]
    commits := [(pgCluster 0 0 + oErrStat - oCommitStat, some ⟨.manager, [], 0⟩)]
    twin := { Twin.reset with given := 1, resync := some 0, peerJoined := true }
    sramErr := [(coreMemBase 0 8 / 8, 3), (coreMemBase 0 8 / 8 + 1, 3)] }
/-- The device after the fences that the loss of lock of cluster 0 asks for, before the halt. -/
def strayFenced : Dev := runFences 4096 { pllUnlock strayCommit (.cluster 0 0) with fresh := [] }

/-- It meets every premise of the clause on clusters. -/
theorem strayCommit_steady : Steady strayCommit ∧ dieUp strayCommit 0 = true ∧ strayCommit.board.fencing = []
    ∧ ownState strayCommit (pgCluster 0 0) = stOff ∧ Calm strayCommit (pgCluster 0 0) := by decide +kernel

/-- The cluster is FENCED with its class F recorded, and the manager asks for a halt because a die being fenced failed again. -/
theorem strayFenced_haltReq : strayFenced.board.haltReq = some ⟨BitVec.ofNat 27 pgMgr, 0x102⟩ ∧ strayFenced.board.bootStep = 9
    ∧ ownState strayFenced (pgCluster 0 0) = stFenced ∧ tbit (regN strayFenced (pgCluster 0 0 + oErrStat)) 2 = true := by decide +kernel

/-- The halt rejects the commit with code 3, and bit 2 of ERR_STAT is gone. -/
theorem strayFenced_halt_errStat :
    regN (halt strayFenced ⟨BitVec.ofNat 27 pgMgr, 0x102⟩) (pgCluster 0 0 + oErrStat) = 3 := by decide +kernel

theorem strayCommit_errStat : regN (settle (pllUnlock strayCommit (.cluster 0 0))) (pgCluster 0 0 + oErrStat) = 3 := by
  obtain ⟨hreq, hstep, -, -⟩ := strayFenced_haltReq
  have hlive : (pllUnlock strayCommit (.cluster 0 0)).board.halted = false := by decide +kernel
  have h6 : strayFenced.board.bootStep ≠ 6 := by omega
  have hfences : runFences 4096 { pllUnlock strayCommit (.cluster 0 0) with fresh := [] } = strayFenced := by rw [strayFenced]
  have hregs : (settle (pllUnlock strayCommit (.cluster 0 0))).regs = (halt strayFenced ⟨BitVec.ofNat 27 pgMgr, 0x102⟩).regs := by
    rw [settle_halting hlive hfences hreq h6]
  rw [regN, reg, hregs]
  exact strayFenced_halt_errStat

/-- Refutes O7: a steady device may hold a pending commit under an address where no page begins. Where the fence of an OFF cluster leads to
a halt, the rejection of that commit overwrites the class F bit in the cluster's ERR_STAT, so the error is not `Recorded`. -/
theorem not_clockLossIsContained : ¬ Obligations.ClockLossIsContained := by
  unfold Obligations.ClockLossIsContained
  intro h
  obtain ⟨hsteady, hup, hnone, hoff, hcalm⟩ := strayCommit_steady
  have hin : ownState strayCommit (pgCluster 0 0) ≠ stFenced := by rw [hoff]; decide
  obtain ⟨-, -, hdies⟩ := h { dev := strayCommit, pending := [] } hsteady
  obtain ⟨-, hclusters⟩ := hdies 0 hup hnone
  obtain ⟨d, hends, ⟨-, hbit, -⟩, -⟩ := hclusters 0 hin hcalm
  have hstat : regN d (pgCluster 0 0 + oErrStat) = 3 := by rw [pllUnlock_ends hsteady.live hends]; exact strayCommit_errStat
  have hclear : tbit (regN d (pgCluster 0 0 + oErrStat)) 2 = false := by rw [hstat]; decide
  exact Bool.false_ne_true (hclear.symm.trans hbit)

end Sys2Proof.Machine
end

section
/-!
PROOFS. The slots of a bundle word (R156, R157): the decoder reads of the word its header fields beside the enables and, of each slot, what
it holds if it is enabled and zero otherwise. A write into a slot that is off, or of the enable of a slot of zeros, changes none of them.
-/
namespace Sys2Proof.Machine

/-! ## Bit fields, bit by bit -/

theorem testBit_fld (x lo w j : Nat) : (fld x lo w).testBit j = (decide (j < w) && x.testBit (lo + j)) := by
  rw [fld, Nat.testBit_mod_two_pow, Nat.testBit_div_two_pow, Nat.add_comm j lo]

theorem tbit_eq_testBit (x i : Nat) : tbit x i = x.testBit i := by
  rw [Nat.testBit_eq_decide_div_mod_eq, tbit, fld, Nat.pow_one]

/-- A number is what stands above a field, the field, and what stands below it. -/
theorem split_at_fld (x lo w : Nat) : x = 2 ^ lo * (2 ^ w * (x / 2 ^ lo / 2 ^ w)) + x % 2 ^ lo + fld x lo w * 2 ^ lo := by
  have hlow := Nat.div_add_mod x (2 ^ lo)
  have hfld := Nat.div_add_mod (x / 2 ^ lo) (2 ^ w)
  calc x = 2 ^ lo * (2 ^ w * (x / 2 ^ lo / 2 ^ w) + x / 2 ^ lo % 2 ^ w) + x % 2 ^ lo := by rw [hfld, hlow]
    _ = _ := by rw [fld, Nat.mul_add, Nat.add_right_comm, Nat.mul_comm (2 ^ lo) (x / 2 ^ lo % 2 ^ w)]

theorem setFld_eq (x lo w v : Nat) : setFld x lo w v = 2 ^ lo * (2 ^ w * (x / 2 ^ lo / 2 ^ w) + v % 2 ^ w) + x % 2 ^ lo := by
  rw [setFld, Nat.sub_eq_of_eq_add (split_at_fld x lo w), Nat.mul_add, Nat.add_right_comm, Nat.mul_comm (2 ^ lo) (v % 2 ^ w)]

theorem testBit_setFld (x lo w v j : Nat) :
    (setFld x lo w v).testBit j = if lo ≤ j ∧ j < lo + w then v.testBit (j - lo) else x.testBit j := by
  have hlow : x % 2 ^ lo < 2 ^ lo := Nat.mod_lt _ (Nat.two_pow_pos lo)
  have hv : v % 2 ^ w < 2 ^ w := Nat.mod_lt _ (Nat.two_pow_pos w)
  rw [setFld_eq, Nat.testBit_two_pow_mul_add _ hlow, Nat.testBit_two_pow_mul_add _ hv]
  by_cases hbelow : j < lo
  · rw [if_pos hbelow, if_neg (by omega), Nat.testBit_mod_two_pow]
    simp [hbelow]
  by_cases hin : j - lo < w
  · rw [if_neg hbelow, if_pos hin, if_pos (by omega), Nat.testBit_mod_two_pow]
    simp [hin]
  · rw [if_neg hbelow, if_neg hin, if_neg (by omega), Nat.testBit_div_two_pow, Nat.testBit_div_two_pow]
    congr 1
    omega

/-- A field of a field is a field of the whole. -/
theorem fld_fld {lo w n : Nat} (x l : Nat) (h : lo + w ≤ n) : fld (fld x l n) lo w = fld x (l + lo) w := by
  refine Nat.eq_of_testBit_eq fun j => ?_
  simp only [testBit_fld, Nat.add_assoc]
  by_cases hj : j < w
  · simp [hj, show lo + j < n by omega]
  · simp [hj]

theorem tbit_fld {i n : Nat} (x l : Nat) (h : i < n) : tbit (fld x l n) i = tbit x (l + i) := by
  simp [tbit_eq_testBit, testBit_fld, h]

theorem fld_setFld_of_disjoint {lo w lo' w' : Nat} (x v : Nat) (h : lo' + w' ≤ lo ∨ lo + w ≤ lo') :
    fld (setFld x lo w v) lo' w' = fld x lo' w' := by
  refine Nat.eq_of_testBit_eq fun j => ?_
  rw [testBit_fld, testBit_fld, testBit_setFld]
  by_cases hj : j < w'
  · rw [if_neg (by omega)]
  · simp [hj]

theorem tbit_setFld_of_outside {lo w i : Nat} (x v : Nat) (h : i < lo ∨ lo + w ≤ i) : tbit (setFld x lo w v) i = tbit x i := by
  rw [tbit, tbit, fld_setFld_of_disjoint x v (by omega)]

theorem fld_setBit_of_outside {i lo w : Nat} (x : Nat) (b : Bool) (h : lo + w ≤ i ∨ i < lo) : fld (setBit x i b) lo w = fld x lo w :=
  fld_setFld_of_disjoint x b.toNat h

theorem tbit_setBit_of_ne {i k : Nat} (x : Nat) (b : Bool) (h : k ≠ i) : tbit (setBit x i b) k = tbit x k :=
  tbit_setFld_of_outside x b.toNat (by omega)

/-! ## What the decoder reads of a bundle word -/

/-- What a slot holds if it is enabled, and zero otherwise. -/
def slotContent (w : Nat) (e : Nat × Nat × Nat) : Nat := if tbit (fld w 480 32) e.1 then fld w e.2.1 e.2.2 else 0

/-- Two words have the same header, the enables of the slots (bits 10:6, R156) apart. -/
def SameHeader (v w : Nat) : Prop := ∀ lo n, lo + n ≤ 6 ∨ 11 ≤ lo ∧ lo + n ≤ 32 → fld (fld v 480 32) lo n = fld (fld w 480 32) lo n

theorem SameHeader.hdrFields_eq {v w : Nat} (h : SameHeader v w) : hdrFields (fld v 480 32) = hdrFields (fld w 480 32) := by
  have hbit : ∀ i, i < 6 ∨ 11 ≤ i ∧ i < 32 → tbit (fld v 480 32) i = tbit (fld w 480 32) i := fun i hi => by
    rw [tbit, tbit, h i 1 (by omega)]
  simp only [hdrFields, h 0 3 (by decide), h 11 2 (by decide), hbit 3 (by decide), hbit 4 (by decide), hbit 5 (by decide),
    hbit 13 (by decide), hbit 14 (by decide)]

/-- The decoder reads of a word no more than its header beside the enables and what its enabled slots hold. -/
theorem decodeBundle_congr {v w : Nat} (hh : SameHeader v w) (hs : ∀ e ∈ slotsOfAWord, slotContent v e = slotContent w e) :
    decodeBundle v = decodeBundle w := by
  have hctrl := hs (6, 416, 64) (by decide)
  have hld := hs (7, 320, 96) (by decide)
  have hst := hs (8, 224, 96) (by decide)
  have hvec := hs (9, 128, 96) (by decide)
  have hmx := hs (10, 0, 128) (by decide)
  have hreserved := hh 15 17 (by decide)
  simp only [slotContent] at hctrl hld hst hvec hmx
  simp only [decodeBundle, hctrl, hld, hst, hvec, hmx, hreserved, hh.hdrFields_eq]

/-! ## Where the slots lie -/

/-- The slots lie below the header, and their enables are bits 10:6 of it. -/
theorem slot_bounds : ∀ e ∈ slotsOfAWord, e.2.1 + e.2.2 ≤ 480 ∧ 6 ≤ e.1 ∧ e.1 < 11 := by decide

/-- Two slots of a word are one, or have neither a bit nor their enable in common. -/
theorem slots_disjoint : ∀ e ∈ slotsOfAWord, ∀ e' ∈ slotsOfAWord,
    e' = e ∨ e'.1 ≠ e.1 ∧ (e'.2.1 + e'.2.2 ≤ e.2.1 ∨ e.2.1 + e.2.2 ≤ e'.2.1) := by decide

theorem slotContent_eq {e : Nat × Nat × Nat} (w : Nat) (he : e ∈ slotsOfAWord) :
    slotContent w e = if tbit w (480 + e.1) then fld w e.2.1 e.2.2 else 0 := by
  obtain ⟨-, -, hen⟩ := slot_bounds e he
  rw [slotContent, tbit_fld w 480 (by omega)]

/-! ## A write into a slot that is off -/

theorem sameHeader_setFld {e : Nat × Nat × Nat} (w x : Nat) (he : e ∈ slotsOfAWord) : SameHeader (setFld w e.2.1 e.2.2 x) w := by
  obtain ⟨hbelow, -, -⟩ := slot_bounds e he
  intro lo n _
  rw [fld_setFld_of_disjoint w x (.inr hbelow)]

theorem slotContent_setFld {e e' : Nat × Nat × Nat} {w : Nat} (x : Nat) (he : e ∈ slotsOfAWord) (he' : e' ∈ slotsOfAWord)
    (hoff : tbit w (480 + e.1) = false) : slotContent (setFld w e.2.1 e.2.2 x) e' = slotContent w e' := by
  obtain ⟨hbelow, -, -⟩ := slot_bounds e he
  rw [slotContent_eq _ he', slotContent_eq _ he', tbit_setFld_of_outside w x (by omega)]
  obtain rfl | ⟨-, hdisjoint⟩ := slots_disjoint e he e' he'
  · simp [hoff]
  · rw [fld_setFld_of_disjoint w x hdisjoint]

/-! ## The enable of a slot of zeros -/

theorem sameHeader_setBit {e : Nat × Nat × Nat} (w : Nat) (b : Bool) (he : e ∈ slotsOfAWord) : SameHeader (setBit w (480 + e.1) b) w := by
  obtain ⟨-, hlo, hhi⟩ := slot_bounds e he
  intro lo n hn
  rw [fld_fld _ _ (by omega), fld_fld _ _ (by omega), fld_setBit_of_outside w b (by omega)]

theorem slotContent_setBit {e e' : Nat × Nat × Nat} {w : Nat} (b : Bool) (he : e ∈ slotsOfAWord) (he' : e' ∈ slotsOfAWord)
    (hzero : fld w e.2.1 e.2.2 = 0) : slotContent (setBit w (480 + e.1) b) e' = slotContent w e' := by
  obtain ⟨hbelow, -, -⟩ := slot_bounds e' he'
  rw [slotContent_eq _ he', slotContent_eq _ he', fld_setBit_of_outside w b (by omega)]
  obtain rfl | ⟨hne, -⟩ := slots_disjoint e he e' he'
  · simp [hzero]
  · rw [tbit_setBit_of_ne w b (by omega)]

/-- The enable of a slot that holds zeros makes no difference to the bundle (R157). -/
theorem decodeBundle_setBit {e : Nat × Nat × Nat} {w : Nat} (b : Bool) (he : e ∈ slotsOfAWord) (hzero : fld w e.2.1 e.2.2 = 0) :
    decodeBundle (setBit w (480 + e.1) b) = decodeBundle w :=
  decodeBundle_congr (sameHeader_setBit w b he) fun _ he' => slotContent_setBit b he he' hzero

/-- Settles O8: the decoder takes a slot that is off as zeros, whatever it holds, and so decodes an enabled slot of zeros the same. -/
theorem slotsThatAreOff : Obligations.SlotsThatAreOff := by
  unfold Obligations.SlotsThatAreOff
  intro w e he
  constructor
  · intro x hoff
    exact decodeBundle_congr (sameHeader_setFld w x he) fun _ he' => slotContent_setFld x he he' hoff
  · intro hzero
    exact (decodeBundle_setBit true he hzero).trans (decodeBundle_setBit false he hzero).symm

end Sys2Proof.Machine
end

section
/-!
PROOFS. MX.WLOAD at the head of the array queue (R209). A binding is an entry of a sparse map from arrays to registers; the command drops
the entries of its register, then writes one for each array it names.
-/
namespace Sys2Proof.Machine

/-! ## Dropping and writing many entries of a sparse map -/

theorem sget_of_lt_risingFrom {α : Type} (d : Nat → α) {m : Sparse α} {lo j : Nat} (h : risingFrom lo m = true) (hj : j < lo) :
    sget d m j = d j := by
  induction m generalizing lo with
  | nil => rfl
  | cons e m ih =>
    obtain ⟨i, v⟩ := e
    simp only [risingFrom, Bool.and_eq_true, decide_eq_true_eq] at h
    obtain ⟨hlo, hrest⟩ := h
    rw [sget, if_neg (by omega), ih hrest (by omega)]

/-- With the keys rising each key has one entry at most, so a filter uncovers no second one. -/
theorem sget_filter {α : Type} (d : Nat → α) {m : Sparse α} {lo : Nat} (h : risingFrom lo m = true) (p : Nat × α → Bool) (j : Nat) :
    sget d (m.filter p) j = if p (j, sget d m j) then sget d m j else d j := by
  induction m generalizing lo with
  | nil => exact (ite_self _).symm
  | cons e m ih =>
    obtain ⟨i, v⟩ := e
    simp only [risingFrom, Bool.and_eq_true, decide_eq_true_eq] at h
    obtain ⟨-, hrest⟩ := h
    rw [List.filter_cons]
    by_cases hij : i = j
    · subst hij
      have hgone : sget d (m.filter p) i = d i := sget_of_lt_risingFrom d (risingFrom_filter p hrest) (Nat.lt_succ_self i)
      by_cases hp : p (i, v) <;> simp [sget, hp, hgone]
    · by_cases hp : p (i, v) <;> simp [sget, hp, hij, ih hrest]

theorem sget_foldl_sput {α : Type} [DecidableEq α] (d : Nat → α) (x : α) (l : List Nat) (m : Sparse α) (j : Nat) :
    sget d (l.foldl (fun m a => sput d m a x) m) j = if j ∈ l then x else sget d m j := by
  induction l generalizing m with
  | nil => simp
  | cons a l ih =>
    rw [List.foldl_cons, ih, sget_sput]
    by_cases hl : j ∈ l <;> simp [hl]

/-! ## The arrays of a mask -/

theorem mem_arraysOf (b : BitVec 4) (a : Nat) : a ∈ arraysOf b.toNat ↔ b.getLsbD a = true := by
  rw [arraysOf, List.mem_filter, List.mem_range, tbit_eq_testBit, BitVec.testBit_toNat]
  exact and_iff_right_of_imp fun h => BitVec.lt_of_getLsbD h

theorem arraysOf_eq_nil (b : BitVec 4) : arraysOf b.toNat = [] ↔ b = 0 := by
  simp only [List.eq_nil_iff_forall_not_mem, mem_arraysOf, Bool.not_eq_true]
  constructor
  · intro h
    exact BitVec.eq_of_getLsbD_eq fun i _ => (h i).trans BitVec.getLsbD_zero.symm
  · rintro rfl a
    exact BitVec.getLsbD_zero

/-! ## What MX.WLOAD binds -/

theorem bindArrays_none {f : MxWloadF} (c : Core) (sp : BitVec 2) (h : f.arrays = 0) : bindArrays c f sp = c :=
  if_pos ((arraysOf_eq_nil _).mpr h)

theorem bindArrays_some {f : MxWloadF} (c : Core) (sp : BitVec 2) (h : f.arrays ≠ 0) :
    bindArrays c f sp =
      { c with binds := (arraysOf f.arrays.toNat).foldl (fun b a => sput zeroNat b a (f.ds.toNat + 1))
                 (c.binds.filter fun e => e.2 != f.ds.toNat + 1)
               sparsity := (arraysOf f.arrays.toNat).foldl (fun b a => sput zeroNat b a sp.toNat) c.sparsity } :=
  if_neg fun hnone => h ((arraysOf_eq_nil _).mp hnone)

theorem sget_binds_bindArrays {c : Core} (f : MxWloadF) (sp : BitVec 2) (a : Nat) (h : swf zeroNat c.binds = true) (hf : f.arrays ≠ 0) :
    sget zeroNat (bindArrays c f sp).binds a =
      if f.arrays.getLsbD a then f.ds.toNat + 1
      else if sget zeroNat c.binds a = f.ds.toNat + 1 then 0 else sget zeroNat c.binds a := by
  obtain ⟨hrising, -⟩ := (swf_iff _ _).mp h
  simp only [bindArrays_some c sp hf, sget_foldl_sput, mem_arraysOf, sget_filter zeroNat hrising, bne_iff_ne, ite_not, zeroNat]

theorem bindOf_bindArrays {c : Core} (f : MxWloadF) (sp : BitVec 2) (a : Nat) (h : swf zeroNat c.binds = true) (hf : f.arrays ≠ 0) :
    bindOf (bindArrays c f sp) a =
      if f.arrays.getLsbD a then some f.ds.toNat else if bindOf c a = some f.ds.toNat then none else bindOf c a := by
  simp only [bindOf, sget_binds_bindArrays f sp a h hf]
  by_cases hnamed : f.arrays.getLsbD a
  · simp [hnamed]
  by_cases hfree : sget zeroNat c.binds a = 0
  · simp [hnamed, hfree]
  by_cases hds : sget zeroNat c.binds a = f.ds.toNat + 1
  · simp [hnamed, hds]
  · have hother : sget zeroNat c.binds a - 1 ≠ f.ds.toNat := by omega
    simp [hnamed, hfree, hds, hother]

theorem sget_sparsity_bindArrays (c : Core) {f : MxWloadF} (sp : BitVec 2) (a : Nat) (hf : f.arrays ≠ 0) :
    sget zeroNat (bindArrays c f sp).sparsity a = if f.arrays.getLsbD a then sp.toNat else sget zeroNat c.sparsity a := by
  simp only [bindArrays_some c sp hf, sget_foldl_sput, mem_arraysOf]

/-! ## MX.WLOAD at the head of the queue -/

theorem wloadMismatch_eq_false {c : Core} {f : MxWloadF} {sp : BitVec 2} (hflow : c.flow = 0) (harrays : f.arrays &&& ~~~ c.arrays = 0)
    (hsparse : sp = 0 ∨ c.atype ≠ 1) : wloadMismatch c f sp = false := by
  have hdense : (sp != 0 && c.atype == 1) = false := by
    obtain h | h := hsparse
    · rw [h, bne_self_eq_false, Bool.false_and]
    · rw [beq_false_of_ne h, Bool.and_false]
  rw [wloadMismatch, hflow, harrays, hdense, bne_self_eq_false, bne_self_eq_false]
  rfl

/-- What the arrays do between operations is all that going quiet changes of a core (R79). -/
theorem idleFiller_frame (d : Dev) (site : Nat) (c : Core) : idleFiller d site c = { c with filler := (idleFiller d site c).filler } := rfl

theorem queueHead_wload {d : Dev} {site k : Nat} {f : MxWloadF} {sp : BitVec 2} {num : Nat} {pc : W64} {rest : List MxOp}
    (hcur : (getCore d (coreKey site k)).cur = none) (hqueue : (getCore d (coreKey site k)).queue = .wload f sp num pc :: rest)
    (hfits : wloadMismatch (getCore d (coreKey site k)) f sp = false) :
    ∃ fl, queueHead d site k =
      putCore d (coreKey site k) { bindArrays (getCore d (coreKey site k)) f sp with queue := rest, filler := fl } := by
  refine ⟨(idleFiller d site { bindArrays (getCore d (coreKey site k)) f sp with queue := rest }).filler, ?_⟩
  rw [queueHead]
  simp only [hcur, hqueue, hfits, Option.isSome_none, Bool.false_eq_true, if_false]
  rw [idleFiller_frame]

/-- MX_QUEUE_HEAD ends in the write of its core, where that is all that the head of the queue does. -/
theorem mxQueueHead_ends {c : CoreRef} {s : State} {x : Core} (hs : Steady s.dev)
    (h : queueHead s.dev c.site.val c.core.val = putCore s.dev (keyOf c) x) :
    Ends (.mxQueueHead c) s (putCore s.dev (keyOf c) x) := by
  have he : exec (.mxQueueHead c) s = gated (fun d => queueHead d c.site.val c.core.val) s := rfl
  rw [Ends, he, gated_steady hs (by rw [h, putCore_board]) (by rw [h, putCore_fresh, hs.quiet]), h]

/-- Settles O9: an MX.WLOAD that fits the mode leaves the queue and writes the bindings and sparsity of `bindArrays`. -/
theorem wloadBinds : Obligations.WloadBinds := by
  unfold Obligations.WloadBinds
  intro c s rest f sp num pc hs co after hcur hqueue hflow harrays hsparse
  obtain ⟨fl, hhead⟩ : ∃ fl, queueHead s.dev c.site.val c.core.val = after { bindArrays co f sp with queue := rest, filler := fl } :=
    queueHead_wload hcur hqueue (wloadMismatch_eq_false hflow harrays hsparse)
  have hends := mxQueueHead_ends hs hhead
  constructor
  · intro hzero
    rw [bindArrays_none co sp hzero] at hends
    exact ⟨fl, hends⟩
  · intro hsome hbinds
    refine ⟨(bindArrays co f sp).binds, (bindArrays co f sp).sparsity, fl, ?_, fun a _ => ?_⟩
    · rwa [bindArrays_some co sp hsome] at hends ⊢
    · exact ⟨bindOf_bindArrays f sp a hbinds hsome, sget_sparsity_bindArrays co sp a hsome⟩

end Sys2Proof.Machine
end
